-- ==== Sys2Proof/Word.lean ====
section
/-!
DEFINITION. The plain types every other file is written in: bytes, words, and the sparse tables the state uses for
things that exist in very large fixed numbers (4,096 tiles, 64 clusters, 18 ports), of which most stand at reset.
-/

namespace Sys2Proof

abbrev Byte := BitVec 8
abbrev Word := BitVec 32
abbrev Dword := BitVec 64
/-- A beat number: 1 µs of Varuni time, 48 bits (R6, R19). -/
abbrev Beat := BitVec 48
/-- A logical tile ID, 64y + x (00_scope, coordinate conventions). -/
abbrev TileId := BitVec 12
/-- One mesh flit: 32 bytes (R6, R124). -/
abbrev FlitWord := BitVec 256

/-- A table with numbered entries, listed by rising number; a number not listed has the value its reader names. -/
abbrev SMap (α : Type) := List (Nat × α)

/-- Memory as listed bytes (Host.Cell): addresses strictly rising, no listed byte equal to what an unlisted one reads as. -/
abbrev Memory := List Host.Cell

end Sys2Proof
end

