-- ==== Sys2Proof/Syntax.lean ====
section
/-!
DEFINITION. The commands: one constructor per row of spec/opcode_table.json, in the table's order. A row is one
whole step of the part (95_what_each_step_holds); its operands are what the step is told from outside: the operands an
instruction encodes (04_wide_code), and for an event what the environment decides (which packet arrived, what a sensor
read, whether a check passed). Commands to the host rings name the accepted command they run by its journal sequence
number.
-/

namespace Sys2Proof

/-! ## Tile engines (03, 04) -/

/-- The five engines of a tile, engine codes 0 to 4. -/
inductive Engine where
  | sc | te | ve | whisk | ne
deriving DecidableEq, Repr

/-- A wait count: an immediate 1–255, or the ACTIVE PARAM entry named (R59, R60). -/
inductive WaitCount where
  | imm (n : BitVec 8)
  | param (p : BitVec 6)
deriving DecidableEq, Repr

/-- One wait of an instruction (R59). -/
structure Wait where
  take : Bool
  tally : BitVec 5
  cnt : WaitCount
deriving DecidableEq, Repr

/-- A local SIGNAL: tally and increment 1–255 (R59). -/
structure Signal where
  tally : BitVec 5
  inc : BitVec 8
deriving DecidableEq, Repr

/-- What every instruction carries beside its operands: the tile that issues it, its waits, its signal, its gate. -/
structure Issue where
  tile : TileId
  wait0 : Option Wait := none
  wait1 : Option Wait := none
  signal : Option Signal := none
  gate : Option (BitVec 12) := none
deriving DecidableEq, Repr

/-- A memory operand (R63). -/
structure MRef where
  mem : BitVec 2
  areg : BitVec 3
  off : BitVec 11
deriving DecidableEq, Repr

/-- A tensor-engine operand (R63). -/
structure TRef where
  areg : BitVec 3
  off : BitVec 10
deriving DecidableEq, Repr

/-- That a wide access of this instruction coincides, in one bank of one memory, with a wide access of another engine
that is in progress: a matter of timing below the beat, so an operand (R114). `more`: conflicts of it in the same cycle, as memory, bank and
engine. -/
structure Clash where
  mem : BitVec 2
  bank : BitVec 4
  other : Engine
  more : List (BitVec 2 × BitVec 4 × Engine) := []
deriving DecidableEq, Repr

/-- Loop count of a physical loop-start (R57, R73). -/
inductive LoopCount where
  | imm (n : BitVec 10)
  | param (p : BitVec 6)
deriving DecidableEq, Repr

/-- A flow descriptor of the network engine (R72). -/
structure FlowDesc where
  flow : BitVec 16
  kind : BitVec 2
  dest : BitVec 12
  spanEnd : BitVec 12
  dmem : BitVec 2
  dbase : BitVec 17
  hsig : Bool
  htally : BitVec 5
  hinc : BitVec 8
  unit : BitVec 2
  vault : BitVec 6
deriving DecidableEq, Repr

/-! ## Mesh (07) -/

/-- How a flit arrived over a link with 10 check bits (R133). -/
inductive LinkErr where
  | clean | corrected | uncorrectable
deriving DecidableEq, Repr

/-- Where an error response to a Ladle comes from (R184). -/
inductive ErrFrom where
  | unit | host | wrapper
deriving DecidableEq, Repr

/-- The six router ports, port codes 1 to 6 (R123). -/
inductive RPort where
  | north | east | south | west | loc | cluster
deriving DecidableEq, Repr

/-- The packet classes of the mesh (R125). -/
inductive MClass where
  | plan | tally | ctrl
deriving DecidableEq, Repr

/-- Where a credit returns to: an output of the tile's router, or the tile's own injection into it (R48, R129). -/
inductive CreditSite where
  | output (p : RPort)
  | inject
deriving DecidableEq, Repr

/-- The meaning of a CTRL order of the loader or the control tree at a tile; its INLINE layout is internal (R402). -/
inductive LoaderOrder where
  /-- instruction-memory words of engine e from word address a on (R42) -/
  | imem (e : Engine) (a : BitVec 11) (words : List (BitVec 64))
  /-- a task register pair (R112) -/
  | task (t : BitVec 2) (a b : Word)
  /-- the slot's segment ID and, per engine 0 to 4, entry PC and stream length in words -/
  | slot (slot : BitVec 3) (seg : BitVec 16) (streams : List (BitVec 16 × BitVec 16))
  /-- flow descriptor fd of a slot (R72) -/
  | desc (slot : BitVec 3) (fd : BitVec 6) (d : FlowDesc)
  /-- the slot is emptied -/
  | clearSlot (slot : BitVec 3)
deriving DecidableEq, Repr

/-- How a CTRL order of the loader or the control tree comes to a tile: delivered to its receive side; or formed by its cluster controller or by
Ermond and sent to it, with operation code 0x10 + op and LEN data flits (R402). -/
inductive OrderVia where
  | delivered
  | controller (op : BitVec 4) (len : BitVec 5)
  | ermond (op : BitVec 4) (len : BitVec 5)
deriving DecidableEq, Repr

/-- A place that has a PLAN ownership list (R26, R177): a router output, a Skillet intake, a cluster or host Ladle intake,
an LPX write intake, the Sieve intake, a Novbo port egress. -/
inductive OwnPort where
  | router (t : TileId) (p : RPort)
  | skillet (v : BitVec 6)
  | ladle (c : BitVec 6)
  | hostLadle (n : BitVec 1)
  | lpx (h : BitVec 1)
  | sieve
  | novbo (n : BitVec 5)
deriving DecidableEq, Repr

/-- The four requesters of a vault bank, in their rotation (R145). -/
inductive VaultReq where
  | ladle | skillet | controller | scrub
deriving DecidableEq, Repr

/-- One access to DRAM: a read of `len` bytes at a device address, or a write of bytes. -/
inductive MemReq where
  | read (addr : BitVec 40) (len : BitVec 8)
  | write (addr : BitVec 40) (data : List Byte)
deriving DecidableEq, Repr

/-- A request to an LPDDR6 channel: an access of another requester, or the oldest read request of a Ladle. -/
inductive LpReq where
  | mem (r : MemReq)
  | ladleRead (l : BitVec 7)
deriving DecidableEq, Repr

/-- Where a drain interval is counted: a bank of a router (R141), or a bank of the rank table (R220). -/
inductive DrainSite where
  | router (t : TileId) (bank : BitVec 1)
  | rankTable (bank : BitVec 1)
deriving DecidableEq, Repr

/-- What a Novbo receiver finds at a unit boundary (R189): the link words of a packet, with the payload units whose marks say that they
are poison; any other first byte; a codeword that the FEC cannot correct. -/
inductive NovboRx where
  | packet (words : List (BitVec 64)) (poison : List Nat)
  | badBoundary (words : List (BitVec 64))
  | fecUncorrectable (words : List (BitVec 64))
deriving DecidableEq, Repr

/-- Items of PCI Express configuration space that the manual names (R274, R275): identity, payload and request sizes as codes k of 128 × 2^k bytes, D3hot,
ASPM L1, ECRC, Precision Time Measurement, the base-2 logarithm of the size of BAR2, AER's Unsupported Request status and the address it logged. -/
inductive PciItem where
  | vendorId | deviceId | classCode | maxPayload | maxRead | d3hot | aspmL1 | ecrcGen | ecrcCheck | ptm | bar2Size | msixControl | aerStatus
  | aerHeader (dw : BitVec 2)
deriving DecidableEq, Repr

/-- Where a request of the host goes: a BAR, or an item of configuration space. -/
inductive HostSpace where
  | bar0 | bar2 | bar4
  | config (x : PciItem)
deriving DecidableEq, Repr

/-- An access to an optical module (R213): a write of NBP_OPT_ACC, or the end of the access under way with the byte that the module gave, any
byte for a write, none where it does not acknowledge. -/
inductive OpticsStep where
  | write (value : Word)
  | answer (b : Option (BitVec 8))
deriving DecidableEq, Repr

/-- What a PLDM for Firmware Update writes: firmware slot A or B, the tile-repair map, the identity record (R348, R352). -/
inductive PldmTarget where
  | slotA | slotB | repair | ident
deriving DecidableEq, Repr

/-- The commands, one per row of the table. -/
inductive Instr where
  -- common opcodes (R64, R73)
  | sync (e : Engine) (k : Issue)
  | endStream (e : Engine) (k : Issue) (seg : BitVec 16)
  | amov (e : Engine) (k : Issue) (ad : BitVec 3) (imm : Word)
  | aadd (e : Engine) (k : Issue) (ad : BitVec 3) (imm : Word)
  | apar (e : Engine) (k : Issue) (ad : BitVec 3) (p : BitVec 6)
  | loopStart (e : Engine) (k : Issue) (n : LoopCount) (body : BitVec 16)
  | loopEnd (e : Engine) (k : Issue)
  -- scalar core (R65, R66)
  | add (k : Issue) (gd ga gb : BitVec 5)
  | sub (k : Issue) (gd ga gb : BitVec 5)
  | and (k : Issue) (gd ga gb : BitVec 5)
  | or (k : Issue) (gd ga gb : BitVec 5)
  | xor (k : Issue) (gd ga gb : BitVec 5)
  | sll (k : Issue) (gd ga gb : BitVec 5)
  | srl (k : Issue) (gd ga gb : BitVec 5)
  | sra (k : Issue) (gd ga gb : BitVec 5)
  | slt (k : Issue) (gd ga gb : BitVec 5)
  | sltu (k : Issue) (gd ga gb : BitVec 5)
  | mul (k : Issue) (gd ga gb : BitVec 5)
  | mulhu (k : Issue) (gd ga gb : BitVec 5)
  | addi (k : Issue) (gd ga : BitVec 5) (imm : BitVec 24)
  | andi (k : Issue) (gd ga : BitVec 5) (imm : BitVec 24)
  | ori (k : Issue) (gd ga : BitVec 5) (imm : BitVec 24)
  | xori (k : Issue) (gd ga : BitVec 5) (imm : BitVec 24)
  | slli (k : Issue) (gd ga : BitVec 5) (imm : BitVec 24)
  | srli (k : Issue) (gd ga : BitVec 5) (imm : BitVec 24)
  | srai (k : Issue) (gd ga : BitVec 5) (imm : BitVec 24)
  | lui (k : Issue) (gd : BitVec 5) (imm : BitVec 24)
  | lw (k : Issue) (gd ga : BitVec 5) (imm : BitVec 24)
  | sw (k : Issue) (gb ga : BitVec 5) (imm : BitVec 24)
  | lwn (k : Issue) (gd ga : BitVec 5) (mem : BitVec 2) (imm : BitVec 24) (granted : Bool)
  | swn (k : Issue) (gb ga : BitVec 5) (mem : BitVec 2) (imm : BitVec 24) (granted : Bool)
  | beq (k : Issue) (ga gb : BitVec 5) (off : BitVec 24)
  | bne (k : Issue) (ga gb : BitVec 5) (off : BitVec 24)
  | blt (k : Issue) (ga gb : BitVec 5) (off : BitVec 24)
  | bge (k : Issue) (ga gb : BitVec 5) (off : BitVec 24)
  | bltu (k : Issue) (ga gb : BitVec 5) (off : BitVec 24)
  | bgeu (k : Issue) (ga gb : BitVec 5) (off : BitVec 24)
  | j (k : Issue) (off : BitVec 24)
  | pget (k : Issue) (gd : BitVec 5) (p : BitVec 6)
  | pset (k : Issue) (ga : BitVec 5) (p : BitVec 6)
  | pcommit (k : Issue)
  | lstart (k : Issue) (ga : BitVec 5) (ch : BitVec 3)
  | csend (k : Issue) (ga : BitVec 5)
  | rdinfo (k : Issue) (gd : BitVec 5) (sel : BitVec 2)
  -- tensor engine (R68)
  | tcfg (k : Issue) (fw fa : BitVec 4) (kb : BitVec 8) (mr : BitVec 7)
  | tmma (k : Issue) (acc : Bool) (wref aref pref : TRef) (clash : Option Clash)
  | tzero (k : Issue) (pref : TRef) (clash : Option Clash)
  -- vector engine (R70)
  | vld (k : Issue) (vd : BitVec 4) (fmt : BitVec 4) (m : MRef) (clash : Option Clash)
  | vst (k : Issue) (va : BitVec 4) (fmt : BitVec 4) (m : MRef) (clash : Option Clash)
  | vadd (k : Issue) (vd va vb : BitVec 4) (pr : Bool)
  | vsub (k : Issue) (vd va vb : BitVec 4) (pr : Bool)
  | vmul (k : Issue) (vd va vb : BitVec 4) (pr : Bool)
  | vfma (k : Issue) (vd va vb vc : BitVec 4) (pr : Bool)
  | vmax (k : Issue) (vd va vb : BitVec 4) (pr : Bool)
  | vmin (k : Issue) (vd va vb : BitVec 4) (pr : Bool)
  | vsfn (k : Issue) (vd va : BitVec 4) (fn : BitVec 4) (pr : Bool)
  | vreds (k : Issue) (vd va : BitVec 4) (pr : Bool)
  | vredm (k : Issue) (vd va : BitVec 4) (pr : Bool)
  | vbcst (k : Issue) (vd va : BitVec 4) (lane : BitVec 6)
  | vmovi (k : Issue) (vd : BitVec 4) (pat : Word)
  | vqst (k : Issue) (va : BitVec 4) (fmt : BitVec 4) (m : MRef) (clash : Option Clash)
  -- Whisk (R71)
  | wcopy (k : Issue) (dst src : MRef) (len : BitVec 8) (clash : Option Clash)
  | wfill (k : Issue) (dst : MRef) (pat : BitVec 16) (len : BitVec 8) (clash : Option Clash)
  | wtrn (k : Issue) (dst src : MRef) (ew : BitVec 2) (clash : Option Clash)
  -- network engine (R72)
  | nsend (k : Issue) (fd : BitVec 6) (last : Bool) (len : BitVec 5) (dareg : BitVec 3) (src : MRef) (clash : Option Clash)
  | ntally (k : Issue) (dtile : TileId) (tally : BitVec 5) (inc : BitVec 8)
  -- tile events (03, 06)
  | instructionComplete (t : TileId) (e : Engine) (i : Nat)
  | waitTimeout (t : TileId) (e : Engine)
  | replayStart (t : TileId) (slot : BitVec 3) (count : BitVec 64)
  | replayDone (t : TileId)
  | tileHaltReport (t : TileId)
  | narrowAccess (t : TileId) (mem : BitVec 4) (busy : List (Nat × Option Engine))
  | narrowStarve (t : TileId) (mem : BitVec 4)
  | correctionWriteback (t : TileId)
  | tileScrubRead (t : TileId) (busy : Bool)
  | zeroFill (t : TileId)
  | zeroFillComplete (t : TileId)
  | tileClear (t : TileId)
  | taskRegisterWrite (t : TileId) (task : BitVec 2) (isB : Bool) (value : Word)
  -- mesh (02, 07)
  | planPacketAtPort (t : TileId) (inp out : RPort) (link came : LinkErr)
  | ownershipPass (p : OwnPort)
  | replayOrderAtPort (p : OwnPort) (seg : BitVec 16) (count : BitVec 64)
  | flitForward (t : TileId) (out : RPort) (link came : LinkErr)
  | creditReturn (t : TileId) (site : CreditSite) (cls : MClass)
  | packetDelivery (t : TileId) (busy : Bool)
  | tallyPacketArrival (t : TileId)
  | paramWrite (t : TileId)
  | paramCommit (t : TileId)
  | loaderOrder (t : TileId) (via : OrderVia) (order : LoaderOrder)
  | fenceTakesEffect (t : TileId)
  | reinstateAtBeat (t : TileId)
  | drainIntervalExpiry (site : DrainSite)
  | routeTableWrite (t : TileId) (off : BitVec 8) (value : Word)
  -- vaults and Skillets (08)
  | vaultRequest (v : BitVec 6) (ch : BitVec 1) (bank : BitVec 6) (waiting : List (VaultReq × MemReq))
  | vaultRefresh (v : BitVec 6) (ch : BitVec 1) (bank : BitVec 6)
  | hotrefChange (v : BitVec 6) (temp : BitVec 8)
  | vaultScrubRead (v : BitVec 6)
  | score (v : BitVec 6)
  | attend (v : BitVec 6)
  -- the LPDDR6 tier and the Ladles (09); Ladle 0 to 63 of a cluster, 64 and 65 HL0 and HL1
  | lpTraining (c : BitVec 5) (passes : List (BitVec 2))
  | lpDriftCheck (c : BitVec 5) (drift : Bool)
  | lpRefresh (c : BitVec 5) (bank : BitVec 6)
  | lpPowerDown (c : BitVec 5) (park : Bool)
  | lpRequest (c : BitVec 5) (req : LpReq)
  | lpScrubRead (c : BitVec 5)
  | ladleTransferStart (l : BitVec 7) (k : BitVec 4) (order : Option (List Byte))
  | ladlePacketSend (l : BitVec 7) (cycles : BitVec 8)
  | intakePacket (p : OwnPort)
  | ladleLastUnit (l : BitVec 7) (k : BitVec 4)
  | ladleResponseComplete (l : BitVec 7) (k : BitVec 4)
  | respTimeout (l : BitVec 7) (k : BitVec 4)
  | respError (l : BitVec 7) (k : BitVec 4) (src : ErrFrom)
  | ladleDisable (l : BitVec 7)
  | ladleClr (l : BitVec 7) (k : BitVec 4)
  -- Novbo ports (10)
  | portTraining (n : BitVec 5) (result : Option Bool)
  | portRetry (n : BitVec 5)
  | retrain (n : BitVec 5)
  | novboPacketReceive (n : BitVec 5) (corr : BitVec 8) (rx : NovboRx)
  | novboAck (n : BitVec 5) (w : Dword)
  | novboNak (n : BitVec 5) (w : Dword)
  | takeover (n : BitVec 5) (w : Dword)
  | ident (n : BitVec 5) (w : Dword)
  | pool (n : BitVec 5) (w : Dword)
  | ackDue (n : BitVec 5)
  | lcwDue (n : BitVec 5)
  | replayTimer (n : BitVec 5)
  | transmitSlot (n : BitVec 5) (sub : BitVec 8)
  | egressPlan (n src : BitVec 5)
  | ingressPlan (n : BitVec 5)
  | portHaltClear (n : BitVec 5)
  | lockLoss (n : BitVec 5) (lane : BitVec 2)
  | lockRegained (n : BitVec 5) (lane : BitVec 2)
  | portDown (n : BitVec 5)
  | portEnableWrite (n : BitVec 5) (en : Bool)
  | loopWrite (n : BitVec 5) (depth : BitVec 3)
  | takeoverSend (n : BitVec 5)
  | probationEnd (n : BitVec 5)
  | handback (n : BitVec 5)
  | handbackMarkerReceive (n : BitVec 5)
  | opticsPoll (n : BitVec 5) (present alarm : Bool) (temp : BitVec 8) (rx : BitVec 16)
  | opticsAccess (n : BitVec 5) (x : OpticsStep)
  -- the fleet (11)
  | syncMgmtBulkIngress (n : BitVec 5)
  | prepare
  | startAck
  | startNack
  | commit
  | abort
  | syncAction
  | noAck
  | abortedNoCommit
  | jobRun
  | epochSwitch
  | fenceRank
  | unfenceRank
  | swapLayersAction
  | jobEnd
  -- clock regions and the ladder (12)
  | ladderStep (r : BitVec 7) (slack : Bool) (temp : BitVec 8)
  | upDwellExpiry (r : BitVec 7) (temp : BitVec 8)
  | thermalStep (r : BitVec 7) (temp : BitVec 8)
  | droopTrip (r : BitVec 7)
  | droopClear (r : BitVec 7)
  | droopLong (r : BitVec 7)
  | refLoss
  | refLossFatal
  -- Varuni time (12)
  | beaconReq
  | beaconReqReceive (n : BitVec 5) (sub : BitVec 8)
  | beaconRespReceive (n : BitVec 5) (sub : BitVec 8)
  | beaconTimeout
  | ppsEdge (sub : BitVec 8)
  | ppsLossInterval
  | ptmDialog (host : Option Dword) (sub : BitVec 8)
  | sourceChange (src : BitVec 2)
  | timeRestep
  | snap
  | beatBoundary (last : BitVec 16) (late : List (BitVec 6))
  | timePulse (k : BitVec 2)
  | timePulseEnable (k : BitVec 2) (en : Bool)
  -- the Kettle (13)
  | heldStartGrant
  | kettleCapCheck (avg : BitVec 16) (stage stack : BitVec 8) (vin : BitVec 16)
  -- the host interface (14)
  | submissionDoorbell (b : BitVec 6) (value : Word)
  | completionDoorbell (value : Word)
  | eventDoorbell (value : Word)
  | ringEnableWrite (ring : BitVec 7) (value : Word)
  | acceptanceRound (readErr : List (BitVec 8)) (mirrorFail : Option (BitVec 8))
  | completionWrite
  | eventWrite
  | msixMessage (vector : BitVec 11)
  | mctpOrder (desc : List Byte)
  | forwardedEventReceive
  -- commands of the host rings (14 to 17), each by the sequence number of the accepted command it runs
  | nop (seq : Dword)
  | copy (seq : Dword)
  | segLoad (seq : Dword) (hostErr : Bool)
  | segUnload (seq : Dword)
  | replay (seq : Dword) (hostErr : Bool)
  | jobSetup (seq : Dword) (hostErr : Bool)
  | startJob (seq : Dword)
  | action (seq : Dword)
  | jobClear (seq : Dword)
  | fenceTile (seq : Dword)
  | reinstateTile (seq : Dword)
  | resetDomainReset (seq : Dword)
  | resetDomainRelease (seq : Dword)
  | resetDomainChip (seq : Dword)
  | powerCap (seq : Dword)
  | reqSubmit (seq : Dword) (hostErr : Bool)
  | reqCancel (seq : Dword)
  | reqPause (seq : Dword)
  | reqResume (seq : Dword)
  | reqTruncate (seq : Dword)
  | saveContext (seq : Dword)
  | restoreContext (seq : Dword)
  | srvConfig (seq : Dword)
  | srvConfigRestart (seq : Dword)
  | modelLoad (seq : Dword) (hostErr : Bool)
  | modelLoadRepair (seq : Dword) (hostErr : Bool)
  | modelUnload (seq : Dword)
  | swapLayers (seq : Dword) (hostErr : Bool)
  | modelKeyEnrol (seq : Dword) (hostErr : Bool)
  | modelKeyRevoke (seq : Dword)
  -- serving and the Sieve (15)
  | stepBoundary (m : BitVec 3) (rows : List (BitVec 14 × List Word))
  | pageDemotionComplete (handle : BitVec 14) (i : BitVec 14)
  | contextTransferComplete (seq : Dword) (hostErr : Bool)
  | sieveSlice
  | sieveDraw
  -- weights (16)
  | shardCheck (m : BitVec 3) (hostErr : Bool)
  | bulkReq
  | bulkData
  | bulkNoshard
  | peerLimitExpiry (m : BitVec 3)
  | digestScrub
  | swapLayerCopy (m : BitVec 3)
  -- resets (17, 18, 20)
  | por
  | perst
  | hotrst
  | flr
  | chipResetWrite (req : BitVec 1) (value : Word)
  | wdog
  | wdogRestart
  | therm
  | thermRestart (temp : BitVec 8)
  | chipFatal (cause index : BitVec 8)
  | fatalRestart
  | clusterFatal (cluster : BitVec 6) (cause : BitVec 4)
  | domainResetEffect (kind : BitVec 3) (index : BitVec 6)
  | domainHeld (kind : BitVec 3) (index : BitVec 6)
  | domainReleaseEffect (kind : BitVec 3) (index : BitVec 6)
  | domainRestoreComplete (kind : BitVec 3) (index : BitVec 6) (kept : Bool) (passes : List (BitVec 2))
  -- bring-up, flash and attestation (17)
  | bringupStage (fail unread : Bool) (lat : List Byte)
  | secCommit (req : BitVec 1) (value : Word)
  | pldmFirmwareUpdate (target : PldmTarget) (image : List Byte)
  | pldmPlatformMonitoring
  | getVersion (doe : Bool)
  | getCapabilities (doe : Bool) (version : BitVec 8)
  | negotiateAlgorithms (doe : Bool) (ed448 sha3 : Bool)
  | getDigests (doe : Bool)
  | getCertificate (doe : Bool) (slot : BitVec 8) (off len : BitVec 16)
  | challenge (doe : Bool) (slot : BitVec 8) (nonce : List Byte)
  | getMeasurements (doe : Bool) (index : BitVec 8) (nonce : Option (List Byte))
  -- health and test (18)
  | scoreDecay
  | marginStart (value : Word)
  | marginComplete (res0 res1 : Word)
  | prbsEnable (value : Word) (peerL4 : Bool) (errs : List Word)
  | lbgStart (value : Word) (peerL5 : Bool)
  | lbgComplete
  | memtestStart (value : Word)
  | memtestComplete (bad : List (BitVec 33))
  -- the input (20)
  | inputShutdown (volts : BitVec 16)
  -- BAR2 and registers (14, 19)
  | bar2Read (sp : HostSpace) (off : BitVec 36) (len : BitVec 13)
  | bar2Write (off : BitVec 36) (data : List Byte) (poison : Bool)
  | loRead (req : BitVec 1) (addr : BitVec 26) (dwords first last : BitVec 4)
  | genSync (req : BitVec 1)
  | unlock (req : BitVec 1) (mgt : Bool) (value : Word)
  | rankTableAccess (requester : BitVec 1) (value : Option Word)
  | oversizeAccess (write : Bool) (addr : BitVec 26) (dwords : BitVec 10)
  | slowWriteEffect
  | registerWrite (req : BitVec 1) (sp : HostSpace) (addr : BitVec 26) (dwords : List (Word × BitVec 4))
  -- pins, links and flash (12, 16, 17, 20)
  | refclkRestored
  | perstNRising
  | pcieLinkUp
  | flashWriteComplete (sec : Bool)
  | refreshMultiplierChange (c : BitVec 5) (mult : BitVec 8) (temp : BitVec 8)
  | dynamicAddressAssignment (addr : BitVec 7) (static : Option (BitVec 7))
deriving DecidableEq, Repr

end Sys2Proof
end

