-- ==== Sys2Proof/Decode.lean ====
section
/-!
DEFINITION. Words that spell commands. The table gives none of its rows any bits: a command reaches the part as an event or an access, not
as a word.
-/

namespace Sys2Proof

/-- The command that a word spells by the table's bits: none, since the table gives no row any. (DESIGN CHOICE, assumption 6) -/
def decodeTableWord (_nbits _w : Nat) : Option Instr := none

end Sys2Proof
end

