-- ==== Sys2Proof/Config.lean ====
section
/-!
DEFINITION. What an implementation fixes and what the manual leaves open. An opaque constant has no body: nothing in
Lean can evaluate it, and a claim holds whatever it is.
-/

namespace Sys2Proof

/-- The two modules (R1, R14). -/
inductive Variant where
  | pz9100 | pz9060
deriving DecidableEq, Repr

/-! Values that module flash, the stepping or the firmware image supplies (R369). -/

/-- DESIGN CHOICE, assumption 11. -/
opaque Config.genStep : BitVec 8
/-- DESIGN CHOICE, assumption 11. -/
opaque Config.genGrade : BitVec 8
/-- DESIGN CHOICE, assumption 11. -/
opaque Config.fwVersion : Word
/-- DESIGN CHOICE, assumption 11. -/
opaque Config.i3cStaticAddr : BitVec 7

/-- The Vendor ID that PCI-SIG assigned (R274). (DESIGN CHOICE, assumption 11) -/
opaque Config.vendorId : BitVec 16

/-! Free values. -/

/-- Byte i of an unspecified value, at draw n of the model's counter (R71, R98, R41). (DESIGN CHOICE, assumption 8) -/
opaque Config.undefByte : Nat → Nat → Byte
/-- An unspecified word, at draw n (R186). (DESIGN CHOICE, assumption 8) -/
opaque Config.undefWord : Nat → Word
/-- The product a failing multiplier cell (row k, column n of the array; column 32 is the checksum column) makes of two
operands, at a use of the cell that draw, tile, row and block number: the fault and the use decide (R99). (DESIGN CHOICE, assumption 19) -/
opaque Config.cellProduct : List Nat → Nat → Nat → Int → Int → Int
/-- The same for the FP32 product of a BF16 pair. (DESIGN CHOICE, assumption 19) -/
opaque Config.cellProductBf16 : List Nat → Nat → Nat → Word → Word → Word
/-- What a failing block adder tree of a column makes of an exact sum, at a use (R99). (DESIGN CHOICE, assumption 19) -/
opaque Config.treeSum : List Nat → Nat → Int → Int
/-- What a weight element of row k and column n is held as where the array holds it wrong, at a use of a panel (R99). (DESIGN CHOICE,
assumption 19) -/
opaque Config.heldWeight : List Nat → Nat → Nat → Int → Int

/-- Whether a quotient that is not exact, and whose rounding the manual does not state, is taken up rather than down: by the place
that divides, the dividend and the divisor. (DESIGN CHOICE, assumption 39) -/
opaque Config.roundUp : Nat → Int → Nat → Bool

/-- Payload word i of the loopback generator's packet of an index: the seeding of its PRBS31 is not stated (R367). (DESIGN CHOICE, assumption 80) -/
opaque Config.lbgFlit : Nat → Nat → FlitWord

/-- MGT_HEARTBEAT.COUNT, which the firmware advances in its own time, by beats begun (19). (DEDUCED, assumption 83) -/
opaque Config.heartbeat : Nat → Word

/-- How many flow descriptors stand at the end of a tile's NE words: no field of the image says so (R79). (DESIGN CHOICE, assumption 57) -/
opaque Config.descCount : List Dword → Nat

/-- KV heads and PAGE_BYTES of a model, by its FAMILY: no structure the manual gives the device names them (R308). (DESIGN CHOICE, assumption 11) -/
opaque Config.kvHeads : Nat → Nat
/-- DESIGN CHOICE, assumption 11. -/
opaque Config.pageBytes : Nat → Nat
/-- Place in a vault of the side table of a segment slot's program: the loader's own (R77). (DESIGN CHOICE, assumption 57) -/
opaque Config.sidePlace : Nat → Nat → Nat
/-- Place in LPDDR6 of a model's WARM groups, which the manual does not fix (R309). (DESIGN CHOICE, assumption 62) -/
opaque Config.warmPlace : Nat → Nat
/-- Whether the host faults a mirror write at the completion of a command, at a draw (R298). (DESIGN CHOICE, assumption 89) -/
opaque Config.mirrorFaults : Nat → Bool

/-! Boot and identity (R349, R352 to R354). -/

/-- The device secret of the die, the ROM's own image, and the certificate chain of flash. (DESIGN CHOICE, assumption 72) -/
opaque Config.uds : List Byte
/-- DESIGN CHOICE, assumption 72. -/
opaque Config.romImage : List Byte
/-- DESIGN CHOICE, assumption 72. -/
opaque Config.deviceChain : List Byte
/-- The SHAKE256 digest of the vendor key in one-time fuses (R349). (DESIGN CHOICE, assumption 72) -/
opaque Config.fuseDigest : List Byte
/-- The parts of a firmware slot: the vendor key it carries, what is signed, the signature (R349). (DESIGN CHOICE, assumption 72) -/
opaque Config.fwKey : List Byte → List Byte
/-- DESIGN CHOICE, assumption 72. -/
opaque Config.fwBody : List Byte → List Byte
/-- DESIGN CHOICE, assumption 72. -/
opaque Config.fwSignature : List Byte → List Byte
/-- The security version number that an image states. (DESIGN CHOICE, assumption 72) -/
opaque Config.fwSvn : List Byte → Nat
/-- A service package is signed by the vendor. (DESIGN CHOICE, assumption 72) -/
opaque Config.packageSigned : List Byte → Bool
/-- Private key derived from a CDI. (DEDUCED, assumption 73) -/
opaque Config.aliasKey : List Byte → List Byte
/-- What of the alias certificate is signed, by the DeviceID public key, the alias public key, the firmware digest and its SVN (R350: X.509 gives the
encoding). (DEDUCED, assumption 73) -/
opaque Config.aliasTbs : List Byte → List Byte → List Byte → Nat → List Byte
/-- A certificate of what is signed and its signature. (DEDUCED, assumption 73) -/
opaque Config.x509 : List Byte → List Byte → List Byte
/-- What a requester's challenge makes the alias key sign, by nonce and by the hashes answered (R353: the message formats are SPDM's own). (DEDUCED, assumption 74) -/
opaque Config.spdmTranscript : List Byte → List Byte → List Byte
/-- Module flash as made: firmware slots; copies of record 0 security version, 1 tile-repair map, 2 identity, newest first, each with the
digest it carries, and the changes left; model-signing keys; the link ID in an identity record. (DESIGN CHOICE, assumption 72) -/
opaque Config.flashFw : Nat → List Byte
/-- DESIGN CHOICE, assumption 72. -/
opaque Config.flashCopies : Nat → List (List Byte × List Byte)
/-- DESIGN CHOICE, assumption 72. -/
opaque Config.flashLeft : Nat → Nat
/-- DESIGN CHOICE, assumption 72. -/
opaque Config.flashKey : Nat → Option (List Byte)
/-- DESIGN CHOICE, assumption 72. -/
opaque Config.linkId : List Byte → BitVec 24
/-- The journal seed drawn at the n-th reset (R295). (DESIGN CHOICE, assumption 10) -/
opaque Config.journalSeed : Nat → BitVec 128

/-! What only the host, or the peer of a port, knows. -/

/-- Second doubleword of a request's header, by the request's place: its requester ID, tag and byte enables (R274). (PRESUMED, assumption 94) -/
opaque Config.tlpId : Nat → Nat → Nat
/-- Address in the host's memory space at which a BAR stands (R275). (PRESUMED, assumption 94) -/
opaque Config.barBase : Nat → Nat
/-- Whether a port faces a peer set to a LOOP depth, as a write of a test's control register finds it, at a draw (R366, R367). (DESIGN CHOICE,
assumption 80) -/
opaque Config.peerFacing : Nat → Nat → Bool

end Sys2Proof
end

