-- ==== Sys2Proof/Machine/Bits.lean ====
section
/-!
DEFINITION. Tables, byte order, bit fields and memory bytes: the helpers that every operation of the machine is
written over. Multi-byte values are little-endian and bit ranges are high:low (R7).
-/

namespace Sys2Proof

/-! Tables. -/

def smGet {α : Type} : SMap α → Nat → α → α
  | [], _, d => d
  | (j, v) :: r, k, d => if j = k then v else smGet r k d

def smFind {α : Type} : SMap α → Nat → Option α
  | [], _ => none
  | (j, v) :: r, k => if j = k then some v else smFind r k

def smSet {α : Type} : SMap α → Nat → α → SMap α
  | [], k, v => [(k, v)]
  | (j, w) :: r, k, v =>
    if j = k then (k, v) :: r
    else if k < j then (k, v) :: (j, w) :: r
    else (j, w) :: smSet r k v

def smDel {α : Type} : SMap α → Nat → SMap α
  | [], _ => []
  | (j, w) :: r, k => if j = k then smDel r k else (j, w) :: smDel r k

/-! Bit fields. -/

/-- Bits lo + w − 1 : lo of a value, as a number. (DESIGN CHOICE, assumption 90) -/
def fieldOf (x lo w : Nat) : Nat := x / 2 ^ lo % 2 ^ w

/-- A value with bits lo + w − 1 : lo replaced. -/
def withField (x lo w v : Nat) : Nat :=
  x / 2 ^ (lo + w) * 2 ^ (lo + w) + v % 2 ^ w * 2 ^ lo + x % 2 ^ lo

/-- Addition of an unsigned w-bit count that saturates. (DESIGN CHOICE, assumption 90) -/
def satAdd (w a b : Nat) : Nat := min (a + b) (2 ^ w - 1)

def bit (b : Bool) : Nat := if b then 1 else 0

/-! Byte order (R7: little-endian). -/

def leNat : List Byte → Nat
  | [] => 0
  | b :: r => b.toNat + 256 * leNat r

def leBytes : Nat → Nat → List Byte
  | 0, _ => []
  | n + 1, v => BitVec.ofNat 8 v :: leBytes n (v / 256)

/-- A list cut into pieces of n, the last one as long as what is left; `fuel` bounds the number of pieces. -/
def chunksOf {α : Type} (n : Nat) : Nat → List α → List (List α)
  | 0, _ => []
  | fuel + 1, l => match l with
    | [] => []
    | x :: r => ((x :: r).take n) :: chunksOf n fuel ((x :: r).drop n)

/-- The numbers from a to a + n − 1. -/
def fromTo : Nat → Nat → List Nat
  | _, 0 => []
  | a, n + 1 => a :: fromTo (a + 1) n

/-! Memory bytes. An unlisted byte reads as 0 (assumption 2). -/

/-- DESIGN CHOICE, assumption 2. -/
def memGet : Memory → Nat → Byte
  | [], _ => 0
  | (j, v) :: r, k => if j = k then v else memGet r k

/-- Stores one byte and keeps the canonical form: storing 0 removes the entry. -/
def memPut : Memory → Nat → Byte → Memory
  | [], k, v => if v = 0 then [] else [(k, v)]
  | (j, w) :: r, k, v =>
    if j = k then (if v = 0 then r else (k, v) :: r)
    else if k < j then (if v = 0 then (j, w) :: r else (k, v) :: (j, w) :: r)
    else (j, w) :: memPut r k v

def memRead (m : Memory) (a n : Nat) : List Byte :=
  (fromTo a n).map (memGet m)

def memWrite : Memory → Nat → List Byte → Memory
  | m, _, [] => m
  | m, a, b :: r => memWrite (memPut m a b) (a + 1) r

/-- Memory with every byte of lo ≤ a < hi read as 0 again. -/
def memClear (m : Memory) (lo hi : Nat) : Memory :=
  m.filter (fun c => c.1 < lo || hi ≤ c.1)

def memNat (m : Memory) (a n : Nat) : Nat := leNat (memRead m a n)

/-- The canonical form: addresses strictly rising, no listed byte 0. -/
def memWf : Memory → Bool
  | [] => true
  | (a, v) :: r => v ≠ 0 && (match r with | [] => true | (b, _) :: _ => decide (a < b)) && memWf r

end Sys2Proof
end

