-- ==== Sys2Proof/Machine/BootTypes.lean ====
section
/-!
DEFINITION. The state of resets, bring-up, identity (17), of the test engines (18), of the register access paths (19) and of the module's
pins (20), as plain data.
-/

namespace Sys2Proof.Machine

open Sys2Proof

/-- States of a reset domain (R345). -/
inductive DomSt where
  | run | reset | held | restore
deriving DecidableEq, Repr

/-- An accepted RESET_DOMAIN that waits for its beat (R342): reset or release. KIND 7 is the whole chip. -/
structure DomOrder where
  seq : Nat
  kind : Nat
  index : Nat
  release : Bool
  beat : Nat
deriving DecidableEq, Repr

/-- A limited-change record of module flash (R352): the copies kept, newest first, each with the digest it carries, and the changes left. -/
structure FlashRecord where
  copies : List (List Byte × List Byte)
  left : Nat
deriving DecidableEq, Repr

/-- What an SPDM exchange has settled (R353): the version, and whether the algorithms are agreed. -/
structure SpdmState where
  version : Option Nat
  caps : Bool
  algs : Bool
deriving DecidableEq, Repr

def SpdmState.reset : SpdmState := { version := none, caps := false, algs := false }

/-- An answer to an SPDM request: what it carries; framing is SPDM's own (R353). -/
inductive SpdmResp where
  | versions (v : List Nat)
  | capabilities
  | algorithms
  | digest (d : List Byte)
  | certificate (part : List Byte) (left : Nat)
  | challengeAuth (signature : List Byte)
  | measurements (blocks : List (Nat × List Byte)) (count : Nat) (signature : Option (List Byte))
  | error
deriving DecidableEq, Repr

/-- Why the rails are off, or held off (R338, R358, R396). -/
inductive RailsOff where
  | on | therm | fatal | input
deriving DecidableEq, Repr

/-- Module flash and what outlives a reset (R336, R338, R358). -/
structure Flash where
  /-- firmware slots A and B -/
  fw : SMap (List Byte)
  secVer : FlashRecord
  repair : FlashRecord
  ident : FlashRecord
deriving DecidableEq, Repr

/-- The power stages and the pins, which stand through a whole-chip reset. -/
structure Module where
  rails : RailsOff
  /-- the cause the stages latched: VALID, CAUSE, INDEX as HLT_FATAL shows them; the thermal trip (R338, R358) -/
  fatalLatch : Nat
  thermLatch : Bool
  thermtrip : Bool
  faultPin : Bool
  perstLow : Bool
  linkUp : Bool
  /-- dynamic address on the I3C bus (R390) -/
  i3c : Option Nat
deriving DecidableEq, Repr

def Module.reset : Module :=
  { rails := .on, fatalLatch := 0, thermLatch := false, thermtrip := false, faultPin := false, perstLow := false, linkUp := false, i3c := none }

/-- Module flash as made (R321, R352). (DESIGN CHOICE, assumption 72) -/
def Flash.made : Flash :=
  let record (k lim : Nat) : FlashRecord := { copies := Config.flashCopies k, left := min lim (Config.flashLeft k) }
  { fw := [(0, Config.flashFw 0), (1, Config.flashFw 1)], secVer := record 0 255, repair := record 1 32, ident := record 2 4 }

structure BootState where
  /-- bring-up stages completed since the release of reset, 0 to 8 (R347) -/
  stages : Nat
  /-- CLK_MODE.MODE_REQ as the reset found it (R242) -/
  meso : Bool
  /-- domains out of RUN, by kind × 256 + index; orders that wait; the RESET command that a domain in RESET completes -/
  doms : SMap DomSt
  domOrders : List DomOrder
  resetting : SMap Nat
  /-- the firmware image that the ROM has started (R349, R354) -/
  running : List Byte
  /-- DSEED and CDI, in the memory that only the firmware reads (R349) -/
  dseed : List Byte
  cdi : List Byte
  /-- by transport: 0 MCTP, 1 DOE -/
  spdm : SMap SpdmState
  /-- a commit of the security version, with the value that flash will hold -/
  commit : Option Nat
  /-- when the watchdog was last restarted, the loopback generator sent its last packet (R367), and the scores last decayed (R363), by
  `TimeState.run` -/
  wdogFrom : Nat
  lbgLast : Nat
  /-- the loopback generator's packets that have left and not come back, by index; its port faces a peer set to L5 (R367) -/
  lbgOut : List Nat
  lbgPeer : Bool
  decayFrom : Nat
deriving DecidableEq, Repr

/-- DESIGN CHOICE, assumption 9. -/
def BootState.reset : BootState :=
  { stages := 0, meso := false, doms := [], domOrders := [], resetting := [], running := [], dseed := [], cdi := [], spdm := [], commit := none, wdogFrom := 0, lbgLast := 0, lbgOut := []
    lbgPeer := false, decayFrom := 0 }

/-! ## Register access (R371 to R377) -/

/-- A write on its way through the slow domain: requester, offset, value, and slow edges still to pass (R376). -/
structure SlowWrite where
  req : Nat
  addr : Nat
  value : Word
  edges : Nat
deriving DecidableEq, Repr

structure AccessState where
  /-- latched upper halves, keyed requester × 2^27 + offset of LO -/
  latches : SMap Word
  /-- unlocked blocks: requester × 2 + block, 0 RST, 1 MGT (R374) -/
  unlocked : List Nat
  /-- queues of the slow domain, keyed requester × 2 + block, 0 VTM, 1 PWR; writes held at a full queue wait behind them -/
  slowQ : SMap (List (Nat × Word))
  slowOut : List SlowWrite
  /-- bits that events of the slow domain have set since its last edge: register and bit (R373, R376) -/
  risen : List (Nat × Nat)
  /-- shadow copies of slow-domain values: registers of VTM and PWR, and the TEMP fields of other blocks, by offset; an unlisted one is the
  value of reset (R375) -/
  shadow : SMap Word
deriving DecidableEq, Repr

/-- DESIGN CHOICE, assumption 9. -/
def AccessState.reset : AccessState := { latches := [], unlocked := [], slowQ := [], slowOut := [], risen := [], shadow := [] }

end Sys2Proof.Machine
end

