-- ==== Sys2Proof/Machine/TileTypes.lean ====
section
/-!
DEFINITION. The state of tiles, routers, cluster controllers and ownership ports (02, 03, 06, 07, 13), as plain data.
-/

namespace Sys2Proof.Machine

open Sys2Proof

/-! ## Tiles -/

/-- TIL_STATUS.STATE (03, tile states). -/
inductive TileSt where
  | idle | running | halted | isolated
deriving DecidableEq, Repr

/-- A halt record (R53): TIL_HALT0, TIL_HALT1, TIL_HALT2, TIL_HALT_BEAT, TIL_HALT_INFO. -/
structure HaltRec where
  engine : Nat
  reason : Nat
  pc : Nat
  bundle : Nat
  beat : Nat
  info : Nat
deriving DecidableEq, Repr

/-- One open loop of an engine (R73): word address of the body's first instruction, iterations left after this one. -/
structure LoopFrame where
  start : Nat
  left : Nat
deriving DecidableEq, Repr

/-- An issued instruction whose completion is outstanding (R41): its PC, its signal, the banks its wide accesses use (memory,
bank mask), what it writes (memory, physical offset, count; 9 in place of a memory is a vector register by its number, 10 the packet that an NSEND
sends), whether it holds a power token as heavy work (R265). -/
structure InFlight where
  pc : Nat
  signal : Option Signal
  wide : List (Nat × Nat)
  dest : List (Nat × Nat × Nat)
  heavy : Bool
  /-- a SIGNAL on its own, which waits for every earlier instruction of its stream (R41) -/
  alone : Bool
deriving DecidableEq, Repr

/-- What holds the instruction at the head of an engine (R31, R48). -/
inductive Hold where
  | tally (t : BitVec 5) (need : Nat)
  | credits (out need : Nat)
  | gate
  | kettle
  | narrow
deriving DecidableEq, Repr

/-- What the tile keeps of a head instruction that has not issued: the first beat in which it is at the head and its gate beat has
begun (B0 of R48), what held it when it was last looked at, and the tallies and credits it names (tally and count, output and
credits), which the watchdog looks at again (R48). -/
structure Head where
  b0 : Nat
  hold : Hold
  waits : List (BitVec 5 × Nat)
  credits : List (Nat × Nat)
deriving DecidableEq, Repr

structure EngineState where
  pc : Nat
  ended : Bool
  head : Option Head
  loops : List LoopFrame
  inflight : List InFlight
  addr : Vector Word 8
deriving DecidableEq, Repr

/-- The tensor engine's configuration (R68). -/
structure TeCfg where
  fw : Nat
  fa : Nat
  kb : Nat
  mr : Nat
deriving DecidableEq, Repr

/-- A resident segment at a tile: its ID, and per engine entry PC and stream length in words (03, R76). -/
structure SlotInfo where
  seg : BitVec 16
  streams : List (Nat × Nat)
  descs : SMap FlowDesc
deriving DecidableEq, Repr

/-- One narrow request waiting at a memory (R116): its source (0 receive side, 1 scalar core, 2 write-back or patrol scrub), the
physical byte offset of the word, the beat in which it reached the head, whether it is urgent. -/
structure NarrowReq where
  src : Nat
  mem : Nat
  off : Nat
  since : Nat
  urgent : Bool
  /-- granted by the memory: the instruction that waits for it may issue (R116) -/
  granted : Bool
  /-- correction write-back of a word (R119), dropped once another write reaches the word -/
  writeback : Bool
  /-- the data flit that the receive side writes, and whether it is poison (R132, R133) -/
  data : Option (FlitWord × Bool)
  /-- the header whose signal follows this flit, the last of its packet (R132) -/
  last : Option FlitWord
  /-- flow of that packet -/
  flow : Nat
deriving DecidableEq, Repr

/-- An addition to a tally (code 0) or a credit back at an output (code 1) before the first issue of a replay: the beat, the tally or
output number of R48, its value before and after. COND of R31 is read from them. -/
structure FireNote where
  beat : Nat
  code : Nat
  site : Nat
  before : Nat
  after : Nat
deriving DecidableEq, Repr

/-- A range of tile memory as last written (memory, physical offset, bytes), until every other engine has been ordered after the write (R41): its
writer (an engine code, or 8 + FLOW for a packet's data), the engines ordered after it, the tallies through which it is visible. -/
structure FreshWrite where
  mem : Nat
  off : Nat
  len : Nat
  writer : Nat
  seen : List Nat
  via : List Nat
deriving DecidableEq, Repr

/-- A word that an SWN has read and merged, between its two narrow grants (R118): memory, physical offset, bytes. -/
structure SwnWord where
  mem : Nat
  off : Nat
  bytes : List Byte
deriving DecidableEq, Repr

/-- What fails in the array of a tensor engine (R99): the multiplier cell of row k and column n, the block adder tree of column n, the
weight element held for row k and column n; column 32 is the checksum column. -/
inductive CellFault where
  | cell (k n : Nat)
  | tree (n : Nat)
  | weight (k n : Nat)
deriving DecidableEq, Repr

/-- A packet at a terminal of the mesh: its header flit and its data flits, each with its poison mark (R124, R133). -/
structure Packet where
  hdr : FlitWord
  data : List (FlitWord × Bool)
  /-- at an intake: segment and gate of the window in which the packet was accepted (R263) -/
  seg : BitVec 16 := 0
  gate : Nat := 0
  /-- at an intake: the router it left the mesh at, whose port is its input there; a queue of its own for each (R26) -/
  via : Nat := 0
deriving DecidableEq, Repr

structure TileState where
  st : TileSt
  /-- the REPLAY_START held while RUNNING: slot and replay counter (R50) -/
  pendStart : Option (BitVec 3 × BitVec 64)
  commitPending : Bool
  more : Bool
  slot : BitVec 3
  drops : Nat
  seg : BitVec 16
  count : BitVec 64
  halt : Option HaltRec
  /-- the record still has to travel up the control tree (R54) -/
  haltReported : Bool
  /-- an instruction of this replay has issued on the tile (SEGMENT_START lateness, R30) -/
  firstIssued : Bool
  engines : Vector EngineState 5
  g : Vector Word 32
  v : Vector (Vector Word 64) 16
  te : Option TeCfg
  tallies : Vector (BitVec 16) 32
  active : Vector Word 64
  shadow : Vector Word 64
  pending : Vector Word 64
  slots : Vector (Option SlotInfo) 8
  task : BitVec 2
  /-- STRICT_FMT and CSUM_COUNT as sampled at replay start (R84) -/
  strict : Bool
  csumCount : Bool
  zbusy : Bool
  scrubPos : Nat
  scrubPasses : Nat
  /-- the 16-beat span of the last scrub read, and the reads made in it (SCRUB_RATE, R121) -/
  scrubSpan : Nat
  scrubDone : Nat
  narrow : List NarrowReq
  swn : Option SwnWord
  /-- what came in since the replay started, up to its first issue (R31) -/
  firing : List FireNote
  /-- credits held for injection at the router's local input: PLAN, TALLY, CTRL (R129) -/
  injCredit : Vector Nat 3
  /-- packets through the Colander, waiting for the receive side -/
  rx : List Packet
  /-- the packet arriving flit by flit: header and data so far -/
  rxPart : List (Nat × Packet)
  /-- what fails in the MAC array (R99) -/
  cellFaults : List CellFault
  /-- writes that a reader may not see yet (R41) -/
  fresh : List FreshWrite
  /-- the scalar core's narrow access, granted urgently in the cycle of a halt, has still to issue (R117) -/
  owed : Bool
deriving DecidableEq, Repr

/-- DESIGN CHOICE, assumption 9. -/
def EngineState.reset : EngineState :=
  { pc := 0, ended := false, head := none, loops := [], inflight := [], addr := Vector.replicate 8 0 }

/-- DESIGN CHOICE, assumption 9. -/
def TileState.reset : TileState :=
  { st := .idle, pendStart := none, commitPending := false, more := false, slot := 0, drops := 0, seg := 0, count := 0,
    halt := none, haltReported := false, firstIssued := false, engines := Vector.replicate 5 EngineState.reset,
    g := Vector.replicate 32 0, v := Vector.replicate 16 (Vector.replicate 64 0), te := none,
    tallies := Vector.replicate 32 0, active := Vector.replicate 64 0, shadow := Vector.replicate 64 0,
    pending := Vector.replicate 64 0, slots := Vector.replicate 8 none, task := 0, strict := false, csumCount := false,
    zbusy := false, scrubPos := 0, scrubPasses := 0, scrubSpan := 0, scrubDone := 0, narrow := [], swn := none, firing := [],
    injCredit := #v[34, 4, 10], rx := [], rxPart := [], cellFaults := [], fresh := [], owed := false }

/-! ## Routers -/

/-- A flit in a router buffer: its bits, whether it is a header, its poison mark. -/
structure Flit where
  bits : FlitWord
  head : Bool
  poison : Bool
  /-- router at which its packet entered the mesh (R127) -/
  entry : Nat
deriving DecidableEq, Repr

/-- The Colander states (R137). -/
inductive ColSt where
  | opened | fenced | pendingTo (b : Beat)
deriving DecidableEq, Repr

/-- One route table bank of a router (R138, R141). -/
structure RouteBank where
  valid : Bool
  tag : BitVec 2
  /-- DRAINED while VALID is 1; it reads 1 while VALID is 0 (R141) -/
  drained : Bool
  entries : Vector (BitVec 16) 36
deriving DecidableEq, Repr

/-- The packet that an input is in the middle of: its header, data flits still to leave, and outputs that have taken the head
flit of the queue (multicast, R128). -/
structure InCur where
  hdr : FlitWord
  left : Nat
deriving DecidableEq, Repr

structure RouterState where
  /-- input buffers, keyed 4 × port code + class -/
  q : SMap (List Flit)
  /-- the packet in progress at an input, keyed alike -/
  cur : SMap InCur
  /-- flits of a discarded packet still to arrive at an input -/
  dropping : SMap Nat
  /-- outputs that have taken the flit at the head of an input (multicast) -/
  taken : SMap (List Nat)
  /-- the input whose packet is in progress at an output, keyed 4 × output + class -/
  lock : SMap Nat
  /-- credits used at an output, keyed alike: the count held is the allotment less this -/
  used : SMap Nat
  /-- credits this router owes the router or the tile upstream, keyed by input: flits that have left its buffers and whose credit is on its way; at a
  Cluster input and at the edge the unit that injects has it with the flit's leaving -/
  owed : SMap Nat
  /-- the input an output served last, keyed 4 × output + class (R130) -/
  last : SMap Nat
  /-- outputs whose last flit was TALLY or CTRL (R130) -/
  lastSmall : List Nat
  col : ColSt
  zeroed : Bool
  bank0 : RouteBank
  bank1 : RouteBank
  /-- beats begun when a packet of an epoch last entered an input; not listed: the interval has elapsed (R141) -/
  seen : SMap Nat
deriving DecidableEq, Repr

/-- The standard uncore map of R139 for unit code 0x40 + i. `full` is false on the PZ-9060. -/
def stdEntry (full : Bool) (i : Nat) : BitVec 16 :=
  let e (edge index : Nat) (own : Bool) : BitVec 16 :=
    BitVec.ofNat 16 (0x8000 + (if own then 0x100 else 0) + edge * 64 + index)
  if i = 0 then (if full then e 1 0 true else 0)
  else if i = 1 then (if full then e 3 0 true else 0)
  else if i = 2 then (if full then e 1 0 true else 0)
  else if i = 3 ∨ i = 4 then e 0 0 true
  else if i = 5 then e 0 0 false
  else if 0x10 ≤ i ∧ i ≤ 0x18 then e 0 0 true
  else if 0x19 ≤ i ∧ i ≤ 0x21 then (if full then e 3 0 true else 0)
  else 0

def RouterState.reset (full : Bool) : RouterState :=
  { q := [], cur := [], dropping := [], taken := [], lock := [], used := [], owed := [], last := [], lastSmall := [],
    col := .opened, zeroed := false,
    bank0 := { valid := true, tag := 0, drained := false, entries := Vector.ofFn (fun i => stdEntry full i.val) },
    bank1 := { valid := false, tag := 0, drained := true, entries := Vector.replicate 36 0 }, seen := [] }

/-! ## Segments, replays, gates, ownership -/

/-- One entry of an ownership list (R131, R203). -/
structure OwnEntry where
  flow : BitVec 16
  gate : BitVec 12
  /-- destination rank, at a Novbo egress -/
  drank : BitVec 20 := 0
deriving DecidableEq, Repr

/-- One entry of a budget table (R261). -/
structure BudgetEntry where
  gate : Nat
  teMax : Nat
  sklMax : Nat
  sklSend : Bool
deriving DecidableEq, Repr

/-- An ingress entry of a Novbo port (R203). -/
structure IngressEntry where
  flow : Nat
  dest : Nat
  spanEnd : Nat
  kind : Nat
  unit : Nat
  dmem : Nat
  htally : Nat
  hinc : Nat
deriving DecidableEq, Repr

/-- A loaded segment as Ermond, the cluster controllers and the ports hold it (R18, R78, R79). -/
structure Segment where
  id : BitVec 16
  slot : BitVec 3
  task : BitVec 2
  slack : Nat
  units : Word
  /-- gate kinds (true: WINDOW) and offsets, in index order -/
  gates : List (Bool × Nat)
  tiles : List Nat
  /-- program of each tile, (tile, program); and of each program the side table's offset in the vaults of the clusters that run it, and its entries (R77) -/
  programs : List (Nat × Nat)
  sides : List (Nat × Nat × Nat)
  own : List (OwnPort × List OwnEntry)
  budgets : List (Nat × List BudgetEntry)
  /-- ingress entries of each Novbo port (R203) -/
  ingress : List (Nat × List IngressEntry)
  /-- job under which it was loaded (R200) -/
  job : Nat
  /-- replay counter of the next replay (R18) -/
  counter : Nat
deriving DecidableEq, Repr

/-- A replay that Ermond has ordered: segment, counter, base beat. -/
structure ReplayRec where
  seg : BitVec 16
  slot : BitVec 3
  count : BitVec 64
  base : Beat
deriving DecidableEq, Repr

/-- Replay k of an ordered run, from its first order or start on: the tiles that have not ended it, its largest lateness so far at
the chip Goose and in the clusters that have ended it, and the ports that have its order (R404). -/
structure LiveReplay where
  k : Nat
  late : Nat
  left : List Nat
  ordered : List Nat
deriving DecidableEq, Repr

/-- The replays that one order releases: replay k, for k below n, has counter first + k and base beat base + k × period (R289). -/
structure ReplayRun where
  seg : BitVec 16
  slot : BitVec 3
  first : Nat
  n : Nat
  base : Nat
  period : Nat
  cmd : Option Nat
  /-- no further replay starts: a tile has halted (R289) -/
  stopped : Bool
  tiles : List Nat
  /-- next k to start, by tile; next k to order at a port, under 4,096 + the port's number -/
  next : SMap Nat
  live : List LiveReplay
deriving DecidableEq, Repr

/-- Gate beats of a replay as a cluster controller fixed them at its first REPLAY_START (R20). -/
structure Started where
  seg : BitVec 16
  count : BitVec 64
  gates : List Nat
  /-- tiles of the cluster that have still to end it -/
  left : List Nat
  /-- tensor engines that are members of a window of it, until it ends: tile, gate (R264) -/
  members : List (Nat × Nat)
deriving DecidableEq, Repr

/-- What a cluster Goose keeps of a late replay: its largest lateness so far, and whether its WARN and ALARM events were sent (R34). -/
structure GooseMark where
  seg : BitVec 16
  count : BitVec 64
  late : Nat
  warned : Bool
  alarmed : Bool
deriving DecidableEq, Repr

/-- A bank of the cluster controller (R20): the replay base beat, by segment slot, and the rewritten gate offsets, keyed by segment slot × 4,096 +
gate. -/
structure GateBank where
  base : SMap Nat
  offs : SMap Nat
deriving DecidableEq, Repr

structure ClusterState where
  gActive : GateBank
  gShadow : GateBank
  gPending : GateBank
  gCommit : Bool
  started : List Started
  marks : List GooseMark
  /-- route epoch stamped by the cluster's injectors (R140) -/
  epoch : BitVec 2
  /-- beats begun when that epoch became current -/
  epochAt : Nat
  /-- error completions that the loader has received from tiles of the cluster (R42), oldest first -/
  loadErrors : List Nat
  /-- the clamp is up: the cluster is behind its isolation wrapper (R13) -/
  isolated : Bool
  haltMap : List Nat
deriving DecidableEq, Repr

/-- DESIGN CHOICE, assumption 9. -/
def ClusterState.reset : ClusterState :=
  { gActive := ⟨[], []⟩, gShadow := ⟨[], []⟩, gPending := ⟨[], []⟩, gCommit := false, started := [], marks := [], epoch := 0,
    epochAt := 0, loadErrors := [], isolated := false, haltMap := [] }

/-- Where an ownership list stands (02, states of one port's ownership list). -/
inductive OwnSt where
  | owned (k : Nat) | idle (k : Nat) | done
deriving DecidableEq, Repr

structure PortOwn where
  st : OwnSt
  /-- the replay being served, and those ordered after it -/
  cur : Option ReplayRec
  later : List ReplayRec
  /-- the END packet of the current owner has left -/
  endLeft : Bool
  /-- beat in which the owner of the previous window's END left, for the lateness record -/
  endBeat : Nat
  /-- router whose cluster port carried that END packet, for an intake beside a cluster (R403); none before the first -/
  via : Option Nat
  /-- a window of such an intake with no previous owner, measured when its owner's first packet comes: gate, lateness, COND, beat of the crossing (R34, R403) -/
  unplaced : Option (Nat × Nat × Nat × Nat)
  /-- GOOSE events already sent for this port in this replay (chip Goose ports, R34) -/
  warned : Bool
  alarmed : Bool
deriving DecidableEq, Repr

def PortOwn.reset : PortOwn :=
  { st := .done, cur := none, later := [], endLeft := false, endBeat := 0, via := none, unplaced := none, warned := false, alarmed := false }

/-! ## The Kettle (13) -/

structure PowerState where
  /-- the level L, in units of 0.1 mW (R265, R266) -/
  level : Nat
  /-- units doing plan work: tile t as t, Skillet v as 4096 + v, LPDDR6 channel c as 4160 + c -/
  active : List Nat
  /-- units running ballast, coded alike -/
  ballast : List Nat
  /-- starts held, and starts granted that have not issued yet -/
  held : List Nat
  granted : List Nat
  /-- cluster served last by the rotation of R267; 64 stands for the LPDDR6 channels -/
  lastCluster : Nat
  heldThisBeat : Bool
  /-- units whose start has been held in this beat, and starts held in the last beat (PWR_BALLAST.HELD) -/
  noted : List Nat
  heldLast : Nat
  /-- region up steps waiting for room in L (R268): region numbers -/
  heldSteps : List Nat
  /-- ceiling K and its causes (R272) -/
  k : Nat
  capped : Bool
  therm : Bool
  avg : Nat
  last : Nat
  vin : Nat
  tStage : Nat
  tStack : Nat
deriving DecidableEq, Repr

/-- DESIGN CHOICE, assumption 9. -/
def PowerState.reset : PowerState :=
  { level := 0, active := [], ballast := [], held := [], granted := [], lastCluster := 64, heldThisBeat := false,
    noted := [], heldLast := 0, heldSteps := [], k := 4, capped := false, therm := false, avg := 0, last := 0, vin := 0, tStage := 0,
    tStack := 0 }

end Sys2Proof.Machine
end

