-- ==== Sys2Proof/Machine/DramTypes.lean ====
section
/-!
DEFINITION. The state of vaults, Skillets, the LPDDR6 tier and the Ladles (08, 09), as plain data.
-/

namespace Sys2Proof.Machine

open Sys2Proof

/-! ## Codewords -/

/-- Bad symbols of a codeword of device memory (R148, R167): one, two, more than the code corrects (or poison), or an LPDDR6 tag
that does not match its address. A codeword not listed is good. -/
inductive CwErr where
  | one | two | bad | tag
deriving DecidableEq, Repr

/-! ## Vaults (R143 to R150) -/

structure VaultState where
  /-- requester served last, per bank: keyed channel × 64 + layer × 16 + bank, value 0 Ladle to 3 scrub -/
  served : SMap Nat
  /-- banks held by a refresh now, keyed alike -/
  refreshing : List Nat
  /-- bank that the rotation of each channel refreshes next (R146) -/
  refNext : SMap Nat
  trained : Bool
  hotref : Bool
  /-- hot refresh from the next refresh interval on -/
  hotNext : Bool
  selfref : Bool
  scrubPos : Nat
  scrubPasses : Nat
  /-- the 1,000-beat span of the last scrub read, and the reads made in it (SCRUB_RATE, R149) -/
  scrubSpan : Nat
  scrubDone : Nat
  temp : Nat
deriving DecidableEq, Repr

/-- DESIGN CHOICE, assumption 9. -/
def VaultState.reset : VaultState :=
  { served := [], refreshing := [], refNext := [], trained := false, hotref := false, hotNext := false, selfref := false, scrubPos := 0,
    scrubPasses := 0, scrubSpan := 0, scrubDone := 0, temp := 0 }

/-! ## Skillets (R151 to R164) -/

structure SkilletState where
  /-- an item is in progress until its last return packet has been injected (R154) -/
  busy : Bool
  /-- return packets of the item that wait for room at the router's cluster input -/
  sending : List Packet
deriving DecidableEq, Repr

def SkilletState.reset : SkilletState := { busy := false, sending := [] }

/-! ## LPDDR6 (R165 to R171) -/

/-- LPX_CHc_STATUS.STATE. -/
inductive LpSt where
  | untrained | up | selfref | down
deriving DecidableEq, Repr

structure LpChan where
  st : LpSt
  rate : Nat
  refmult : Nat
  hot : Bool
  temp : Nat
  powerDown : Bool
  refreshing : List Nat
  scrubPos : Nat
  /-- the 1,000-beat span of the last scrub read, and the reads made in it (SCRUB_RATE, R170) -/
  scrubSpan : Nat
  scrubDone : Nat
deriving DecidableEq, Repr

/-- DESIGN CHOICE, assumption 9. -/
def LpChan.reset : LpChan :=
  { st := .untrained, rate := 0, refmult := 0, hot := false, temp := 0, powerDown := false, refreshing := [], scrubPos := 0,
    scrubSpan := 0, scrubDone := 0 }

/-! ## Ladles (R172 to R186) -/

/-- A Ladle descriptor (R174), fields as written. -/
structure LDesc where
  src : Nat
  dst : Nat
  len : Nat
  lenHi : Nat
  skind : Nat
  dkind : Nat
  sfix : Bool
  dfix : Bool
  prio : Nat
  evkind : Nat
  modeHi : Nat
  flow : Nat
  evtile : Nat
  evtally : Nat
  evinc : Nat
  rsvd : Nat
deriving DecidableEq, Repr

/-- LDL_CHk_STATUS.STATE (09, Ladle channel states). -/
inductive LChSt where
  | idle | active | waitResp | fault
deriving DecidableEq, Repr

/-- A transfer in progress. -/
structure Transfer where
  d : LDesc
  /-- 64-byte units asked for from LPDDR6, and units that have left the engine -/
  asked : Nat
  done : Nat
  /-- what is not answered yet: packets written to LPDDR6, the last packet to a tile, units sent to another Ladle (R182, R184) -/
  unanswered : Nat
  /-- beat in which the last write left (R184) -/
  lastBeat : Nat
  /-- order in which transfers started, for R179 -/
  order : Nat
  /-- started by Ermond for the command with this sequence number -/
  cmd : Option Nat
deriving DecidableEq, Repr

structure LChan where
  st : LChSt
  /-- descriptor slots, oldest first; the transfer in progress keeps the first (R173) -/
  slots : List (LDesc × Option Nat)
  tr : Option Transfer
  drops : Nat
  /-- FLOW of the current or last transfer -/
  flow : Nat
  /-- the staging buffer: data flits of the next packet, up to 16, with their poison marks (R179) -/
  stage : List (FlitWord × Bool)
  /-- second flit of the unit that the source was read for, not staged yet -/
  half : Option (FlitWord × Bool)
  /-- flits of a whole staged packet that have gone on their path beside the mesh (R179) -/
  gone : Nat
deriving DecidableEq, Repr

/-- DESIGN CHOICE, assumption 9. -/
def LChan.reset : LChan :=
  { st := .idle, slots := [], tr := none, drops := 0, flow := 0, stage := [], half := none, gone := 0 }

/-- A packet that a Ladle has begun to send onto the mesh: its channel, the router and input port it enters at, its header, the data flits still to
go; not `live` once the transfer is cut off, so that its rest goes as poison (R180, R186). -/
structure LadleSend where
  k : Nat
  t : Nat
  inp : RPort
  hdr : FlitWord
  left : List (FlitWord × Bool)
  units : Nat
  live : Bool
deriving DecidableEq, Repr

/-- A read request of a Ladle to LPDDR6 (R176): its number, the channel and transfer it is for, device address, 64-byte units. -/
structure LpAsk where
  id : Nat
  k : Nat
  order : Nat
  a : Nat
  n : Nat
  /-- its units are the transfer's last -/
  fin : Bool
deriving DecidableEq, Repr

structure LadleState where
  ch : SMap LChan
  /-- flits at the intake not yet taken, by flow, in arrival order (R177); Ermond's own transfers under 0x10000 + flow -/
  intake : SMap (List (FlitWord × Bool))
  nextOrder : Nat
  sending : Option LadleSend
  /-- read requests whose data have not returned, in the order of their sending (R176), and the number of the next -/
  asks : List LpAsk
  nextAsk : Nat
  /-- packets of a flow that were on their way to the Ladle when DISABLE was set: lost as they come (R186) -/
  lost : SMap Nat
deriving DecidableEq, Repr

def LadleState.reset : LadleState := { ch := [], intake := [], nextOrder := 0, sending := none, asks := [], nextAsk := 0, lost := [] }

end Sys2Proof.Machine
end

