-- ==== Sys2Proof/Machine/HostTypes.lean ====
section
/-!
DEFINITION. The state of the host interface (14), as plain data: rings, accepted commands, completions, the journal's
position.
-/

namespace Sys2Proof.Machine

open Sys2Proof

/-- An accepted command that has not completed (R284, R285). -/
structure Cmd where
  seq : Nat
  /-- 0–63 host ring, 0xFC fleet ACTION, 0xFE management, 0xFF a host command whose completion an FLR discarded (R299) -/
  ring : Nat
  opcode : Nat
  tag : Nat
  acceptBeat : Nat
  payload : List Byte
  /-- it has taken effect and has only its completion to come -/
  started : Bool
  /-- model-internal progress: what the completion waits for, as the command's own meaning uses it -/
  left : Nat
deriving DecidableEq, Repr

structure Completion where
  tag : Nat
  seq : Nat
  status : Nat
  ring : Nat
  result : Nat
deriving DecidableEq, Repr

/-- A submission ring: DSEQ and the index of the last doorbell (R282). -/
structure SqState where
  dseq : Nat
  tail : Nat
deriving DecidableEq, Repr

/-- A ring that the device writes: slots written and not released, index and phase of the next slot (R280), entries since the last
MSI-X message and the beat of the first of them (R294). -/
structure PRing where
  prod : Nat
  used : Nat
  phase : Bool
  unsent : Nat
  since : Nat
deriving DecidableEq, Repr

def PRing.reset : PRing := { prod := 0, used := 0, phase := true, unsent := 0, since := 0 }

/-- A fence order waiting for its beat (R134), with the command that gave it. -/
structure FenceOrder where
  tile : Nat
  beat : Nat
  seq : Nat
deriving DecidableEq, Repr

/-- A memory request as AER's header log keeps it: its BAR, offset and length in dwords, and whether it is a write (R274). -/
structure LoggedReq where
  bar : Nat
  offset : Nat
  dwords : Nat
  write : Bool
deriving DecidableEq, Repr

/-- Settings and records of configuration space (R274, R277): maximum payload and read request as codes k of 128 × 2^k bytes, the power state, ASPM L1,
ECRC generation and checking, the PTM Enable bit, MSI-X Enable and Function Mask, and AER's Unsupported Request status with the request that its header
log shows. -/
structure PcieState where
  maxPayload : Nat
  maxRead : Nat
  d3hot : Bool
  aspmL1 : Bool
  ecrcGen : Bool
  ecrcCheck : Bool
  ptm : Bool
  msixEnable : Bool
  msixMask : Bool
  unsupported : Bool
  header : Option LoggedReq
deriving DecidableEq, Repr

/-- PRESUMED, assumption 94. -/
def PcieState.reset : PcieState :=
  { maxPayload := 0, maxRead := 2, d3hot := false, aspmL1 := false, ecrcGen := false, ecrcCheck := false, ptm := false, msixEnable := false
    msixMask := false, unsupported := false, header := none }

structure HostState where
  cmds : List Cmd
  sq : SMap SqState
  /-- the ring that supplied the last descriptor (R283) -/
  lastRing : Nat
  cq : PRing
  eq : PRing
  waiting : List Completion
  /-- descriptors that wait for the next acceptance round in arrival order: orders of a management controller (R287), and, marked true, ACTIONs of
  the fleet (R229, R283) -/
  orders : List (Bool × List Byte)
  roundCnt : Nat
  /-- beat of the last acceptance round -/
  roundBeat : Option Nat
  /-- management orders of a class accepted last: beat, class, objects (R286) -/
  orderNow : List (Nat × Nat × List (Nat × Nat × Nat))
  /-- a round has passed with HOLD in force -/
  heldRound : Bool
  next : Nat
  seed : BitVec 128
  /-- CHAIN of the last entry written (R296) -/
  chain : BitVec 128
  /-- MSI-X table words by offset from 0x48000, and vectors pending while masked -/
  msix : SMap Word
  pba : List Nat
  /-- base-2 logarithm of the size of BAR2, 28 to 36 (R275) -/
  bar2 : Nat
  pcie : PcieState
  /-- token consumer indexes by handle (R278) -/
  tokenCons : SMap Word
  fences : List FenceOrder
  /-- REINSTATE_TILE commands by tile (R137) -/
  reinstates : SMap Nat
deriving DecidableEq, Repr

/-- DESIGN CHOICE, assumption 9. -/
def HostState.reset (seed : BitVec 128) : HostState :=
  { cmds := [], sq := [], lastRing := 63, cq := PRing.reset, eq := PRing.reset, waiting := [], orders := [], roundCnt := 0, roundBeat := none, orderNow := [],
    heldRound := false, next := 1, seed := seed, chain := 0, msix := [], pba := [], bar2 := 28, pcie := PcieState.reset, tokenCons := [], fences := [],
    reinstates := [] }

end Sys2Proof.Machine
end

