-- ==== Sys2Proof/Machine/ClockTypes.lean ====
section
/-!
DEFINITION. The state of the clock regions, Varuni time (12), the Novbo ports (10) and the fleet (11), as plain data.
-/

namespace Sys2Proof.Machine

open Sys2Proof

/-! ## Clock regions (R235 to R243) -/

structure Region where
  /-- steps decided, in order: true up, false down; the first is the change in progress, the others wait for it (R237, R238) -/
  steps : List Bool
  stretch : Bool
  hot : Bool
  temp : Nat
  /-- count of beats begun (`TimeState.beats`) at the last droop, down step or report of too little slack (R237) -/
  quietFrom : Nat
  /-- when (`TimeState.run`) the droop that still owes its down step began, and when the last thermal down step was decided (R237, R239) -/
  droopFrom : Option Nat
  thermFrom : Nat
deriving DecidableEq, Repr

def Region.reset : Region :=
  { steps := [], stretch := false, hot := false, temp := 0, quietFrom := 0, droopFrom := none, thermFrom := 0 }

/-! ## Varuni time (R245 to R260) -/

/-- VTM_STATUS.STATE. -/
inductive TimeSt where
  | free | acquire | locked | holdover
deriving DecidableEq, Repr

/-- A REQ that waits for its RESP (R247): ID, the port it goes by, when it was formed (`TimeState.run`), and t1 once it has left. -/
structure BeaconReq where
  id : Nat
  port : Nat
  formed : Nat
  t1 : Option Nat
deriving DecidableEq, Repr

/-- A time-pulse output (R259): the next j of START + j × PERIOD, whether pulses run, and when (`TimeState.run`) the one in progress ends. -/
structure Pulse where
  on : Bool
  j : Nat
  till : Option Nat
deriving DecidableEq, Repr

structure TimeState where
  /-- Varuni time in units of 2^-16 ns, seconds taken as 10^9 ns each -/
  now : Nat
  /-- time that has passed since reset, whatever steps `now` has taken: the model's own measure for intervals -/
  run : Nat
  /-- the servo's F and the rate correction r, in units of 2^-44 (R246, R249) -/
  freq : Int
  rate : Int
  st : TimeSt
  stepped : Bool
  armed : Bool
  upHold : Bool
  holdCause : Nat
  depth : Nat
  /-- upstream port in use; 31 none -/
  active : Nat
  /-- measurements in a row with |θ| ≤ 20 ns -/
  streak : Nat
  lastMeas : Option Nat
  /-- intervals in a row without an accepted measurement -/
  lossRun : Nat
  /-- when (`TimeState.run`) the last of those intervals, or the last accepted measurement, was counted; when the last REQ was formed and the last PTM
  dialog ran; when REFCLK was found lost -/
  lossFrom : Nat
  reqFrom : Option Nat
  ptmFrom : Nat
  refFrom : Nat
  /-- REQs outstanding, oldest first -/
  reqs : List BeaconReq
  /-- the origin in force, in ns, and LOCAL (R256) -/
  origin : Nat
  isLocal : Bool
  pre : Bool
  sat : Bool
  /-- beats begun since reset: the model's own counter, for UP_DWELL (R237) -/
  beats : Nat
  pulses : Vector Pulse 4
  refLost : Bool
deriving DecidableEq, Repr

/-- DESIGN CHOICE, assumption 9. -/
def TimeState.reset : TimeState :=
  { now := 0, run := 0, freq := 0, rate := 0, st := .free, stepped := false, armed := false, upHold := false, holdCause := 0,
    depth := 0xFF, active := 31, streak := 0, lastMeas := none, lossRun := 0, lossFrom := 0, reqFrom := none, ptmFrom := 0, refFrom := 0, reqs := [], origin := 0, isLocal := true,
    pre := false, sat := false, beats := 0, pulses := Vector.replicate 4 { on := false, j := 0, till := none }, refLost := false }

/-- A pending time-triggered action (R229); `cmd`: the ACTION command that posted it. -/
structure Action where
  kind : Nat
  beat : Nat
  arg : Nat
  cmd : Option Nat
deriving DecidableEq, Repr

/-! ## Novbo ports (R187 to R213) -/

/-- A Novbo packet (R190): header fields and payload, each 32 bytes with its poison mark. -/
structure NPkt where
  drank : Nat
  job : Nat
  flow : Nat
  seq : Nat := 0
  path : Nat
  off : Nat := 0
  last : Bool := false
  sig : Bool := false
  epoch : Nat := 0
  cls : Nat
  data : List (FlitWord × Bool)
  /-- beat in which a receiver accepted it (R227) -/
  acc : Nat := 0
deriving DecidableEq, Repr

/-- NBP_STATUS.STATE (R211). -/
inductive NSt where
  | off | train | up | lockloss | down | probation | handback | loop
deriving DecidableEq, Repr

/-- The TAKEOVER exchange of an adopting buddy (R205). -/
structure Exchange where
  /-- first TAKEOVER of the peer received; one with SEEN = 1 received; one with SEEN = 1 sent; sending has stopped -/
  got : Bool
  gotSeen : Bool
  sentSeen : Bool
  stopped : Bool
  /-- when (`TimeState.run`) the last word of the 2 µs rhythm went -/
  sentAt : Option Nat
deriving DecidableEq, Repr

structure NPort where
  st : NSt
  rate : Bool
  /-- a training has completed since the last whole-chip reset (R211) -/
  trained : Bool
  /-- lanes that hold symbol lock (NBP_LANE, NBP_STATUS.LOCK) -/
  lanes : BitVec 4
  /-- words are discarded until the next good LCW (R189) -/
  deaf : Bool
  exp : Nat
  /-- EXP for which the NAK has been sent -/
  nakFor : Option Nat
  /-- packets accepted since the last ACK or NAK, and whether an ACK goes in the next LCW -/
  unacked : Nat
  ackNext : Bool
  /-- when (`TimeState.run`) the first of those packets was accepted, the replay timer last started, lock was lost, and DOWN was entered -/
  ackFrom : Nat
  timerFrom : Nat
  lockFrom : Nat
  downFrom : Nat
  /-- the receive pool, in arrival order (PLAN, SYNC, MGMT, BULK), and TIME packets held -/
  pool : List NPkt
  times : List NPkt
  /-- cumulative units freed by class, and the class whose FREED was returned last (R198) -/
  freed : SMap Nat
  freedLast : Nat
  txNext : Nat
  sent : SMap Nat
  peerFreed : SMap Nat
  /-- the peer's class reserves in 4 KiB units: PLAN, SYNC, TIME, MGMT, BULK; the port's own in force -/
  peerPool : List Nat
  ownPool : List Nat
  /-- outstanding packets, oldest first; those of the replay in progress still to go; ACKSEQ of the NAK that began it -/
  buf : List NPkt
  replaying : List NPkt
  replayNak : Option Nat
  expiries : Nat
  /-- what the failed link of a port declared down leaves: its outstanding packets, its EXP, the SEQ after the last one sent; and whether the
  port has not been UP since it was declared down (R205, R209) -/
  failBuf : List NPkt
  failExp : Nat
  failNext : Nat
  fallen : Bool
  planSince : Nat
  ctlLast : Nat
  /-- packets taken over from the down port's buffer, which go ahead of new ones (R206) -/
  resend : List NPkt
  /-- accepted packets that a port in LOOP at depth L5 has still to return (R212) -/
  echo : List NPkt
  /-- the PLAN packet formed and not sent: the packet, the mesh packet it comes from, the port whose egress took it -/
  plan : Option (NPkt × Packet × Nat)
  /-- packets of classes SYNC, TIME, MGMT, BULK that wait to be sent, in order -/
  ctl : List NPkt
  adopting : Bool
  exch : Exchange
  /-- the port's own flows wait for the HANDBACK marker at the buddy's ingress (R208) -/
  waitMarker : Bool
  /-- probation left, in beats; a route epoch switch has been ordered since it ended, and the beat of it -/
  prob : Nat
  switched : Option Nat
  /-- switches of route epoch that had been ordered when the probation ended (R208) -/
  before : List Action
  haltEgress : Bool
  haltIngress : Bool
deriving DecidableEq, Repr

def resetReserves : List Nat := [0x40, 4, 2, 8, 0x10]

def Exchange.reset : Exchange := { got := false, gotSeen := false, sentSeen := false, stopped := false, sentAt := none }

def NPort.reset : NPort :=
  { st := .off, rate := false, trained := false, lanes := 0, deaf := false, exp := 0, nakFor := none, unacked := 0,
    ackNext := false, ackFrom := 0, timerFrom := 0, lockFrom := 0, downFrom := 0, pool := [], times := [], freed := [], freedLast := 4, txNext := 0, sent := [], peerFreed := [],
    peerPool := resetReserves, ownPool := resetReserves, buf := [], replaying := [], replayNak := none, expiries := 0,
    failBuf := [], failExp := 0, failNext := 0, fallen := false, planSince := 0, ctlLast := 4, resend := [], echo := [], plan := none, ctl := [], adopting := false, exch := Exchange.reset,
    waitMarker := false, prob := 0, switched := none, before := [], haltEgress := false, haltIngress := false }

/-! ## The fleet (R214 to R234) -/

/-- MGT_FLT_JOB.STATE (R227). -/
inductive JobSt where
  | none | setup | preparing | prepared | committed | running | fenced | aborted
deriving DecidableEq, Repr

/-- A bank of the rank table (R220). -/
structure RankBank where
  valid : Bool
  tag : BitVec 2
  drained : Bool
deriving DecidableEq, Repr

/-- The set-up record of a job (R224, R290). -/
structure SetupRec where
  root : Bool
  parent : Nat
  sparent : Nat
  children : List Nat
  schildren : List Nat
  segs : List Nat
deriving DecidableEq, Repr

/-- A SYNC message (R225), with the header fields that matter. -/
structure SyncMsg where
  job : Nat
  op : Nat
  reason : Nat
  srank : Nat
  beat : Nat
  tag : Nat
  orank : Nat
  arg : Nat
deriving DecidableEq, Repr

structure FleetState where
  job : JobSt
  setup : Option SetupRec
  /-- children whose ACK has come -/
  acks : List Nat
  cur : BitVec 2
  bank0 : RankBank
  bank1 : RankBank
  /-- entries that are not zero, keyed bank × 65,536 + index (R216) -/
  ranks : SMap Word
  /-- beat, counted by `TimeState.beats`, in which a packet of an epoch was last formed or relayed; not listed: the interval has elapsed (R220) -/
  used : SMap Nat
  actions : List Action
  /-- ACTION packets forwarded already (R229) -/
  forwarded : List SyncMsg
  /-- SYNC messages, each with the beat in which it was accepted, forwarded events and BULK packets that an ingress has delivered to Ermond -/
  syncIn : List (SyncMsg × Nat)
  mgmtIn : List NPkt
  bulkIn : List NPkt
deriving DecidableEq, Repr

/-- DESIGN CHOICE, assumption 9. -/
def FleetState.reset : FleetState :=
  { job := .none, setup := none, acks := [], cur := 0, bank0 := { valid := true, tag := 0, drained := false },
    bank1 := { valid := false, tag := 0, drained := true }, ranks := [], used := [], actions := [], forwarded := [],
    syncIn := [], mgmtIn := [], bulkIn := [] }

end Sys2Proof.Machine
end

