-- ==== Sys2Proof/Machine/RegTable.lean ====
section
/-!
DEFINITION. The register tables of the manual: for every register its offset within its window, its reset value on each
variant, and the bits that take an RW, RWK, W1C or WO write (R369); a bit in none of these is RO, RS or reserved. Below
them, how a BAR0 offset is decoded (R379, R383).
-/

namespace Sys2Proof.Machine

open Sys2Proof

/-- One row: a register, or `count` registers `stride` bytes apart. `resetB` is the PZ-9060's reset value where it differs. -/
structure RegDesc where
  off : Nat
  stride : Nat := 4
  count : Nat := 1
  reset : Nat := 0
  resetB : Option Nat := none
  rw : Nat := 0
  rwk : Nat := 0
  w1c : Nat := 0
  wo : Nat := 0
deriving DecidableEq, Repr

/-- GEN (19). -/
def genRegs : List RegDesc :=
  [ { off := 0, reset := 0x91000000, resetB := some 0x90600000 },
    { off := 4 },
    { off := 8, reset := 0x50390001 },
    { off := 0xC, reset := 1 },
    { off := 0x10, reset := 0x40001000, resetB := some 0x30000C00 },
    { off := 0x14, reset := 0x43000040, resetB := some 0x32400000 },
    { off := 0x18, reset := 0xA0200000, resetB := some 0 },
    { off := 0x1C, reset := 0x940007D0, resetB := some 0x4C000514 },
    { off := 0x20 },
    { off := 0x24, rw := 0xFFFFFFFF } ]

/-- RST (17). -/
def rstRegs : List RegDesc :=
  [ { off := 0, reset := 1, w1c := 0xFF },
    { off := 4, rwk := 0x80000000 },
    { off := 8, wo := 0xFFFFFFFF },
    { off := 0xC, reset := 0x800007D0, rwk := 0x8000FFFF },
    { off := 0x10, stride := 8, count := 6 },
    { off := 0x14, stride := 8, count := 6 },
    { off := 0x40 },
    { off := 0x44 },
    { off := 0x48, rwk := 0x80000000 } ]

/-- CLK (12). -/
def clkRegs : List RegDesc :=
  [ { off := 0, rw := 1 },
    { off := 4, reset := 0x806403E8, rw := 0xE0FFFFFF },
    { off := 8, w1c := 0x80000000 },
    { off := 0xC, w1c := 1 },
    { off := 0x10, stride := 4, count := 7 },
    { off := 0x100, stride := 0x10, count := 72, reset := 0x4A000000 },
    { off := 0x104, stride := 0x10, count := 72, reset := 4, rw := 7 },
    { off := 0x108, stride := 0x10, count := 72, rw := 0xFFFFFFFF },
    { off := 0x10C, stride := 0x10, count := 72, rw := 0xFFFFFFFF } ]

/-- VTM (12). -/
def vtmRegs : List RegDesc :=
  [ { off := 0, rw := 0x80000000, wo := 0x40000000 },
    { off := 4, reset := 0x3FF8400A, rw := 0xFFF8FFFF },
    { off := 8, reset := 0x1F4, rw := 0xFFFF },
    { off := 0xC, reset := 0x1FFF, w1c := 0x10000000 },
    { off := 0x10, stride := 4, count := 6 },
    { off := 0x28, stride := 4, count := 3 },
    { off := 0x34, stride := 4, count := 2 },
    { off := 0x3C, reset := 0x80000000 },
    { off := 0x40, stride := 4, count := 2, rw := 0xFFFFFFFF },
    { off := 0x48, stride := 4, count := 2, rw := 0xFFFFFFFF },
    { off := 0x50, stride := 4, count := 4 },
    { off := 0x60, stride := 4, count := 3, rw := 0xFFFFFFFF },
    { off := 0x80, stride := 0x20, count := 4, rw := 0xFFFFFFFF },
    { off := 0x84, stride := 0x20, count := 4, rw := 0xFFFFFFFF },
    { off := 0x88, stride := 0x20, count := 4, rw := 0x3FFFFFFF },
    { off := 0x8C, stride := 0x20, count := 4, rw := 0xFFFFFFFF },
    { off := 0x90, stride := 0x20, count := 4, reset := 0x3E8, rw := 0x3FFFFFFF },
    { off := 0x94, stride := 0x20, count := 4, rw := 0xC0000000, w1c := 0x10000000 },
    { off := 0x100, stride := 4, count := 18, rw := 0xFFFF } ]

/-- PWR (13). -/
def pwrRegs : List RegDesc :=
  [ { off := 0, reset := 0x5A000000, rw := 0xFF00FFFF },
    { off := 4, reset := 0x3207D0, resetB := some 0x320514, rw := 0xFFFFFFFF },
    { off := 8, reset := 0x6E5F0000, rw := 0xFFFF0000 },
    { off := 0xC, reset := 0x80000000, w1c := 0x4000000 },
    { off := 0x10 },
    { off := 0x14 },
    { off := 0x18 },
    { off := 0x1C },
    { off := 0x20, stride := 4, count := 2, rw := 0xFFFFFFFF } ]

/-- HIF (14). -/
def hifRegs : List RegDesc :=
  [ { off := 0, rw := 0x80000000 },
    { off := 4, w1c := 0x80000000 },
    { off := 8, stride := 4, count := 2, rw := 0xFFFFFFFF },
    { off := 0x10, stride := 4, count := 2, rw := 0xFFFFFFFF },
    { off := 0x18, stride := 0x10, count := 2, reset := 6, rw := 0x8000001F },
    { off := 0x1C, stride := 0x10, count := 2, reset := 0x10000 },
    { off := 0x20, stride := 4, count := 2, rw := 0xFFFFFFFF },
    { off := 0x30, reset := 0x1000100, rw := 0xFFFFFFFF },
    { off := 0x34, rw := 0x800FFFFF },
    { off := 0x38, rw := 0xFFFFFFFF },
    { off := 0x3C },
    { off := 0x1000, stride := 0x10, count := 64, rw := 0xFFFFFFFF },
    { off := 0x1004, stride := 0x10, count := 64, rw := 0xFFFFFFFF },
    { off := 0x1008, stride := 0x10, count := 64, reset := 6, rw := 0x8000001F },
    { off := 0x100C, stride := 0x10, count := 64 } ]

/-- JRN (14). -/
def jrnRegs : List RegDesc :=
  [ { off := 0, rw := 0x80000000 },
    { off := 4, w1c := 0x80000000 },
    { off := 8, stride := 4, count := 2, rw := 0xFFFFFFFF },
    { off := 0x10, reset := 1 },
    { off := 0x14 },
    { off := 0x18, stride := 4, count := 4 } ]

/-- SRV (15). -/
def srvRegs : List RegDesc :=
  [ { off := 0, reset := 0x80002000, resetB := some 0xA0002000, rw := 0xE0003FFF },
    { off := 4, reset := 4, rw := 0xFFFFFFFF },
    { off := 8, reset := 0xC350, rw := 0xFFFFFFFF },
    { off := 0xC, stride := 4, count := 4, rw := 0xFFFFFFFF },
    { off := 0x1C },
    { off := 0x40, stride := 4, count := 8 },
    { off := 0x60, stride := 4, count := 8 },
    { off := 0x80, rw := 0x3FFF },
    { off := 0x84 },
    { off := 0x88, stride := 4, count := 5 },
    { off := 0xA0, stride := 4, count := 3, rw := 0xFFFFFFFF } ]

/-- SVE (15). -/
def sveRegs : List RegDesc :=
  [ { off := 0, reset := 0x80094000 },
    { off := 4, reset := 0x4008100C },
    { off := 8, w1c := 0x40000000 },
    { off := 0xC },
    { off := 0x10, stride := 4, count := 3, rw := 0xFFFFFFFF } ]

/-- NBP (10). -/
def nbpRegs : List RegDesc :=
  [ { off := 0, reset := 1, rw := 0x1C000001, wo := 0xC0000000 },
    { off := 4, reset := 0x80000014, rw := 0xC1F003FF },
    { off := 8, w1c := 0x400000 },
    { off := 0xC, reset := 0x40040208, rw := 0x7F7F7F7F },
    { off := 0x10, reset := 0x10, rw := 0x7F },
    { off := 0x14, rw := 0xFFFFFF },
    { off := 0x18 },
    { off := 0x1C },
    { off := 0x20 },
    { off := 0x24, stride := 4, count := 2 },
    { off := 0x2C },
    { off := 0x30, stride := 4, count := 12, rw := 0xFFFFFFFF },
    { off := 0x60 },
    { off := 0x70, rw := 0xC0FFFFFF },
    { off := 0x74 } ]

/-- LPX (09). -/
def lpxRegs : List RegDesc :=
  [ { off := 0, reset := 0x20100800 },
    { off := 4, reset := 0x80200400, rw := 0x83FFFFFF },
    { off := 8, w1c := 0x80000000 },
    { off := 0xC },
    { off := 0x100, stride := 0x10, count := 32, w1c := 0x4000000 },
    { off := 0x104, stride := 0x10, count := 32, rw := 0xFFFFFFFF },
    { off := 0x108, stride := 0x10, count := 32, rw := 0xFFFFFFFF },
    { off := 0x10C, stride := 0x10, count := 32, rw := 0xFFFFFFFF } ]

/-- MGT: own, chip Goose, FLT, WGT, HLT (19, 02, 11, 16, 18). -/
def mgtRegs : List RegDesc :=
  [ { off := 0, wo := 0xFFFFFFFF },
    { off := 4, rw := 0xFFFFFF00 },
    { off := 8, w1c := 0x80000000 },
    { off := 0xC },
    { off := 0x10 },
    { off := 0x14, reset := 0x80000000, rwk := 0x8000007F },
    { off := 0x18, reset := 0x80000000, rw := 0x8000000F },
    { off := 0x8000, reset := 0xC0000400, rw := 0xC0000F01 },
    { off := 0x8004, w1c := 3 },
    { off := 0x8018, reset := 0x30000 },
    { off := 0x8008 },
    { off := 0x800C, rw := 0xFFFFFF },
    { off := 0x8010 },
    { off := 0x8014 },
    { off := 0x801C },
    { off := 0x8020, stride := 4, count := 2, rw := 0xFFFFFFFF },
    { off := 0x8028, stride := 4, count := 2, w1c := 0xFFFFFFFF },
    { off := 0xA000 },
    { off := 0xA004 },
    { off := 0xA008, stride := 4, count := 2 },
    { off := 0xA010 },
    { off := 0xA014, reset := 0x8040, rw := 0x7070 },
    { off := 0xA018, reset := 0x40, rw := 0xFFFF },
    { off := 0xA01C, rw := 0x8001FFFF },
    { off := 0xA020, rw := 0xFFFFFFFF },
    { off := 0xA024, rw := 0x3FFFF },
    { off := 0xA028, rw := 0xFFFF },
    { off := 0xA02C, stride := 4, count := 4, rw := 0xFFFFFFFF },
    { off := 0xB000, reset := 0x64, rw := 0x8000FFFF, rwk := 0x40000000 },
    { off := 0xB004, reset := 0x8000000F, rw := 0x800007FF } ] ++
  [ { off := 0xB008, w1c := 0x80000000 },
    { off := 0xB00C, stride := 4, count := 2, rw := 0xFFFFFFFF },
    { off := 0xB020, stride := 4, count := 8 },
    { off := 0xB040, stride := 8, count := 8 },
    { off := 0xB044, stride := 8, count := 8 },
    { off := 0xC000, reset := 0x8000003C, rw := 0x8000FFFF },
    { off := 0xC004, reset := 0xFF1001, rw := 0xFFFFFF },
    { off := 0xC008, reset := 0x40000800, rw := 0xFFFFFFFF },
    { off := 0xC00C, w1c := 0x80000000 },
    { off := 0xC010, w1c := 0x80000000 },
    { off := 0xC014, rw := 0x8007037F },
    { off := 0xC018, stride := 4, count := 2 },
    { off := 0xC020, reset := 0xF, rw := 0x831F000F },
    { off := 0xC024, stride := 4, count := 4, rw := 0xFFFFFFFF },
    { off := 0xC034, reset := 0x2000000, rw := 0xFFE0FFFF },
    { off := 0xC038, stride := 4, count := 3, rw := 0xFFFFFFFF },
    { off := 0xC044, stride := 4, count := 2, rw := 0xFFFFFFFF },
    { off := 0xC04C, rw := 0xB0FFFFFF },
    { off := 0xC050, rw := 0xFFFFFFFF },
    { off := 0xC054 },
    { off := 0xC058, stride := 4, count := 2 },
    { off := 0xC100, stride := 4, count := 178, rw := 0xFFFF } ]

/-- TIL and TIL_SPM (03, 06). -/
def tilRegs : List RegDesc :=
  [ { off := 0, rw := 1, wo := 0x80000000 },
    { off := 4 },
    { off := 8, reset := 0x2710, rw := 0xFFFFF },
    { off := 0xC },
    { off := 0x10 },
    { off := 0x14 },
    { off := 0x18 },
    { off := 0x1C, stride := 4, count := 2 },
    { off := 0x24 },
    { off := 0x30, stride := 4, count := 5 },
    { off := 0x80, stride := 4, count := 32 },
    { off := 0x100, stride := 4, count := 64 },
    { off := 0x200, reset := 0x60402093 },
    { off := 0x204, reset := 0x10282098 },
    { off := 0x208, reset := 0x80100004, rw := 0x80FF000F },
    { off := 0x20C, rw := 0xFFFF, w1c := 0x40000000 },
    { off := 0x210, wo := 0x80000000 },
    { off := 0x220, reset := 0xC0008000, rw := 0xFFFFFFFF },
    { off := 0x224, reset := 0x8000, rw := 0xFFFF },
    { off := 0x228, stride := 8, count := 3, rw := 0xFFFFFFFF },
    { off := 0x22C, stride := 8, count := 3, rw := 0xFFFF },
    { off := 0x240, rw := 0xFFFF },
    { off := 0x244, w1c := 0x80000000 },
    { off := 0x248 } ]

/-- RTR (07). -/
def rtrRegs : List RegDesc :=
  [ { off := 0, rw := 0xFFFF, w1c := 0x10000000 },
    { off := 4, reset := 0x8040, rw := 0x7070 },
    { off := 8, rw := 0xFFFFFFFF },
    { off := 0xC, rw := 0xFFFFFFFF },
    { off := 0x10, stride := 0x10, count := 6, rw := 0xFFFFFFFF },
    { off := 0x14, stride := 0x10, count := 6, rw := 0xFFFFFFFF },
    { off := 0x18, stride := 0x10, count := 6, rw := 0xFFFFFFFF },
    { off := 0x1C, stride := 0x10, count := 6, rw := 0x7F03F },
    { off := 0x70, stride := 4, count := 36, rw := 0xFFFFFFFF } ]

/-- MSH (07). -/
def mshRegs : List RegDesc :=
  [ { off := 0, reset := 0x20 },
    { off := 4, reset := 0x10, rw := 0xFFFF },
    { off := 8, stride := 4, count := 2 },
    { off := 0x10, stride := 4, count := 2 } ]

/-- LDL and the host Ladles, 16 channels (09). -/
def ldlRegs : List RegDesc :=
  [ { off := 0, rw := 0x80000000, wo := 0xFFFF },
    { off := 4, reset := 0x3E8, rw := 0xFFFF },
    { off := 8, w1c := 0x80000000 },
    { off := 0x100, stride := 0x10, count := 16, w1c := 0x800000 },
    { off := 0x104, stride := 0x10, count := 16, rw := 0x1FFFFFF },
    { off := 0x108, stride := 0x10, count := 16, rw := 0xFFFFFFFF },
    { off := 0x10C, stride := 0x10, count := 16, rw := 0xFFFFFFFF } ]

/-- GOO (02). -/
def gooRegs : List RegDesc :=
  [ { off := 0, reset := 0xC0000400, rw := 0xC0000F00 },
    { off := 4, w1c := 3 },
    { off := 8 },
    { off := 0xC, rw := 0xFFFFFF },
    { off := 0x10 },
    { off := 0x14 },
    { off := 0x18, reset := 0x30000 },
    { off := 0x1C },
    { off := 0x20, rw := 0xFFFFFFFF },
    { off := 0x24, rw := 0xFFFFFFFF } ]

/-- ARI (05). -/
def ariRegs : List RegDesc :=
  [ { off := 0, rw := 1 },
    { off := 4, rw := 0xFFFFFFFF },
    { off := 8, w1c := 0x80000000 },
    { off := 0xC, rw := 0xFFFFFFFF },
    { off := 0x10, rw := 0xFFFFFFFF },
    { off := 0x14, rw := 0xFFFFFFFF } ]

/-- KTL (13). -/
def ktlRegs : List RegDesc :=
  [ { off := 0 },
    { off := 4, rw := 0xFFFFFFFF },
    { off := 8, w1c := 0x80000000 },
    { off := 0xC, rw := 0xFFFFFFFF } ]

/-- VLT (08). -/
def vltRegs : List RegDesc :=
  [ { off := 0, reset := 0x42100C07, resetB := some 0x32101007 },
    { off := 4, w1c := 0x18000000 },
    { off := 8, reset := 0x80000004, rw := 0x8000FFFF },
    { off := 0xC, stride := 4, count := 3, rw := 0xFFFFFFFF },
    { off := 0x18, w1c := 0x80000000 },
    { off := 0x1C },
    { off := 0x20, stride := 4, count := 4, rw := 0xFFFFFFFF } ]

/-- SKL (08). -/
def sklRegs : List RegDesc :=
  [ { off := 0x8000, w1c := 0x40000000 },
    { off := 0x8004 },
    { off := 0x8008, stride := 4, count := 6, rw := 0xFFFFFFFF } ]

/-- The windows of BAR0 (R383), each with its own table. -/
inductive Win where
  | gen | rst | clk | vtm | pwr | hif | hl | jrn | srv | sve | nbp | lpx | mgt
  | til | rtr | msh | ldl | goo | ari | ktl | vlt | skl
deriving DecidableEq, Repr

def Win.regs : Win → List RegDesc
  | .gen => genRegs | .rst => rstRegs | .clk => clkRegs | .vtm => vtmRegs | .pwr => pwrRegs | .hif => hifRegs
  | .hl => ldlRegs | .jrn => jrnRegs | .srv => srvRegs | .sve => sveRegs | .nbp => nbpRegs | .lpx => lpxRegs
  | .mgt => mgtRegs | .til => tilRegs | .rtr => rtrRegs | .msh => mshRegs | .ldl => ldlRegs | .goo => gooRegs
  | .ari => ariRegs | .ktl => ktlRegs | .vlt => vltRegs | .skl => sklRegs

/-- The row of a table that an offset reaches: the row, with its index in a repeated row. -/
def findDesc : List RegDesc → Nat → Option (RegDesc × Nat)
  | [], _ => none
  | d :: r, o =>
    if d.off ≤ o ∧ (o - d.off) % d.stride = 0 ∧ (o - d.off) / d.stride < d.count then
      some (d, (o - d.off) / d.stride)
    else findDesc r o

/-- A decoded register address: window, unit number, offset in the window (R379). -/
structure RegAddr where
  win : Win
  unit : Nat
  off : Nat
deriving DecidableEq, Repr

/-- BAR0 offset of the first byte of a unit's window (R383). -/
def winBase : Win → Nat → Nat
  | .gen, _ => 0x0000000 | .rst, _ => 0x0010000 | .clk, _ => 0x0020000 | .vtm, _ => 0x0030000
  | .pwr, _ => 0x0040000 | .hif, _ => 0x0050000 | .hl, n => 0x0058000 + n * 0x1000
  | .jrn, _ => 0x0060000 | .srv, _ => 0x0080000 | .sve, _ => 0x00A0000
  | .nbp, n => 0x0100000 + n * 0x10000 | .lpx, _ => 0x0300000 | .mgt, _ => 0x0400000
  | .til, t => 0x1000000 + (t / 64) * 0x20000 + (t % 64) * 0x400
  | .rtr, t => 0x1000000 + (t / 64) * 0x20000 + 0x10000 + (t % 64) * 0x100
  | .msh, c => 0x1000000 + c * 0x20000 + 0x14000
  | .ldl, c => 0x1000000 + c * 0x20000 + 0x18000
  | .goo, c => 0x1000000 + c * 0x20000 + 0x1C000
  | .ari, c => 0x1000000 + c * 0x20000 + 0x1D000
  | .ktl, c => 0x1000000 + c * 0x20000 + 0x1E000
  | .vlt, v => 0x2000000 + v * 0x10000
  | .skl, v => 0x2000000 + v * 0x10000

/-- The canonical BAR0 offset of a decoded address, under which the register is stored. -/
def RegAddr.key (a : RegAddr) : Nat := winBase a.win a.unit + a.off

/-- The bits of an offset within a window that its decode mask compares (R379). -/
def Win.mask : Win → Nat → Nat
  | .clk, o | .vtm, o | .pwr, o | .srv, o => o % 0x1000 / 4 * 4
  | .hif, o | .lpx, o => o % 0x10000 / 4 * 4
  | .hl, o | .ldl, o => o % 0x400 / 4 * 4
  | .til, o => o % 0x400 / 4 * 4
  | .rtr, o => o % 0x100 / 4 * 4
  | .mgt, o => if o % 0x10000 / 0x1000 = 0xC then 0xC000 + o % 0x400 / 4 * 4
               else o % 0x10000 / 0x1000 * 0x1000 + o % 0x100 / 4 * 4
  | .skl, o => 0x8000 + o % 0x100 / 4 * 4
  | _, o => o % 0x100 / 4 * 4

/-- Which window and unit a BAR0 offset lies in, and its offset there; none where no block lies (R380, R383). A tile or
router window's unit number is 64 × cluster + local index. -/
def decodeReg (a : Nat) : Option RegAddr :=
  let go (w : Win) (u o : Nat) : Option RegAddr := some ⟨w, u, w.mask o⟩
  if a < 0x10000 then go .gen 0 a
  else if a < 0x20000 then go .rst 0 a
  else if a < 0x30000 then go .clk 0 a
  else if a < 0x40000 then go .vtm 0 a
  else if a < 0x50000 then go .pwr 0 a
  else if a < 0x60000 then
    let o := a % 0x10000
    if 0x8000 ≤ o ∧ o < 0xA000 then go .hl ((o - 0x8000) / 0x1000) o else go .hif 0 o
  else if a < 0x70000 then go .jrn 0 a
  else if a < 0x80000 then none
  else if a < 0xA0000 then go .srv 0 a
  else if a < 0xB0000 then go .sve 0 a
  else if a < 0x100000 then none
  else if a < 0x220000 then go .nbp ((a - 0x100000) / 0x10000) a
  else if a < 0x300000 then none
  else if a < 0x400000 then go .lpx 0 a
  else if a < 0x500000 then go .mgt 0 a
  else if a < 0x1000000 then none
  else if a < 0x1800000 then
    let c := (a - 0x1000000) / 0x20000
    let o := a % 0x20000
    if o < 0x10000 then go .til (c * 64 + o / 0x400) o
    else if o < 0x14000 then go .rtr (c * 64 + (o - 0x10000) / 0x100) o
    else if o < 0x15000 then go .msh c o
    else if o < 0x18000 then none
    else if o < 0x19000 then go .ldl c o
    else if o < 0x1C000 then none
    else if o < 0x1D000 then go .goo c o
    else if o < 0x1E000 then go .ari c o
    else if o < 0x1F000 then go .ktl c o
    else none
  else if a < 0x2000000 then none
  else if a < 0x2400000 then
    let o := a % 0x10000
    if o < 0x8000 then go .vlt ((a - 0x2000000) / 0x10000) o else go .skl ((a - 0x2000000) / 0x10000) o
  else none

/-- The row an address reaches in its window's table; the repeated rows of a cluster Ladle stop at channel 7. -/
def RegAddr.desc (a : RegAddr) : Option (RegDesc × Nat) :=
  if a.win = .ldl ∧ 0x180 ≤ a.off then none else findDesc a.win.regs a.off

/-- Reset value of the register at a decoded address (R369); 0 where no register is implemented. -/
def RegAddr.reset (v : Variant) (a : RegAddr) : Word :=
  match a.desc with
  | none => 0
  | some (d, _) =>
    let base := BitVec.ofNat 32 (if v = .pz9060 then d.resetB.getD d.reset else d.reset)
    match a.win, a.off with
    | .gen, 0x00 => base ||| (Config.genStep.setWidth 32 <<< 8) ||| Config.genGrade.setWidth 32
    | .nbp, 0x04 =>
      let b := if v = .pz9060 ∧ a.unit = 8 then 0x1F else if a.unit % 2 = 0 then a.unit + 1 else a.unit - 1
      base ||| BitVec.ofNat 32 (b * 2 ^ 20)
    | .mgt, 0x0C => Config.fwVersion
    | .mgt, 0x14 => base ||| Config.i3cStaticAddr.setWidth 32
    | _, _ => base

/-! Addresses of the windows, by unit number. A tile's window goes by its cluster and local index (03, 07). -/

/-- Cluster of a logical tile (00_scope): 8 × (y div 8) + x div 8. -/
def clusterOf (t : Nat) : Nat := t / 512 * 8 + t % 64 / 8

/-- Local index of a logical tile in its cluster (03). -/
def localIdx (t : Nat) : Nat := 8 * (t / 64 % 8) + t % 8

/-- The logical tile with local index l in cluster c. -/
def tileAt (c l : Nat) : Nat := 64 * (c / 8 * 8 + l / 8) + (c % 8 * 8 + l % 8)

def winUnit (t : Nat) : Nat := clusterOf t * 64 + localIdx t

def tilReg (t o : Nat) : Nat := winBase .til (winUnit t) + o
def rtrReg (t o : Nat) : Nat := winBase .rtr (winUnit t) + o
def mshReg (c o : Nat) : Nat := winBase .msh c + o
def ldlReg (l o : Nat) : Nat := if l < 64 then winBase .ldl l + o else winBase .hl (l - 64) + o
def gooReg (c o : Nat) : Nat := winBase .goo c + o
def ariReg (c o : Nat) : Nat := winBase .ari c + o
def ktlReg (c o : Nat) : Nat := winBase .ktl c + o
def vltReg (v o : Nat) : Nat := winBase .vlt v + o
def sklReg (v o : Nat) : Nat := winBase .skl v + 0x8000 + o
def lpxReg (o : Nat) : Nat := winBase .lpx 0 + o
def nbpReg (n o : Nat) : Nat := winBase .nbp n + o
def mgtReg (o : Nat) : Nat := winBase .mgt 0 + o
def genReg (o : Nat) : Nat := winBase .gen 0 + o
def rstReg (o : Nat) : Nat := winBase .rst 0 + o
def clkReg (o : Nat) : Nat := winBase .clk 0 + o
def vtmReg (o : Nat) : Nat := winBase .vtm 0 + o
def pwrReg (o : Nat) : Nat := winBase .pwr 0 + o
def hifReg (o : Nat) : Nat := winBase .hif 0 + o
def jrnReg (o : Nat) : Nat := winBase .jrn 0 + o
def srvReg (o : Nat) : Nat := winBase .srv 0 + o
def sveReg (o : Nat) : Nat := winBase .sve 0 + o

end Sys2Proof.Machine
end

