-- ==== Sys2Proof/Machine/ServeTypes.lean ====
section
/-!
DEFINITION. The state of the serving engine, the Sieve (15) and the model slots (16), as plain data.
-/

namespace Sys2Proof.Machine

open Sys2Proof

/-! ## Requests (R300 to R302) -/

/-- SRV_REQ_INFO0.STATE. -/
inductive ReqSt where
  | free | active | paused | held | cold | cancelling
deriving DecidableEq, Repr

/-- What a request record sets (R302). -/
structure ReqParams where
  policy : Nat
  keep : Bool
  countPrompt : Bool
  nprompt : Nat
  prompt : Nat
  ring : Nat
  ringLog : Nat
  vector : Nat
  hotPages : Nat
  seed : Nat
  deadline : Nat
  maxNew : Nat
  temp : Word
  topk : Nat
  topp : Word
  minp : Word
  pres : Word
  freq : Word
  rep : Word
  /-- (token, bias) and the token sequences that stop the request -/
  bias : List (Nat × Word)
  stops : List (List Nat)
deriving DecidableEq, Repr

def ReqParams.none : ReqParams :=
  { policy := 0, keep := false, countPrompt := false, nprompt := 0, prompt := 0, ring := 0, ringLog := 4, vector := 2, hotPages := 0
    seed := 0, deadline := 0, maxNew := 0, temp := 0, topk := 0, topp := 0, minp := 0, pres := 0, freq := 0, rep := 0
    bias := [], stops := [] }

/-- A page group (R308, R309): HOT, in a frame of a vault, where its page-table entry lies in a piece with those of its run; or WARM, in a group of the
model's LPDDR6 pool. While its copy to WARM runs it is HOT and has that group already. -/
structure PageGroup where
  vault : Nat
  frame : Nat
  piece : Nat
  hot : Bool
  warm : Option Nat
deriving DecidableEq, Repr

structure Req where
  st : ReqSt
  /-- pause reasons in force, by bit number -/
  reasons : List Nat
  model : Nat
  prio : Nat
  p : ReqParams
  /-- admission order, and acceptance beat of the REQ_SUBMIT (R300, R304) -/
  adm : Nat
  accept : Nat
  /-- committed length and pending token (R302) -/
  n : Nat
  pending : Nat
  /-- positions below `fillEnd` from n on are prefill; those from `fillBase` on take the prompt's tokens, in order -/
  fillBase : Nat
  fillEnd : Nat
  /-- next position to prefill again after a swap with KV_RECOMPUTE (R332) -/
  redo : Option Nat
  /-- tokens generated since the last REQ_SUBMIT, newest last -/
  gen : List Nat
  lastTok : Option Nat
  ttft : Option Nat
  maxTbt : Option Nat
  /-- PROD of its token ring (R294) -/
  prod : Nat
  /-- entries used of the count table, which lies in a vault (R314) -/
  counts : Nat
  /-- positions whose token was counted -/
  counted : List Nat
  countOvf : Bool
  groups : SMap PageGroup
  /-- VOCAB of the row last given to the host (R316) -/
  vocab : Nat
deriving DecidableEq, Repr

def Req.free : Req :=
  { st := .free, reasons := [], model := 0, prio := 0, p := ReqParams.none, adm := 0, accept := 0, n := 0, pending := 0, fillBase := 0
    fillEnd := 0, redo := none, gen := [], lastTok := none, ttft := none, maxTbt := none, prod := 0, counts := 0, counted := [], countOvf := false
    groups := [], vocab := 0 }

/-! ## Steps (R303 to R306) -/

/-- A roster member (R305). -/
structure Member where
  handle : Nat
  kind : Nat
  pos : Nat
  npos : Nat
  token : Nat
  npages : Nat
deriving DecidableEq, Repr

structure StepRec where
  num : Nat
  seg : Nat
  count : Nat
  base : Nat
  members : List Member
  /-- what the Sieve returned for a row: a token, or that its draw failed -/
  rows : SMap (Option Nat)
deriving DecidableEq, Repr

/-- A model's serving (SRV_CONFIG, SRV_STEPm). -/
structure Serving where
  conf : Bool
  seg : Nat
  frames : Nat
  warm : Nat
  span : Nat
  area : Nat
  /-- bytes of the area in each vault, by the manifest that the slot held at SRV_CONFIG (R322) -/
  size : Nat
  /-- boundaries passed; base beat of the last step; beats it took -/
  passed : Nat
  lastBase : Option Nat
  last : Nat
  step : Option StepRec
  stalled : Bool
  barrier : Bool
  /-- a boundary is to pass although no step is in flight -/
  due : Bool
  /-- handles paused for LATENCY, and for RING_FULL or PAGES, in order of pausing -/
  latQ : List Nat
  heldQ : List Nat
deriving DecidableEq, Repr

/-- DESIGN CHOICE, assumption 9. -/
def Serving.reset : Serving :=
  { conf := false, seg := 0, frames := 0, warm := 0, span := 1, area := 0, size := 0, passed := 0, lastBase := none, last := 0, step := none
    stalled := false, barrier := false, due := false, latQ := [], heldQ := [] }

/-- A context image on its way to the host, or one that has passed its checks (R311, R312). -/
structure Xfer where
  seq : Nat
  handle : Nat
  save : Bool
  host : Nat
  image : List Byte
  /-- a restore: the model that the handle names again if the transfer fails (R312) -/
  back : Nat
deriving DecidableEq, Repr

/-! ## The Sieve (R313) -/

structure SieveRow where
  handle : Nat
  model : Nat
  vocab : Nat
  logits : List Word
deriving DecidableEq, Repr

structure ServeState where
  reqs : SMap Req
  models : SMap Serving
  xfers : List Xfer
  /-- whole rows not yet drawn, oldest first, and the row in progress -/
  rows : List SieveRow
  part : Option SieveRow
  /-- vectors of the token rings that received entries at the boundary in hand (R294) -/
  ringVecs : List Nat
  /-- what host Ladle HL0 is to write into host memory at a boundary's end, as address and bytes, in order (R306) -/
  ringOut : List (Nat × List Byte)
  /-- frames of requests that ended at the boundary in hand, not yet freed: model, vault, frame (R306) -/
  gone : List (Nat × Nat × Nat)
deriving DecidableEq, Repr

def ServeState.reset : ServeState := { reqs := [], models := [], xfers := [], rows := [], part := none, ringVecs := [], ringOut := [], gone := [] }

/-! ## Model slots (R318 to R334) -/

/-- WGT_MODm_STATUS.STATE and STAGE. -/
inductive ModelSt where
  | empty | loading | ready | degraded | swapping
deriving DecidableEq, Repr

inductive StageSt where
  | none | filling | staged | failed
deriving DecidableEq, Repr

structure Shard where
  addr : Nat
  size : Nat
  layer : Nat
  format : Nat
  digest : List Byte
deriving DecidableEq, Repr

structure Manifest where
  keyslot : Nat
  family : Nat
  version : Nat
  /-- TIER by layer -/
  tiers : List Nat
  shards : List Shard
  /-- MODEL_VER (R320) -/
  mver : List Byte
deriving DecidableEq, Repr

/-- A fetch in progress: a load or a repair, or the fill of a staging area (R324, R325, R328, R330). -/
structure Fetch where
  seq : Nat
  src : Nat
  peer : Nat
  data : Nat
  repair : Bool
  /-- shards to fetch, in index order, and how many have passed -/
  shards : List Nat
  done : Nat
  /-- the second fetch of the shard in hand -/
  again : Bool
  /-- from a peer: bytes received, the offsets of those that came poisoned (32 bytes each), re-requests of this shard, time of the last request or
  DATA (`TimeState.run`) -/
  got : List Byte
  spoilt : List Nat
  retries : Nat
  since : Nat
  /-- a REQ is out for the shard in hand -/
  asked : Bool
deriving DecidableEq, Repr

/-- A swap of layers (R329 to R333). -/
structure Swap where
  seq : Nat
  man : Manifest
  recompute : Bool
  fleet : Bool
  /-- the beat of its fleet action has passed -/
  released : Bool
  /-- changed layers still to be rewritten -/
  layers : List Nat
deriving DecidableEq, Repr

structure ModelSlot where
  st : ModelSt
  stage : StageSt
  man : Option Manifest
  quar : List Nat
  stageBase : Nat
  stageSize : Nat
  /-- a load or repair; and the fill of the staging area, which may run beside a repair -/
  fetch : Option Fetch
  fill : Option Fetch
  swap : Option Swap
deriving DecidableEq, Repr

/-- DESIGN CHOICE, assumption 9. -/
def ModelSlot.reset : ModelSlot :=
  { st := .empty, stage := .none, man := none, quar := [], stageBase := 0, stageSize := 0, fetch := none, fill := none, swap := none }

structure WeightState where
  slots : SMap ModelSlot
  /-- enrolled keys by slot (flash), and MODEL_KEY commands that wait for flash: command, slot, key or none -/
  keys : SMap (List Byte)
  flashWait : List (Nat × Nat × Option (List Byte))
  /-- next shard of the digest scrub: model × 8,192 + staged × 4,096 + shard -/
  scrubPos : Nat
deriving DecidableEq, Repr

def WeightState.reset : WeightState := { slots := [], keys := [], flashWait := [], scrubPos := 0 }

end Sys2Proof.Machine
end

