-- ==== Sys2Proof/Machine/State.lean ====
section
/-!
DEFINITION. The state of the machine, as plain data, and the state after reset.
-/

namespace Sys2Proof.Machine

open Sys2Proof

/-- Reasons the machine can stop with a fault. No command raises one: the manual describes every error of this part as an
effect on its state (a halt record, a status, an event). The one reason is kept for an address that does not exist. Safe. -/
inductive Fault where
  /-- raised by no command: every access of the manual to an absent address has an effect it describes (R4, R277, R380) -/
  | noSuchAddress
deriving DecidableEq, Repr

/-- Reasons a command is refused. -/
inductive Refusal where
  /-- raised by exec for a row that has no meaning yet: safe -/
  | notModelled (mnemonic : String)
deriving DecidableEq, Repr

/-- An event on its way to the event ring (R292). -/
structure Event where
  type : Nat
  rank : Nat
  beat : Nat
  detail : Nat
  remote : Bool
deriving DecidableEq, Repr

/-- Operations of the device on an optics bus (R213): it selects a channel of the switch, writes the page select byte of the module at that
channel, reads a byte of it or writes one. -/
inductive OptOp where
  | channel (k : Nat)
  | page (p : Nat)
  | read (addr : Nat)
  | write (addr data : Nat)
deriving DecidableEq, Repr

/-- What leaves the part for the world outside: the model's own record of it, oldest first. -/
inductive Out where
  /-- data read from device memory for a requester outside the model, with the codewords that are poison -/
  | readData (addr : Nat) (data : List Byte) (poison : List Nat)
  /-- the response to a management order: its completion entry (R287) -/
  | mctpResponse (c : Completion)
  /-- the error response of an isolation wrapper or a channel out of service to a request for a device address (R150, R166, R343) -/
  | errorResponse (addr : Nat)
  /-- a packet or a link control word on a Novbo port -/
  | link (port : Nat) (p : NPkt)
  | lcw (port : Nat) (w : Dword)
  /-- TPk changes its level, to high or to low -/
  | pulse (k : Nat) (high : Bool)
  /-- the value of a register read: the requester (0 host, 1 Ermond's firmware) and the offset in BAR0 -/
  | regData (requester addr : Nat) (value : Word)
  /-- an operation on the two-wire bus of a group of ports (R213) -/
  | optics (bus : Nat) (op : OptOp)
  /-- serial data that a port in LOOP at depth L4 returns to its peer as it came (R212) -/
  | serial (port : Nat) (words : List Dword)
  /-- an MSI-X message of a vector (R294) -/
  | msix (vector : Nat)
  /-- data of a BAR0, BAR2 or BAR4 read completed as a whole: none for Unsupported Request, or data in a poisoned completion (R276, R277, R370) -/
  | barData (addr : Nat) (data : Option (List Byte)) (poison : Bool)
  /-- Ermond's answers to a management controller: a firmware update taken or refused; input voltage in units of PWR_VIN, input power in W,
  stage, stack and hottest junction temperature, THERMTRIP_N and FAULT_N low (R348, R352, R390) -/
  | pldmUpdate (taken : Bool)
  | pldmPlatform (vin watts stage stack junction : Nat) (thermtrip fault : Bool)
  /-- an answer to an SPDM requester on a transport (R353) -/
  | spdm (doe : Bool) (r : SpdmResp)
  /-- an I3C Hot-Join request; an in-band interrupt that announces an MCTP message (R390) -/
  | hotJoin
  | ibi
  /-- the test pattern that port `port` sends on its lanes in place of link words, 0 PRBS13Q, 1 PRBS31Q; no lanes where it ends (R366) -/
  | pattern (port pattern lanes : Nat)
  /-- THERMTRIP_N and FAULT_N: true where the pin is driven low (R391) -/
  | pins (thermtrip fault : Bool)
deriving DecidableEq, Repr

structure State where
  variant : Variant
  /-- commands waiting, first in, first out -/
  pending : List Instr
  /-- the current beat (R24) -/
  beat : Beat
  /-- clusters whose controller has not yet taken the boundary of that beat: they hold the one before (R24) -/
  lagging : List Nat
  /-- draws made from the free values of Config: the model's own counter -/
  freeCtr : Nat
  /-- fields of registers that are plain storage, by canonical BAR0 offset; an unlisted register holds its reset value -/
  regs : SMap Word
  tileMem : Memory
  devMem : Memory
  hostMem : Memory
  /-- tile SRAM words with bad symbols, by word address: false corrected by a read, true uncorrectable (R119, R120) -/
  wordErr : SMap Bool
  cwErr : SMap CwErr
  tiles : SMap TileState
  routers : SMap RouterState
  clusters : SMap ClusterState
  segs : List Segment
  replays : List ReplayRun
  ports : SMap PortOwn
  /-- packets that left the mesh toward a unit, waiting at its intake, keyed like `ports`; and those arriving flit by flit, keyed
  (router × 8 + output) × 4 + class -/
  intakeQ : SMap (List Packet)
  termPart : SMap Packet
  /-- tiles that the fence map held by every NE marks as fenced (R134) -/
  fenceMap : List Nat
  power : PowerState
  /-- ladder point of each clock region, 2 where not listed (R236) -/
  points : SMap Nat
  /-- regions that have lost ADPLL lock (R355) -/
  unlocked : List Nat
  vaults : SMap VaultState
  skillets : SMap SkilletState
  lp : SMap LpChan
  ladles : SMap LadleState
  /-- destinations of write packets on their way to an LPX intake: Ladle, flow, device address, transfer, in order; and read requests that have
  come to an LPX unit: Ladle, request number (R176) -/
  lpWrites : List (Nat × Nat × Nat × Nat)
  lpReqs : List (Nat × Nat)
  /-- completion pulses for the batch former: the EVTILE tags (R181) -/
  bfPulses : List Nat
  events : List Event
  evLost : Bool
  /-- clusters whose bit of the ALARM map of MGT_GOO is set; the WARN map is in the map registers (02) -/
  alarmMap : List Nat
  /-- parts whose HEALTH_WARN, HEALTH_ALERT event was raised and is not armed again (R364) -/
  hltWarned : List Nat
  hltAlerted : List Nat
  host : HostState
  tm : TimeState
  regions : SMap Region
  nports : SMap NPort
  fleet : FleetState
  srv : ServeState
  wgt : WeightState
  boot : BootState
  flash : Flash
  module : Module
  acc : AccessState
  /-- events to be sent to the forwarding rank (R293), oldest first -/
  evForward : List (Nat × Event)
  outbox : List Out
deriving DecidableEq, Repr

/-- Model-signing keys as module flash holds them (R321). -/
def flashKeys : SMap (List Byte) :=
  (fromTo 0 8).filterMap (fun k => (Config.flashKey k).map (fun b => (k, b)))

/-- A module right after a whole-chip reset (R336), with a journal seed; nothing is in its memories, no command waits. (DESIGN CHOICE, assumptions 2 and 9 and 10 and 12) -/
def State.fresh (v : Variant) (seed : BitVec 128) : State :=
  { variant := v, pending := [], beat := 0, lagging := [], freeCtr := 0, regs := [], tileMem := [], devMem := [], hostMem := [], wordErr := [], cwErr := []
    tiles := [], routers := [], clusters := [], segs := [], replays := [], ports := [], intakeQ := [], termPart := [], fenceMap := []
    power := PowerState.reset, points := [], unlocked := [], vaults := [], skillets := [], lp := [], ladles := [], lpWrites := [], lpReqs := [], bfPulses := []
    events := [], evLost := false, alarmMap := [], hltWarned := [], hltAlerted := [], host := HostState.reset seed, tm := TimeState.reset
    regions := [], nports := [], fleet := FleetState.reset, srv := ServeState.reset, wgt := { WeightState.reset with keys := flashKeys }
    boot := BootState.reset, flash := Flash.made, module := Module.reset, acc := AccessState.reset, evForward := [], outbox := [] }

/-- The machine right after its first power-on reset: a PZ-9100 in bring-up stage 0. (DESIGN CHOICE, assumption 12) -/
def State.reset : State := State.fresh .pz9100 (Config.journalSeed 0)

end Sys2Proof.Machine
end

