-- ==== Sys2Proof/Machine/Ops.lean ====
section
/-!
DEFINITION. The named operations over registers, units and memory that every command is written with: reading and
writing register storage, reaching a tile, router or cluster, raising an event, halting a tile (R51 to R53).
-/

namespace Sys2Proof.Machine

open Sys2Proof

abbrev Res := Host.Outcome State Fault Refusal

/-! ## Presence (R4, R5, R14) -/

/-- DESIGN CHOICE, assumption 12. -/
def State.full (s : State) : Bool := s.variant = .pz9100
def State.nClusters (s : State) : Nat := if s.full then 64 else 48
def State.nTiles (s : State) : Nat := if s.full then 4096 else 3072
def State.nPorts (s : State) : Nat := if s.full then 18 else 9
/-- DESIGN CHOICE, assumptions 3 and 88; DEDUCED, assumption 22. -/
def State.tileOk (s : State) (t : Nat) : Bool := decide (t < s.nTiles)

/-! ## Register storage -/

/-- The stored value of the register at a canonical BAR0 offset: as last written, else its reset value. -/
def State.reg (s : State) (a : Nat) : Word :=
  match smFind s.regs a with
  | some w => w
  | none => match decodeReg a with
    | none => 0
    | some r => r.reset s.variant

def State.setReg (s : State) (a : Nat) (w : Word) : State := { s with regs := smSet s.regs a w }

/-- Field lo + w − 1 : lo of a stored register. -/
def State.fld (s : State) (a lo w : Nat) : Nat := fieldOf (s.reg a).toNat lo w

def State.setFld (s : State) (a lo w v : Nat) : State :=
  s.setReg a (BitVec.ofNat 32 (withField (s.reg a).toNat lo w v))

/-- Adds n to the saturating count in field lo + w − 1 : lo. (DESIGN CHOICE, assumption 90) -/
def State.bumpF (s : State) (a lo w n : Nat) : State := s.setFld a lo w (satAdd w (s.fld a lo w) n)

/-- Adds n to a 32-bit saturating count. -/
def State.bump (s : State) (a n : Nat) : State := s.bumpF a 0 32 n

def State.setBit (s : State) (a i : Nat) : State := s.setFld a i 1 1

/-- An event of the slow domain sets a bit: a clear that takes effect at the same slow edge leaves it set (R373, R376). -/
def State.rise (s : State) (a i : Nat) : State :=
  let s1 := s.setBit a i
  { s1 with acc := { s1.acc with risen := (a, i) :: s1.acc.risen } }

/-- The bytes of a dword that a read enables; the others carry nothing, shown as 0 (R370). -/
def enabledBytes (be : BitVec 4) (w : Word) : Word :=
  if be = 0xF then w else (fromTo 0 4).foldl (fun (a : Word) i => if be.getLsbD i then a ||| (w &&& (0xFF#32 <<< (8 * i))) else a) 0

/-! ## Units -/

def State.tile (s : State) (t : Nat) : TileState := smGet s.tiles t TileState.reset
def State.setTile (s : State) (t : Nat) (x : TileState) : State := { s with tiles := smSet s.tiles t x }
def State.modTile (s : State) (t : Nat) (f : TileState → TileState) : State := s.setTile t (f (s.tile t))

def State.router (s : State) (t : Nat) : RouterState := smGet s.routers t (RouterState.reset s.full)
def State.setRouter (s : State) (t : Nat) (x : RouterState) : State := { s with routers := smSet s.routers t x }
def State.modRouter (s : State) (t : Nat) (f : RouterState → RouterState) : State := s.setRouter t (f (s.router t))

def State.cluster (s : State) (c : Nat) : ClusterState := smGet s.clusters c ClusterState.reset
def State.setCluster (s : State) (c : Nat) (x : ClusterState) : State := { s with clusters := smSet s.clusters c x }
def State.modCluster (s : State) (c : Nat) (f : ClusterState → ClusterState) : State :=
  s.setCluster c (f (s.cluster c))

def State.vault (s : State) (v : Nat) : VaultState := smGet s.vaults v VaultState.reset
def State.setVault (s : State) (v : Nat) (x : VaultState) : State := { s with vaults := smSet s.vaults v x }
def State.modVault (s : State) (v : Nat) (f : VaultState → VaultState) : State := s.setVault v (f (s.vault v))

def State.skillet (s : State) (v : Nat) : SkilletState := smGet s.skillets v SkilletState.reset
def State.setSkillet (s : State) (v : Nat) (x : SkilletState) : State := { s with skillets := smSet s.skillets v x }

def State.lpch (s : State) (c : Nat) : LpChan := smGet s.lp c LpChan.reset
def State.setLpch (s : State) (c : Nat) (x : LpChan) : State := { s with lp := smSet s.lp c x }

def State.ladle (s : State) (l : Nat) : LadleState := smGet s.ladles l LadleState.reset
def State.setLadle (s : State) (l : Nat) (x : LadleState) : State := { s with ladles := smSet s.ladles l x }
def State.lchan (s : State) (l k : Nat) : LChan := smGet (s.ladle l).ch k LChan.reset
def State.setLchan (s : State) (l k : Nat) (x : LChan) : State :=
  s.setLadle l { s.ladle l with ch := smSet (s.ladle l).ch k x }

/-- Number under which an ownership port is kept. -/
def rportCode : RPort → Nat
  | .north => 1 | .east => 2 | .south => 3 | .west => 4 | .loc => 5 | .cluster => 6

def mclassCode : MClass → Nat
  | .plan => 0 | .tally => 1 | .ctrl => 2

def ownKey : OwnPort → Nat
  | .router t p => t.toNat * 8 + rportCode p
  | .skillet v => 0x10000 + v.toNat
  | .ladle c => 0x10040 + c.toNat
  | .hostLadle n => 0x10080 + n.toNat
  | .lpx h => 0x10082 + h.toNat
  | .sieve => 0x10084
  | .novbo n => 0x10100 + n.toNat

def State.port (s : State) (p : OwnPort) : PortOwn := smGet s.ports (ownKey p) PortOwn.reset
def State.setPort (s : State) (p : OwnPort) (x : PortOwn) : State := { s with ports := smSet s.ports (ownKey p) x }

/-! ## Engines of a tile -/

def engCode : Engine → Nat
  | .sc => 0 | .te => 1 | .ve => 2 | .whisk => 3 | .ne => 4

/-- Engine codes as indices of the tile's engines. -/
def engIdx : Engine → Fin 5
  | .sc => 0 | .te => 1 | .ve => 2 | .whisk => 3 | .ne => 4

def TileState.eng (x : TileState) (e : Engine) : EngineState := x.engines[engIdx e]
def TileState.setEng (x : TileState) (e : Engine) (y : EngineState) : TileState :=
  { x with engines := x.engines.set (engIdx e) y }

/-- A general register of the scalar core; g0 always reads zero (R62). -/
def TileState.gpr (x : TileState) (i : BitVec 5) : Word := if i = 0 then 0 else x.g[i.toNat]'i.isLt
def TileState.setGpr (x : TileState) (i : BitVec 5) (w : Word) : TileState :=
  if i = 0 then x else { x with g := x.g.set i.toNat w i.isLt }

def TileState.tally (x : TileState) (i : BitVec 5) : BitVec 16 := x.tallies[i.toNat]'i.isLt
def TileState.setTally (x : TileState) (i : BitVec 5) (w : BitVec 16) : TileState :=
  { x with tallies := x.tallies.set i.toNat w i.isLt }

def TileState.param (x : TileState) (i : BitVec 6) : Word := x.active[i.toNat]'i.isLt

def EngineState.areg (y : EngineState) (i : BitVec 3) : Word := y.addr[i.toNat]'i.isLt
def EngineState.setAreg (y : EngineState) (i : BitVec 3) (w : Word) : EngineState :=
  { y with addr := y.addr.set i.toNat w i.isLt }

def TileState.vreg (x : TileState) (i : BitVec 4) : Vector Word 64 := x.v[i.toNat]'i.isLt
def TileState.setVreg (x : TileState) (i : BitVec 4) (w : Vector Word 64) : TileState :=
  { x with v := x.v.set i.toNat w i.isLt }

/-! ## Tile SRAM addresses (06). Memory codes: 0 WM, 1 AM, 2 PM, 3 scalar data, 4 to 8 instruction memories. -/

def tmAddr (t mem off : Nat) : Nat := (t * 16 + mem) * 2 ^ 17 + off

/-- Capacity of a tile memory in bytes (R107). -/
def memCap (mem : Nat) : Nat :=
  if mem = 0 then 98304 else if mem = 1 then 65536 else if mem = 2 then 32768 else if mem = 3 then 16384
  else if mem = 4 then 16384 else if mem = 5 then 8192 else if mem = 6 then 8192 else 4096

/-- Banks of a tile memory (R107). -/
def memBanks (mem : Nat) : Nat := if mem = 0 then 16 else if mem = 1 then 16 else if mem = 2 then 8 else if mem = 3 then 4 else 1

/-- Physical base and effective size, in bytes, of a task's window in WM, AM or PM (R109). Scalar data is not relocated. -/
def State.taskWin (s : State) (t task mem : Nat) : Nat × Nat :=
  let a := tilReg t (0x220 + 8 * task)
  let b := tilReg t (0x224 + 8 * task)
  let eff (size base cap gran : Nat) : Nat × Nat := (base * gran, (if cap ≤ base then 0 else min size (cap - base)) * gran)
  if mem = 0 then eff (s.fld a 24 8) (s.fld a 16 8) 192 512
  else if mem = 1 then eff (s.fld a 8 8) (s.fld a 0 8) 128 512
  else if mem = 2 then eff (s.fld b 8 8) (s.fld b 0 8) 128 256
  else (0, memCap mem)

/-- Address in tile memory of an offset within a task window. -/
def State.tmOff (s : State) (t task mem off : Nat) : Nat := tmAddr t mem ((s.taskWin t task mem).1 + off)

def State.tmRead (s : State) (a n : Nat) : List Byte := memRead s.tileMem a n
def State.tmNat (s : State) (a n : Nat) : Nat := memNat s.tileMem a n

/-- Writes bytes of tile memory. Every word written whole gets valid check symbols (R120); a word written in part keeps
its marks. -/
def State.tmWrite (s : State) (a : Nat) (bs : List Byte) : State :=
  { s with
    tileMem := memWrite s.tileMem a bs
    wordErr := s.wordErr.filter (fun p => !(decide (a ≤ p.1 * 32) && decide (p.1 * 32 + 32 ≤ a + bs.length))) }

/-! ## Device and host memory -/

def State.dvRead (s : State) (a n : Nat) : List Byte := memRead s.devMem a n
def State.dvNat (s : State) (a n : Nat) : Nat := memNat s.devMem a n

/-- Writes bytes of device memory; a codeword written whole becomes valid, one written in part stays as it is (R148, R169). -/
def State.dvWrite (s : State) (a : Nat) (bs : List Byte) : State :=
  { s with
    devMem := memWrite s.devMem a bs
    cwErr := s.cwErr.filter (fun p => !(decide (a ≤ p.1 * 64) && decide (p.1 * 64 + 64 ≤ a + bs.length))) }

def State.hostRead (s : State) (a n : Nat) : List Byte := memRead s.hostMem a n
def State.hostNat (s : State) (a n : Nat) : Nat := memNat s.hostMem a n
def State.hostWrite (s : State) (a : Nat) (bs : List Byte) : State := { s with hostMem := memWrite s.hostMem a bs }

/-! ## Events (R292) -/

/-- TILE_HALT of this device. -/
def Event.ownHalt (e : Event) : Bool := decide (e.type = 1) && !e.remote

/-- An event reaches Ermond and waits for its ring. This device's own TILE_HALT events are all held (R55); up to 1,024 of the others are, beyond
which one is dropped, counted in HIF_EVT_LOST, and the next entry written carries LOST (R292). (DEDUCED, assumption 96) -/
def State.queueEvent (s : State) (e : Event) : State :=
  if e.ownHalt ∨ (s.events.filter (fun x => !x.ownHalt)).length < 1024 then { s with events := s.events ++ [e] }
  else { s.bump (hifReg 0x38) 1 with evLost := true }

/-- An event of a beat is raised; with forwarding on, a copy goes to the rank of HIF_EVT_FWD (R293). -/
def State.raiseAt (s : State) (beat type detail : Nat) : State :=
  let e : Event := { type := type, rank := s.fld (mgtReg 0xA000) 0 20, beat := beat, detail := detail, remote := false }
  let s1 := s.queueEvent e
  if s.fld (hifReg 0x34) 31 1 = 1 then
    { s1 with evForward := s1.evForward ++ [(s.fld (hifReg 0x34) 0 20, e)] }
  else s1

def State.raise (s : State) (type detail : Nat) : State := s.raiseAt s.beat.toNat type detail

/-! ## Health scores (R363, R364). Parts: 0–17 Novbo ports, 18–81 vaults, 82–145 clusters, 146–177 LPDDR6 channels. -/

/-- DESIGN CHOICE, assumption 88. -/
def State.partPresent (s : State) (k : Nat) : Bool :=
  if k < 18 then decide (k < s.nPorts) else if k < 82 then decide (k - 18 < s.nClusters)
  else if k < 146 then decide (k - 82 < s.nClusters) else s.full && decide (k < 178)

def hltScore (k : Nat) : Nat := mgtReg (0xC100 + 4 * k)
def partPort (n : Nat) : Nat := n
def partVault (v : Nat) : Nat := 18 + v
def partCluster (c : Nat) : Nat := 82 + c
def partLp (c : Nat) : Nat := 146 + c

/-- Sets a part's score, raising HEALTH_WARN or HEALTH_ALERT when it first reaches a threshold and arming the event again below half
of it. -/
def State.setScore (s : State) (k v : Nat) : State :=
  let th := mgtReg 0xC008
  let warn := s.fld th 0 16
  let alert := s.fld th 16 16
  let d := k + v * 2 ^ 16
  let s1 := s.setFld (hltScore k) 0 16 v
  let s2 : State := { s1 with
    hltWarned := if 2 * v < warn then s1.hltWarned.erase k else s1.hltWarned
    hltAlerted := if 2 * v < alert then s1.hltAlerted.erase k else s1.hltAlerted }
  let s3 := if warn ≤ v ∧ !s2.hltWarned.contains k then { s2.raise 0x402 d with hltWarned := k :: s2.hltWarned } else s2
  if alert ≤ v ∧ !s3.hltAlerted.contains k then { s3.raise 0x403 d with hltAlerted := k :: s3.hltAlerted } else s3

/-- An event of part k adds the weight of its class: 0 MINOR, 1 MAJOR, 2 SEVERE. -/
def State.health (s : State) (k cls : Nat) : State :=
  if s.partPresent k then s.setScore k (satAdd 16 (s.fld (hltScore k) 0 16) (s.fld (mgtReg 0xC004) (8 * cls) 8)) else s

/-! ## Device addresses (R143, R144, R168) -/

def vaultSize : Nat := 0x30000000
def lpxBase : Nat := 0x1000000000
def lpxMid : Nat := 0x5000000000
def lpxEnd : Nat := 0x9000000000

/-- The vault of a device address. -/
def State.vaultAt (s : State) (a : Nat) : Option Nat := if a / vaultSize < s.nClusters then some (a / vaultSize) else none

def State.isLpx (s : State) (a : Nat) : Bool := s.full && decide (lpxBase ≤ a) && decide (a < lpxEnd)

/-- Half of an LPDDR6 address: 0 LPX-A, 1 LPX-B. -/
def lpHalf (a : Nat) : Nat := if a < lpxMid then 0 else 1
def lpOff (a : Nat) : Nat := if a < lpxMid then a - lpxBase else a - lpxMid
def lpChan (a : Nat) : Nat := 16 * lpHalf a + lpOff a / 256 % 16
/-- Codeword index within its channel. -/
def lpCw (a : Nat) : Nat := (lpOff a / 4096 * 256 + lpOff a % 256) / 64
/-- Device address of a codeword of a channel. -/
def lpAddr (c cw : Nat) : Nat :=
  let o := cw * 64
  (if c < 16 then lpxBase else lpxMid) + (o / 256 * 4096) + c % 16 * 256 + o % 256

/-- Present device memory: a vault or LPDDR6 (R144, R168). (DESIGN CHOICE, assumption 88) -/
def State.devPresent (s : State) (a : Nat) : Bool := (s.vaultAt a).isSome || s.isLpx a

/-- The journal area (R295). -/
def inJournal (a : Nat) : Bool := decide (0x2FC00000 ≤ a) && decide (a < 0x30000000)

/-- Bank of a vault offset: channel, and layer × 16 + bank (R144). -/
def State.bankOf (s : State) (o : Nat) : Nat × Nat :=
  let layer := if s.full then 192 * 2 ^ 20 else 256 * 2 ^ 20
  let w := o % layer
  (w / 128 % 2, o / layer * 16 + w / 256 % 16)

/-! ## Banks under refresh, and vaults in service (R145, R146, R150) -/

/-- A vault serves requests while it is trained, out of self-refresh, and its cluster not isolated (R150). -/
def State.vaultServes (s : State) (v : Nat) : Bool :=
  decide (v < s.nClusters) && (s.vault v).trained && !(s.vault v).selfref && !(s.cluster v).isolated

/-- Banks of vault v that hold the granules of [a, a + n): channel × 64 + layer × 16 + bank. -/
def State.bankKeys (s : State) (v a n : Nat) : List Nat :=
  if n = 0 then []
  else (fromTo (a / 128) ((a + n - 1) / 128 + 1 - a / 128)).map (fun g =>
    let b := s.bankOf (128 * g - v * vaultSize)
    b.1 * 64 + b.2)

/-- A granule of [a, a + n) of vault v lies in a bank under refresh: a read or write of it waits (R146). -/
def State.bankHeld (s : State) (a n : Nat) : Bool :=
  match s.vaultAt a with
  | some v => (s.vault v).refreshing ≠ [] && (s.bankKeys v a n).any (fun b => (s.vault v).refreshing.contains b)
  | none => false

/-- A wait for a bank under refresh, counted (R146). -/
def State.refStall (s : State) (v : Nat) : State := s.bump (vltReg v 0x2C) 1

/-- An access of Ermond or of the host waits out the refresh of the banks it meets; a wait is counted (R146). (DESIGN CHOICE, assumption 32) -/
def State.awaitBanks (s : State) (a n : Nat) : State :=
  match s.vaultAt a with
  | some v =>
    if s.bankHeld a n then
      (s.refStall v).modVault v (fun x => { x with refreshing := x.refreshing.filter (fun k => !(s.bankKeys v a n).contains k) })
    else s
  | none => s

/-! ## Codewords of device memory (R148, R167, R169) -/

def State.clearCw (s : State) (cw : Nat) : State := { s with cwErr := smDel s.cwErr cw }
def State.markCw (s : State) (cw : Nat) : State := { s with cwErr := smSet s.cwErr cw .bad }

/-- A read of one codeword of a vault that carries a mark (R148). -/
def State.vaultCwRead (s : State) (v cw : Nat) (e : CwErr) (scrub : Bool) : State × Bool :=
  let idx := cw - v * (vaultSize / 64)
  let last (k : Nat) : Word := BitVec.ofNat 32 (2 ^ 31 + k * 2 ^ 29 + bit scrub * 2 ^ 28 + idx)
  match e with
  | .one => ((((s.clearCw cw).bump (vltReg v 0x0C) 1).setReg (vltReg v 0x18) (last 1)).health (partVault v) 0, false)
  | .two => ((((s.clearCw cw).bump (vltReg v 0x10) 1).setReg (vltReg v 0x18) (last 2)).health (partVault v) 1, false)
  | _ =>
    let s1 := ((s.bump (vltReg v 0x14) 1).setBit (vltReg v 4) 27).setReg (vltReg v 0x18) (last 3)
    ((s1.raise 0x12 (v + idx * 2 ^ 32 + bit scrub * 2 ^ 60)).health (partVault v) 2, true)

/-- A read of one codeword of LPDDR6 that carries a mark (R167, R169). -/
def State.lpCwRead (s : State) (cw : Nat) (e : CwErr) (scrub : Bool) : State × Bool :=
  let a := cw * 64
  let c := lpChan a
  let idx := lpCw a
  let rec_ (q : State) (k tag : Nat) : State :=
    (q.setReg (lpxReg 8) (BitVec.ofNat 32 (2 ^ 31 + k * 2 ^ 29 + bit scrub * 2 ^ 28 + tag * 2 ^ 27 + c))).setReg (lpxReg 12)
      (BitVec.ofNat 32 idx)
  let corr (k : Nat) : State × Bool :=
    ((rec_ ((s.clearCw cw).bump (lpxReg (0x104 + 0x10 * c)) 1) k 0).health (partLp c) 0, false)
  let bad (tag : Nat) : State × Bool :=
    let s1 := rec_ ((s.bump (lpxReg (0x108 + 0x10 * c)) 1).setBit (lpxReg (0x100 + 0x10 * c)) 26) 3 tag
    ((s1.raise 0x13 (c + idx * 2 ^ 32 + bit scrub * 2 ^ 60 + tag * 2 ^ 61)).health (partLp c) 2, true)
  match e with
  | .one => corr 1
  | .two => corr 2
  | .bad => bad 0
  | .tag => bad 1

def State.cwRead (s : State) (cw : Nat) (scrub : Bool) : State × Bool :=
  match smFind s.cwErr cw with
  | none => (s, false)
  | some e => match s.vaultAt (cw * 64) with
    | some v => s.vaultCwRead v cw e scrub
    | none => s.lpCwRead cw e scrub

/-- Granules of vault v that [a, a + n) touches, added to a telemetry count. -/
def State.countGran (s : State) (reg a n : Nat) : State :=
  match s.vaultAt a with
  | some v => if n = 0 then s else s.bump (vltReg v reg) ((a + n - 1) / 128 + 1 - a / 128)
  | none => s

/-- Reads [a, a + n): corrections and reports happen, and the addresses of its poisoned codewords are answered. -/
def State.devCheck (s : State) (a n : Nat) (scrub : Bool) : State × List Nat :=
  if n = 0 then (s, [])
  else
    let hits := s.cwErr.filter (fun p => decide (a / 64 ≤ p.1) && decide (p.1 ≤ (a + n - 1) / 64))
    hits.foldl (fun q p =>
      let r := q.1.cwRead p.1 scrub
      (r.1, if r.2 then q.2 ++ [p.1] else q.2)) (s.countGran 0x20 a n, [])

/-- Writes bytes: a codeword written whole becomes valid, one written in part is read, corrected and merged, and stays poisoned if it
was uncorrectable (R148, R169). -/
def State.devStore (s : State) (a : Nat) (bs : List Byte) : State :=
  let n := bs.length
  if n = 0 then s
  else
    let part (cw : Nat) : Bool := decide (cw * 64 < a) || decide (a + n < cw * 64 + 64)
    let ends := [a / 64, (a + n - 1) / 64].eraseDups.filter part
    let s1 := ends.foldl (fun q cw => (q.cwRead cw false).1) s
    (s1.dvWrite a bs).countGran 0x24 a n

/-- Writes one 64-byte unit, as poison where its flits are marked. -/
def State.devStoreUnit (s : State) (a : Nat) (bs : List Byte) (poison : Bool) : State :=
  let s1 := s.devStore a bs
  if poison then s1.markCw (a / 64) else s1

/-- Unspecified bytes over a range of device memory, or of host memory. (DESIGN CHOICE, assumption 8) -/
def State.devFree (s : State) (a n : Nat) : State :=
  { s.devStore a ((fromTo 0 n).map (Config.undefByte s.freeCtr)) with freeCtr := s.freeCtr + 1 }
/-- DESIGN CHOICE, assumption 8. -/
def State.hostFree (s : State) (a n : Nat) : State :=
  { s.hostWrite a ((fromTo 0 n).map (Config.undefByte s.freeCtr)) with freeCtr := s.freeCtr + 1 }

/-! ## Completing a command (R291, R295) -/

/-- DESIGN CHOICE, assumption 13. -/
def State.out (s : State) (o : Out) : State := { s with outbox := s.outbox ++ [o] }

/-- An MCTP message of Ermond's, announced by an in-band interrupt (R390). -/
def State.mctpOut (s : State) (o : Out) : State := (s.out .ibi).out o

/-- DEDUCED, assumption 89. -/
def jrnAddr (seq : Nat) : Nat := 0x2FC00000 + 64 * (seq % 65536)

/-! ## Reset domains and the host Ladles -/

def domKey (kind index : Nat) : Nat := kind * 256 + index

def State.domain (s : State) (kind index : Nat) : DomSt := smGet s.boot.doms (domKey kind index) .run

/-- Host Ladle k moves data: its domain is in RUN, it is not disabled, and the function is in D0 (R186, R274, R343). -/
def State.hostLadleUp (s : State) (k : Nat) : Bool :=
  s.domain 6 k = .run && s.fld (ldlReg (64 + k) 0) 31 1 = 0 && !s.host.pcie.d3hot

/-! ## Access to registers (R348, R380, R381, R389) -/

/-- Full ready (R348). -/
def State.ready (s : State) : Bool := s.fld (genReg 4) 28 1 = 1

/-- The die has rails and PERST_N is high. -/
def State.awake (s : State) : Bool := s.module.rails = .on && !s.module.perstLow

/-- Registers other than GEN_ID and GEN_STATUS answer, to either requester, from full ready on (R380). (DESIGN CHOICE, assumption 3) -/
def State.reaches (s : State) : Bool := s.awake && s.ready

/-- A requester's memory request is served: the host's not while the function is in D3hot (R274). (PRESUMED, assumption 94) -/
def State.fnServes (s : State) (req : Nat) : Bool := !(req = 0 && s.host.pcie.d3hot)

/-- A domain is in RUN; a vault lies within its cluster's (R341, R345). -/
def State.inRun (s : State) (kind index : Nat) : Bool := s.domain kind index = .run && (kind ≠ 2 || s.domain 1 index = .run)

/-- A write of a register of a domain takes effect: after full ready, while the domain is in RUN (R380, R381). -/
def State.writable (s : State) (kind index : Nat) : Bool := s.reaches && s.inRun kind index

/-- A mirror write of the entry with a sequence number faults: mirroring stops (R298). -/
def State.mirrorFault (s : State) (seq : Nat) : State :=
  if s.fld (jrnReg 0) 31 1 = 1 ∧ s.fld (jrnReg 4) 31 1 = 0 then (s.setBit (jrnReg 4) 31).raise 0x60 seq else s

/-- Writes bytes of a journal entry: a part of one is read, corrected and merged first (R148). While mirroring runs the whole entry goes to the
host mirror; one that cannot be corrected is unspecified there (R295, R298). At a completion the host may fault the mirror write: a free value; at an
acceptance an operand of the round says it. A vault that does not serve answers with an error: nothing is written,
and the mirror write faults (R150). (DEDUCED, assumption 89) -/
def State.journalWrite (s : State) (seq off : Nat) (bs : List Byte) : State :=
  let serves := s.vaultServes 0
  let s1 := if serves then (s.awaitBanks (jrnAddr seq + off) bs.length).devStore (jrnAddr seq + off) bs else s
  if s.fld (jrnReg 0) 31 1 = 0 ∨ s.fld (jrnReg 4) 31 1 = 1 then s1
  else if !s.hostLadleUp 1 ∨ !serves then s1.mirrorFault seq
  else if off ≠ 0 ∧ Config.mirrorFaults s1.freeCtr then ({ s1 with freeCtr := s1.freeCtr + 1 } : State).mirrorFault seq
  else
    let h := (s.reg (jrnReg 8)).toNat + (s.reg (jrnReg 12)).toNat * 2 ^ 32 + 64 * (seq % 65536)
    let r := ({ s1 with freeCtr := s1.freeCtr + 1 } : State).devCheck (jrnAddr seq) 64 false
    if r.2 = [] then r.1.hostWrite h (r.1.dvRead (jrnAddr seq) 64) else r.1.hostFree h 64

/-- Bytes 0x20 to 0x2A of a completed entry: COMPLETE_BEAT, OUTCOME, STATE 1. (DEDUCED, assumption 89) -/
def jrnDone (beat status : Nat) : List Byte := leBytes 8 beat ++ leBytes 2 status ++ [1]

def State.findCmd (s : State) (seq : Nat) : Option Cmd := s.host.cmds.find? (fun c => c.seq = seq)

/-- A command completes: its journal entry is rewritten unless a later one has taken its place, and its completion entry waits
for the ring, or is the response to a management order; a fleet ACTION has neither (R287, R291). A command that is not waiting
has completed before. -/
def State.complete (s : State) (seq status result : Nat) : State :=
  match s.findCmd seq with
  | none => s
  | some c =>
    let s1 : State := { s with host := { s.host with cmds := s.host.cmds.filter (fun q => q.seq ≠ seq) } }
    let s2 := if seq + 65536 < s.host.next then s1 else s1.journalWrite seq 0x20 (jrnDone s.beat.toNat status)
    let e : Completion := { tag := c.tag, seq := seq, status := status, ring := c.ring, result := result }
    if c.ring = 0xFE then s2.mctpOut (.mctpResponse e)
    else if c.ring < 64 then { s2 with host := { s2.host with waiting := s2.host.waiting ++ [e] } }
    else s2

/-- A command has taken effect; its completion comes later. -/
def State.started (s : State) (seq left : Nat) : State :=
  { s with host := { s.host with cmds := s.host.cmds.map (fun c => if c.seq = seq then { c with started := true, left := left } else c) } }

/-! Halt reasons (03). -/
def rsnBound : Nat := 0x03
def rsnBankConflict : Nat := 0x04
def rsnTallyOverflow : Nat := 0x05
def rsnWaitTimeout : Nat := 0x06
def rsnPowerBudget : Nat := 0x07
def rsnRouteConflict : Nat := 0x08
def rsnFencedDest : Nat := 0x09
def rsnFormat : Nat := 0x0A
def rsnParamRange : Nat := 0x0B
def rsnEcc : Nat := 0x0C
def rsnChecksum : Nat := 0x0D
def rsnStreamEnd : Nat := 0x0E
def rsnCreditOverflow : Nat := 0x0F
def rsnPeerReset : Nat := 0x10
def rsnFormatCode : Nat := 0x11
def rsnCtrlRefused : Nat := 0x12

/-! ## The beat of a cluster (R24) -/

/-- 1 while a cluster controller has still to take the boundary of the current beat. -/
def State.skew (s : State) (c : Nat) : Nat := if s.lagging.contains c then 1 else 0

/-- The beat number that the controller of a cluster holds. -/
def State.beatAt (s : State) (c : Nat) : Nat := s.beat.toNat - s.skew c

/-! ## Halting a tile (R51 to R53) -/

/-- Halt condition at a tile. In RUNNING and IDLE it writes the record and the state becomes HALTED; in HALTED it sets
MORE; an ISOLATED tile takes none (its engines are stopped and the Colander acts for it). The bundle index is written
later, by the cluster controller (R54). -/
def State.halt (s : State) (t engine reason pc info : Nat) : State :=
  let x := s.tile t
  match x.st with
  | .halted => s.setTile t { x with more := true }
  | .isolated => s
  | _ =>
    let s1 := s.setTile t { x with
      st := .halted
      halt := some { engine := engine, reason := reason, pc := pc, bundle := 0, beat := s.beatAt (clusterOf t), info := info }
      haltReported := false }
    if reason = rsnEcc then s1.health (partCluster (clusterOf t)) 2 else s1

/-- A halt with several conditions found at once: the record takes the lowest reason code and MORE is set for the others
(R53). (DEDUCED, assumption 17) -/
def State.haltMany (s : State) (t engine pc : Nat) (conds : List (Nat × Nat)) : State :=
  match conds with
  | [] => s
  | c :: r =>
    let best := r.foldl (fun (b : Nat × Nat) d => if d.1 < b.1 then d else b) c
    let s1 := s.halt t engine best.1 pc best.2
    if r = [] then s1 else s1.modTile t (fun x => { x with more := true })

/-- Halt conditions of several engines of a tile in one cycle, as engine, reason, PC and detail, in ascending engine code and reason: the
first is recorded and the others set MORE (R53). -/
def State.haltAll (s : State) (t : Nat) (conds : List (Nat × Nat × Nat × Nat)) : State :=
  conds.foldl (fun q c => q.halt t c.1 c.2.1 c.2.2.1 c.2.2.2) s

/-! ## Tallies (R46, R47) -/

/-- What comes in while a running tile has issued nothing of its replay yet (R31). -/
def TileState.noteFire (x : TileState) (n : FireNote) : TileState :=
  if x.st = .running ∧ !x.firstIssued then { x with firing := x.firing ++ [n] } else x

/-- Descriptor slots of a channel of cluster Ladle l that come free while a tile of the cluster waits to issue its first instruction: credits of output
24 + k (R31, R48). -/
def State.noteSlots (s : State) (l k before after : Nat) : State :=
  if 64 ≤ l ∨ after ≤ before then s
  else { s with tiles := s.tiles.map (fun p => if clusterOf p.1 = l then (p.1, p.2.noteFire ⟨s.beatAt l, 1, 24 + k, before, after⟩) else p) }

/-- One addition to a tally. Above 0xFFFF it saturates and a RUNNING tile halts with TALLY_OVERFLOW, the signaller `by`
recorded. -/
def State.addTally (s : State) (t : Nat) (i : BitVec 5) (inc by_ : Nat) : State :=
  let x := s.tile t
  let v := (x.tally i).toNat + inc
  let noted (w : Nat) : TileState :=
    (x.setTally i (BitVec.ofNat 16 w)).noteFire ⟨s.beatAt (clusterOf t), 0, i.toNat, (x.tally i).toNat, w⟩
  if v ≤ 0xFFFF then s.setTile t (noted v)
  else
    let s1 := s.setTile t (noted 0xFFFF)
    if x.st = .running then s1.halt t 6 rsnTallyOverflow 0 (i.toNat * 2 ^ 16 + by_) else s1

/-! ## Intervals of time (R246) -/

/-- Units of time, 2^-16 ns, in a nanosecond, a microsecond, a second. -/
def nsU : Nat := 65536
def usU : Nat := 1000 * nsU
def secU : Nat := 1000000000 * nsU

/-- Length of the next step of time at a slow edge: 40 ns × (1 + r), to 2^-16 ns with ties to even (R246). (DESIGN CHOICE, assumption 1) -/
def State.slowStep (s : State) : Nat :=
  let x : Int := (40 * 65536 : Int) * ((2 : Int) ^ 44 + s.tm.rate)
  let q := x / 2 ^ 44
  let r := x % 2 ^ 44
  let up := decide (2 ^ 43 < r) || (decide (r = 2 ^ 43) && decide (q % 2 = 1))
  (q + (if up then 1 else 0)).toNat

/-- An interval that began at `from_` (`TimeState.run`) ends within the slow-edge interval that now runs. (DESIGN CHOICE, assumption 1) -/
def State.passed (s : State) (from_ d : Nat) : Bool := decide (from_ + d < s.tm.run + s.slowStep)

end Sys2Proof.Machine
end

