-- ==== Sys2Proof/Machine/Goose.lean ====
section
/-!
DEFINITION. The Goose: gate beats, the lateness of a gate, and what a cluster Goose or the chip Goose records and raises
(R19, R30 to R34, R403, R404).
-/

namespace Sys2Proof.Machine

open Sys2Proof

def State.findSeg (s : State) (id : BitVec 16) : Option Segment := s.segs.find? (fun g => g.id = id)

/-- Declared slack S of a segment, in beats. -/
def State.slackOf (s : State) (id : BitVec 16) : Nat := match s.findSeg id with | some g => g.slack | none => 0

def State.findStarted (s : State) (c : Nat) (seg : BitVec 16) (count : BitVec 64) : Option Started :=
  (s.cluster c).started.find? (fun r => r.seg = seg ∧ r.count = count)

/-- Gate beat of gate g for the replay a tile is running: its base beat plus the gate's offset (R19), as the cluster
controller fixed it (R20). -/
def State.tileGate (s : State) (t g : Nat) : Nat :=
  match s.findStarted (clusterOf t) (s.tile t).seg (s.tile t).count with
  | some r => r.gates.getD g 0
  | none => 0

/-- A beat has begun (R36: passed from its first instant). -/
def State.gateOpen (s : State) (gb : Nat) : Bool := !s.tm.pre && decide (gb ≤ s.beat.toNat)

/-- A gate beat has begun as the controller of a cluster holds the beat (R22, R24). Number 64 stands for Ermond and the chip Goose, which
never lag. -/
def State.gateOpenAt (s : State) (c gb : Nat) : Bool := !s.tm.pre && decide (gb + s.skew c ≤ s.beat.toNat)

/-- Lateness of an action that begins now at a gate of beat gb, measured in cluster c (R30). -/
def State.lateness (s : State) (c gb : Nat) : Nat := s.beatAt c - gb

/-- Place, counted from 1, of the note that brought a tally or an output up to what an instruction needs, after the gate beat; 0 where none
did. -/
def metAt (ns : List FireNote) (gb code site need : Nat) : Nat :=
  match (ns.zipIdx).find? (fun n => decide (n.1.code = code) && decide (n.1.site = site) && decide (n.1.before < need) &&
      decide (need ≤ n.1.after) && decide (gb < n.1.beat)) with
  | some n => n.2 + 1
  | none => 0

/-- COND of a SEGMENT_START gate (R31): of the waits and the credits of the first instruction, the one that became true last after the gate
beat, 0 tally, 1 credits, the lower code of two at once; 3 where the lateness is 0, where the Kettle's stagger or a narrow port held the instruction
after all of them, or where all of them were met and the replay itself started after its gate beat. (DEDUCED, assumption 91) -/
def condOf (late gb : Nat) (h : Option Hold) (ns : List FireNote) (ws cs : List (Nat × Nat)) : Nat :=
  if late = 0 then 3 else match h with
  | some .kettle => 3
  | some .narrow => 3
  | _ =>
    let tally := (ws.map (fun w => metAt ns gb 0 w.1 w.2)).foldl max 0
    let credit := (cs.map (fun w => metAt ns gb 1 w.1 w.2)).foldl max 0
    if tally = 0 ∧ credit = 0 then 3 else if tally < credit then 1 else 0

/-- The registers of one Goose at register base `a`: MAXLATE and the WORST group take a larger lateness only. `loc` is the
WORST_LOC value, `beat` that of the crossing. -/
def State.gooseMax (s : State) (a late seg gate loc beat : Nat) : State :=
  let l := min late 0xFFFFFF
  if s.fld (a + 0xC) 0 24 < l then
    (((s.setFld (a + 0xC) 0 24 l).setReg (a + 0x14) (BitVec.ofNat 32 (seg * 2 ^ 16 + gate))).setReg (a + 0x18)
      (BitVec.ofNat 32 loc)).setReg (a + 0x1C) (BitVec.ofNat 32 beat)
  else s

/-- DETAIL of a GOOSE_WARN or GOOSE_ALARM entry (R292). -/
def gooseDetail (seg : BitVec 16) (count : BitVec 64) (gate late cond kind num port tile : Nat) : Nat :=
  seg.toNat + count.toNat % 2 ^ 32 * 2 ^ 16 + gate * 2 ^ 48 + min late 0xFFFFFF * 2 ^ 64 + cond * 2 ^ 88 + kind * 2 ^ 90 +
    num * 2 ^ 92 + port * 2 ^ 98 + tile * 2 ^ 104

def State.setStarted (s : State) (c : Nat) (r : Started) : State :=
  s.modCluster c (fun x => { x with started := x.started.map (fun q => if q.seg = r.seg ∧ q.count = r.count then r else q) })

/-- The record of a replay's lateness in a cluster: nothing late yet where there is none. -/
def State.goosemark (s : State) (c : Nat) (seg : BitVec 16) (count : BitVec 64) : GooseMark :=
  ((s.cluster c).marks.find? (fun r => r.seg = seg ∧ r.count = count)).getD
    { seg := seg, count := count, late := 0, warned := false, alarmed := false }

def State.setMark (s : State) (c : Nat) (r : GooseMark) : State :=
  s.modCluster c (fun x => { x with marks := x.marks.filter (fun q => !(q.seg = r.seg && q.count = r.count)) ++ [r] })

/-! ## Ordered replays (R289) -/

/-- The run that a replay belongs to, and its number k. -/
def State.findReplay (s : State) (seg : BitVec 16) (count : BitVec 64) : Option (ReplayRun × Nat) :=
  match s.replays.find? (fun q => q.seg = seg ∧ q.first ≤ count.toNat ∧ count.toNat < q.first + q.n) with
  | some q => some (q, count.toNat - q.first)
  | none => none

/-- Base beat of replay k of a run. -/
def ReplayRun.baseOf (q : ReplayRun) (k : Nat) : Beat := BitVec.ofNat 48 (q.base + k * q.period)

def ReplayRun.liveOf (q : ReplayRun) (k : Nat) : LiveReplay :=
  (q.live.find? (fun l => l.k = k)).getD { k := k, late := 0, left := q.tiles, ordered := [] }

def State.setRun (s : State) (q : ReplayRun) : State :=
  { s with replays := s.replays.map (fun r => if r.seg = q.seg ∧ r.first = q.first then q else r) }

def ReplayRun.setLive (q : ReplayRun) (l : LiveReplay) : ReplayRun :=
  { q with live := q.live.filter (fun r => r.k ≠ l.k) ++ [l] }

/-- Changes the record of one replay, made at its first order or start. -/
def State.modLive (s : State) (seg : BitVec 16) (count : BitVec 64) (f : LiveReplay → LiveReplay) : State :=
  match s.findReplay seg count with
  | none => s
  | some (q, k) => s.setRun (q.setLive (f (q.liveOf k)))

/-- Raises the lateness kept for a replay over the whole chip (R404). -/
def State.noteReplayLate (s : State) (seg : BitVec 16) (count : BitVec 64) (late : Nat) : State :=
  s.modLive seg count (fun l => { l with late := max l.late late })

/-- Ports that the chip Goose measures (R403). -/
def chipPort : OwnPort → Bool
  | .hostLadle _ | .lpx _ | .sieve | .novbo _ => true
  | _ => false

/-- A port has passed the last window of a replay: it has had the order and neither serves nor holds it. -/
def State.portPassed (s : State) (p : OwnPort) (seg : BitVec 16) (count : BitVec 64) (l : LiveReplay) : Bool :=
  let o := s.port p
  let is (r : ReplayRec) : Bool := r.seg = seg ∧ r.count = count
  l.ordered.contains (ownKey p) && !o.later.any is && !(o.st ≠ .done && o.cur.any is)

/-- MGT_GOO_LASTLATE is written, and the record of the replay dropped, once its last tile has ended it and its last window has
passed at every port the chip Goose measures (R404). A run whose replays are all over goes. -/
def State.settleReplay (s : State) (seg : BitVec 16) (count : BitVec 64) : State :=
  match s.findReplay seg count, s.findSeg seg with
  | some (q, k), some g =>
    let l := q.liveOf k
    let ports := (g.own.filter (fun w => chipPort w.1 && w.2 ≠ [])).map (fun w => w.1)
    if q.live.any (fun r => r.k = k) ∧ l.left = [] ∧ ports.all (fun p => s.portPassed p seg count l) then
      let s1 := s.setFld (mgtReg 0x8010) 0 24 (min l.late 0xFFFFFF)
      let q1 : ReplayRun := { q with live := q.live.filter (fun r => r.k ≠ k) }
      if q1.live = [] ∧ (q.stopped ∨ k + 1 = q.n) then
        { s1 with replays := s1.replays.filter (fun r => !(r.seg = q.seg && r.first = q.first)) }
      else s1.setRun q1
    else s
  | _, _ => s

/-- A cluster Goose measures a gate: `port` 0 for a tile's SEGMENT_START, 1 to 6 for a router port; `beat` is the beat, as the cluster's controller
holds it, of the crossing (R30 to R34). A cluster that only carries a replay's traffic measures it too. -/
def State.gooseCluster (s : State) (c tile port : Nat) (seg : BitVec 16) (count : BitVec 64) (gate late cond beat : Nat) : State :=
  let a := gooReg c 0
  if s.fld a 31 1 = 0 then s
  else
    let sl := s.slackOf seg
    let m := s.fld a 8 4
    let s1 := s.gooseMax a late seg.toNat gate (cond * 2 ^ 16 + port * 2 ^ 12 + tile) beat
    let s2 := s1.gooseMax (mgtReg 0x8000) late seg.toNat gate (cond * 2 ^ 16 + port * 2 ^ 12 + c * 64 + localIdx tile) beat
    if late = 0 then s2
    else
      let r := s2.goosemark c seg count
      let warn := decide (sl < late)
      let alarm := decide (m * sl < late)
      let s3 := s2.setMark c { r with late := max r.late late, warned := r.warned || warn, alarmed := r.alarmed || alarm }
      let s4 := if warn then
          ((s3.setBit (a + 4) 0).bump (a + 0x20) 1).setBit (mgtReg (0x8028 + 4 * (c / 32))) (c % 32)
        else s3
      let s5 := if alarm then
          { (s4.setBit (a + 4) 1).bump (a + 0x24) 1 with alarmMap := if s4.alarmMap.contains c then s4.alarmMap else c :: s4.alarmMap }
        else s4
      let ev := s.fld a 30 1 = 1
      let d := gooseDetail seg count gate late cond 0 c port tile
      let s6 := if warn && !r.warned && ev then s5.raiseAt beat 2 d else s5
      if alarm && !r.alarmed && ev then s6.raiseAt beat 3 d else s6

/-- The chip Goose measures a window of Novbo port or uncore intake number `num` (R403). -/
def State.gooseChip (s : State) (p : OwnPort) (num : Nat) (seg : BitVec 16) (count : BitVec 64) (gate late cond : Nat) : State :=
  let a := mgtReg 0x8000
  if s.fld a 31 1 = 0 then s
  else
    let sl := s.slackOf seg
    let m := s.fld a 8 4
    let s1 := (s.gooseMax a late seg.toNat gate (cond * 2 ^ 16 + 2 ^ 15 + num) s.beat.toNat).noteReplayLate seg count late
    let r := s1.port p
    let warn := decide (sl < late)
    let alarm := decide (m * sl < late)
    let s2 := s1.setPort p { r with warned := r.warned || warn, alarmed := r.alarmed || alarm }
    let s3 := if warn then (s2.setBit (a + 4) 0).bump (a + 0x20) 1 else s2
    let s4 := if alarm then (s3.setBit (a + 4) 1).bump (a + 0x24) 1 else s3
    let ev := s.fld a 30 1 = 1
    let d := gooseDetail seg count gate late cond 1 num 0 0
    let s5 := if warn && !r.warned && ev then s4.raise 2 d else s4
    if alarm && !r.alarmed && ev then s5.raise 3 d else s5

end Sys2Proof.Machine
end

