-- ==== Sys2Proof/Machine/Domains.lean ====
section
/-!
DEFINITION. Reset domains as other units see them (R340, R344), and what a halted tile means to the serving engine (R306).
-/

namespace Sys2Proof.Machine

open Sys2Proof

def State.setDomain (s : State) (kind index : Nat) (x : DomSt) : State :=
  { s with boot := { s.boot with doms := if x = .run then smDel s.boot.doms (domKey kind index) else smSet s.boot.doms (domKey kind index) x } }

/-- A domain exists on this module (R4, R340). -/
def State.domainPresent (s : State) (kind index : Nat) : Bool :=
  if kind = 1 ∨ kind = 2 then decide (index < s.nClusters)
  else if kind = 3 then decide (index < s.nPorts)
  else if kind = 4 then s.full && decide (index < 32)
  else if kind = 5 then s.full && index = 0
  else if kind = 6 then decide (index < 2)
  else kind = 7 && index = 0

/-- Tiles that a flow descriptor reaches (R72): one, a row span, a column span; a KIND 3 packet reaches none. -/
def descReaches (d : FlowDesc) (c : Nat) : Bool :=
  if d.kind = 3 then false
  else if d.kind = 0 then clusterOf d.dest.toNat = c
  else (fromTo 0 64).any (fun i =>
    let t := if d.kind = 1 then d.dest.toNat / 64 * 64 + i else i * 64 + d.dest.toNat % 64
    decide (d.dest.toNat ≤ t) && decide (t ≤ d.spanEnd.toNat) && clusterOf t = c)

/-- Flow descriptors of a segment, over the tiles that run it. -/
def State.segDescs (s : State) (g : Segment) : List FlowDesc :=
  g.tiles.flatMap (fun t => match (s.tile t).slots[g.slot.toNat]'g.slot.isLt with
    | some i => i.descs.map (fun d => d.2)
    | none => [])

/-- Bytes of device memory that one side of a transfer covers. -/
def spanBytes (d : LDesc) (fix : Bool) : Nat := if fix then 64 else 64 * d.len

/-- A transfer touches channel c of LPDDR6. -/
def onChannel (c : Nat) (d : LDesc) : Bool :=
  let side (kind a : Nat) (fix : Bool) : Bool :=
    kind = 0 && decide (lpxBase ≤ a) && (fromTo 0 (min 16 (spanBytes d fix / 256 + 2))).any (fun i =>
      decide (256 * (a / 256 + i) < a + spanBytes d fix) && lpChan (256 * (a / 256 + i)) = c)
  side d.skind d.src d.sfix || side d.dkind d.dst d.dfix

/-- A transfer of cluster Ladle l, or of another, addresses vault v or its Skillet. -/
def onVault (v : Nat) (d : LDesc) : Bool :=
  (d.skind = 0 && d.src / vaultSize = v) || (d.dkind = 0 && d.dst / vaultSize = v) || d.dkind = 4

/-- A flow of a segment: one of its windows or of its descriptors. -/
def State.segFlow (s : State) (g : Segment) (flow : Nat) : Bool :=
  g.own.any (fun w => w.2.any (fun e => e.flow.toNat = flow)) || (s.segDescs g).any (fun d => d.flow.toNat = flow)

/-- Transfers of plans that stand in the Ladles' channels, each with its Ladle. -/
def State.planTransfers (s : State) : List (Nat × LDesc) :=
  s.ladles.flatMap (fun l => l.2.ch.flatMap (fun c => (c.2.slots.filter (fun w => w.2.isNone)).map (fun w => (l.1, w.1))))

/-- Those of a segment: of one of its flows, or, where no flow moves on the mesh or into an intake, of the Ladle of a cluster that runs it.
(DEDUCED, assumption 78) -/
def State.segTransfers (s : State) (g : Segment) : List (Nat × LDesc) :=
  s.planTransfers.filter (fun w => s.segFlow g w.2.flow || (w.2.skind = 0 && w.2.dkind = 0 && g.tiles.any (fun t => clusterOf t = w.1)))

/-- A segment names a domain (R344). The Ladle transfers of a plan are those that stand in the channels and those that its intake ownership lists
carry; whatever sends them, its flows reach the tiles at whose local outputs they own windows. A cluster's domain holds its vault (R340). Windows of an
LPX intake whose transfer has not started name every channel of the half. (DEDUCED, assumption 78) -/
def State.segNames (s : State) (g : Segment) (kind index : Nat) : Bool :=
  let has (p : OwnPort) : Bool := g.own.any (fun w => w.1 = p && w.2 ≠ [])
  let trs := s.segTransfers g
  let vault : Bool := (s.segDescs g).any (fun d => d.kind = 3 && d.unit = 0 && d.vault.toNat = index) ||
    has (.skillet (BitVec.ofNat 6 index)) || has (.ladle (BitVec.ofNat 6 index)) ||
    trs.any (fun w => onVault index w.2 && (w.2.dkind ≠ 4 || w.1 = index))
  if kind = 1 then
    vault || (s.segDescs g).any (fun d => descReaches d index) ||
      g.ingress.any (fun w => w.2.any (fun e => e.kind = 0 && clusterOf e.dest = index)) ||
      g.own.any (fun w => match w.1 with
        | .router t .loc => clusterOf t.toNat = index && decide (w.2 ≠ [])
        | _ => false)
  else if kind = 2 then vault
  else if kind = 3 then
    (has (.novbo (BitVec.ofNat 5 index)) || g.ingress.any (fun w => w.1 = index && w.2 ≠ [])) &&
      !(s.nports.any (fun p => p.2.adopting &&
          (s.fld (nbpReg p.1 4) 20 5 = index) && (s.fld (nbpReg index 4) 20 5 = p.1)))
  else if kind = 4 then
    trs.any (fun w => onChannel index w.2) ||
      g.own.any (fun w => w.1 = .lpx (BitVec.ofNat 1 (index / 16)) && w.2.any (fun e => !trs.any (fun x => x.2.flow = e.flow.toNat)))
  else if kind = 5 then fieldOf g.units.toNat 1 1 = 1
  else if kind = 6 then has (.hostLadle (BitVec.ofNat 1 index)) || trs.any (fun w => w.1 = 64 + index)
  else false

/-- TIL_HALT_INFO of a PEER_RESET. -/
def peerInfo (kind index : Nat) : Nat := kind * 2 ^ 12 + index

/-- The first domain out of RUN that a tile's segment names, the tile's own cluster apart: a replay that starts then halts (R344). -/
def State.peerDown (s : State) (t : Nat) (seg : BitVec 16) : Option (Nat × Nat) :=
  match s.findSeg seg with
  | none => none
  | some g => (s.boot.doms.find? (fun d =>
      !(d.1 / 256 = 1 && d.1 % 256 = clusterOf t) && s.segNames g (d.1 / 256) (d.1 % 256))).map
        (fun d => (d.1 / 256, d.1 % 256))

/-! ## Serving -/

def State.serving (s : State) (m : Nat) : Serving := smGet s.srv.models m Serving.reset
def State.setServing (s : State) (m : Nat) (x : Serving) : State := { s with srv := { s.srv with models := smSet s.srv.models m x } }

/-- The step of a model is abandoned: nothing is committed, serving is STALLED (R306). (DEDUCED, assumption 68) -/
def State.stepFailed (s : State) (m : Nat) : State :=
  let x := s.serving m
  match x.step with
  | none => s
  | some r =>
    let s1 := (s.setServing m { x with step := none, stalled := true }).raise 0x106 (m + r.num % 2 ^ 32 * 2 ^ 32)
    { s1 with srv := { s1.srv with
        rows := s1.srv.rows.filter (fun w => w.model ≠ m)
        part := if s1.srv.part.any (fun w => w.model = m) then none else s1.srv.part } }

/-- A tile halts: every model whose step runs on it loses that step. -/
def State.serveHalted (s : State) (t : Nat) : State :=
  (fromTo 0 8).foldl (fun q m =>
    match (q.serving m).step with
    | some r => match q.findSeg (BitVec.ofNat 16 r.seg) with
      | some g => if g.tiles.contains t then q.stepFailed m else q
      | none => q
    | none => q) s

end Sys2Proof.Machine
end

