-- ==== Sys2Proof/Machine/Kettle.lean ====
section
/-!
DEFINITION. The Kettle's sums: weights, demand, ballast, and the start and end of heavy work (R263 to R271).
-/

namespace Sys2Proof.Machine

open Sys2Proof

/-- Units of the Kettle: tile t's tensor engine, Skillet v, LPDDR6 channel c. -/
def teUnit (t : Nat) : Nat := t
def sklUnit (v : Nat) : Nat := 4096 + v
def lpUnit (c : Nat) : Nat := 4160 + c

/-- Cluster whose region clocks a unit; 64 for the LPDDR6 channels, at the uncore point. -/
def unitCluster (u : Nat) : Nat := if u < 4096 then clusterOf u else if u < 4160 then u - 4096 else 64

def State.point (s : State) (r : Nat) : Nat := smGet s.points r 2

/-- Weights in units of 0.1 mW at a ladder point (R265). -/
def teWeight (p : Nat) : Nat := if p = 0 then 1800 else if p = 1 then 2300 else if p = 2 then 2880 else if p = 3 then 3170 else 3500
def sklWeight (p : Nat) : Nat :=
  if p = 0 then 10840 else if p = 1 then 13870 else if p = 2 then 17340 else if p = 3 then 19070 else 21070
def lpWeight : Nat := 29500

def State.unitWeight (s : State) (u : Nat) : Nat :=
  if u < 4096 then teWeight (s.point (unitCluster u))
  else if u < 4160 then sklWeight (s.point (unitCluster u))
  else lpWeight

def State.weightSum (s : State) (us : List Nat) : Nat := us.foldl (fun a u => a + s.unitWeight u) 0

/-- D of R266: the weights of the units doing plan work, and of those whose held start has been granted. -/
def State.demand (s : State) : Nat :=
  s.weightSum (s.power.active ++ s.power.granted.filter (fun u => !s.power.active.contains u))

/-- LCAP of R266: the weights of every present unit at its current point. -/
def State.lcap (s : State) : Nat :=
  let regions := fromTo 0 s.nClusters
  let te := regions.foldl (fun a c => a + 64 * teWeight (s.point c)) 0
  if s.full then te + regions.foldl (fun a c => a + sklWeight (s.point c)) 0 + 32 * lpWeight else te

/-- Units that may run ballast, in the order of R270: tensor engines by cluster and local index, then Skillets; none in a
region without ADPLL lock (R269). -/
def State.ballastOrder (s : State) : List Nat :=
  let cs := (fromTo 0 s.nClusters).filter (fun c => !s.unlocked.contains c)
  (cs.flatMap (fun c => (fromTo 0 64).map (fun l => tileAt c l))) ++ (if s.full then cs.map sklUnit else [])

/-- Ballast placed on free units until the next unit no longer fits in what is left of L − D. -/
def placeBallast (s : State) : List Nat → Nat → List Nat
  | [], _ => []
  | u :: r, left =>
    if left < 1800 then []
    else if s.power.active.contains u then placeBallast s r left
    else if s.unitWeight u ≤ left then u :: placeBallast s r (left - s.unitWeight u)
    else placeBallast s r left

/-- Ballast is placed or removed so that B = L − D within one unit's weight (R266). -/
def State.rebalance (s : State) : State :=
  let left := s.power.level - s.demand
  if left < 1800 then { s with power := { s.power with ballast := [] } }
  else { s with power := { s.power with ballast := placeBallast s s.ballastOrder left } }

/-- A start of unit u's heavy work proceeds if D + w ≤ L; a unit already active adds nothing (R266). -/
def State.startFits (s : State) (u : Nat) : Bool :=
  s.power.active.contains u || s.power.granted.contains u || decide (s.demand + s.unitWeight u ≤ s.power.level)

/-- Place of a unit in the rotation that begins after cluster `last`: clusters in turn, then the LPDDR6 channels; within a cluster
tiles by local index, then the Skillet (R267). -/
def heldKey (last u : Nat) : Nat :=
  (unitCluster u + 65 - (last + 1)) % 65 * 128 + (if u < 4096 then localIdx u else if u < 4160 then 64 else u - 4160)

/-- A held start still stands: the tile runs with the TMMA at its head, the Skillet's intake holds an item and its vault serves, the channel is
in service (R267). -/
def State.liveStart (s : State) (u : Nat) : Bool :=
  if s.unlocked.contains (unitCluster u) then false
  else if u < 4096 then
    (s.tile u).st = .running && (match ((s.tile u).eng .te).head with
      | some h => decide (h.hold = .kettle)
      | none => false)
  else if u < 4160 then
    let v := u - 4096
    (s.vault v).trained && !(s.vault v).selfref && !(s.cluster v).isolated &&
      decide (smGet s.intakeQ (ownKey (.skillet (BitVec.ofNat 6 v))) [] ≠ [])
  else (s.lpch (u - 4160)).st = .up

/-- The held start that comes first in the rotation among those that fit in L (R267). -/
def State.nextHeld (s : State) : Option Nat :=
  let ok := s.power.held.filter (fun u => s.liveStart u && s.startFits u)
  ok.foldl (fun b u => match b with
    | none => some u
    | some v => if heldKey s.power.lastCluster u < heldKey s.power.lastCluster v then some u else some v) none

/-- A start of unit u proceeds now: its region has lock, and it adds nothing, or has been granted, or fits in L and no held start that fits comes before it in the
rotation (R266, R267). -/
def State.mayStart (s : State) (u : Nat) : Bool :=
  !s.unlocked.contains (unitCluster u) && (s.power.active.contains u || s.power.granted.contains u ||
    (s.startFits u && (match s.nextHeld with
      | none => true
      | some v => v = u || decide (heldKey s.power.lastCluster u < heldKey s.power.lastCluster v))))

/-- The start proceeds: the unit counts in D, ballast yields to it; where it was held, the rotation goes on after its cluster (R267). -/
def State.startUnit (s : State) (u : Nat) : State :=
  let p := s.power
  let q : PowerState := { p with
    held := p.held.erase u, granted := p.granted.erase u
    lastCluster := if p.held.contains u then unitCluster u else p.lastCluster }
  if p.active.contains u then { s with power := q }
  else (({ s with power := { q with active := u :: p.active } } : State)).rebalance

/-- The start is held (R266, R267): noted for this beat, and counted in its cluster. -/
def State.holdUnit (s : State) (u : Nat) : State :=
  let p := s.power
  let s1 : State := { s with power := { p with
    held := if p.held.contains u then p.held else p.held ++ [u]
    noted := if p.noted.contains u then p.noted else u :: p.noted
    heldThisBeat := true } }
  if unitCluster u < 64 then s1.bump (ktlReg (unitCluster u) 4) 1 else s1

def State.stopUnit (s : State) (u : Nat) : State :=
  (({ s with power := { s.power with active := s.power.active.erase u } } : State)).rebalance

/-! ## Budgets (R261 to R264) -/

/-- The entry of a cluster's record that governs gate g: the one with the largest GATE not above g; none: every limit is 0. -/
def governing (es : List BudgetEntry) (g : Nat) : Option BudgetEntry :=
  es.foldl (fun best e => if e.gate ≤ g then (match best with
    | some b => if b.gate ≤ e.gate then some e else best
    | none => some e) else best) none

def State.budgetOf (s : State) (seg : BitVec 16) (c g : Nat) : BudgetEntry :=
  match s.segs.find? (fun q => q.id = seg) with
  | none => ⟨0, 0, 0, false⟩
  | some q => match q.budgets.find? (fun r => r.1 = c) with
    | none => ⟨0, 0, 0, false⟩
    | some r => (governing r.2 g).getD ⟨0, 0, 0, false⟩

/-- Records a budget halt or refusal: KIND 0 TMMA, 1 NSEND, 2 Skillet item (R264). -/
def State.noteBudget (s : State) (c kind gate tile : Nat) : State :=
  (s.setReg (ktlReg c 8) (BitVec.ofNat 32 (2 ^ 31 + kind * 2 ^ 29 + gate * 2 ^ 16 + tile))).bump (ktlReg c 0xC) 1

/-- Members of the windows of a replay in a cluster, each with its gate: kept until the replay ends there (R264). -/
def State.members (s : State) (c : Nat) (seg : BitVec 16) (count : BitVec 64) : List (Nat × Nat) :=
  match s.findStarted c seg count with
  | some r => r.members
  | none => []

/-- A tensor engine joins the window of a gate, once in a replay (R264). -/
def State.joinWindow (s : State) (t g : Nat) : State :=
  let x := s.tile t
  match s.findStarted (clusterOf t) x.seg x.count with
  | some r => if r.members.contains (t, g) then s else s.setStarted (clusterOf t) { r with members := (t, g) :: r.members }
  | none => s

end Sys2Proof.Machine
end

