-- ==== Sys2Proof/Machine/Operands.lean ====
section
/-!
DEFINITION. Operand forms of the engines (R59 to R65), range checks (R110), tile SRAM reads with correction (R119, R120),
and the firing rule (R22): one operation that every instruction goes through.
-/

namespace Sys2Proof.Machine

open Sys2Proof

/-! ## Operand values -/

/-- Effective address of a memory operand: (a[AREG] + 32 × OFF) mod 2^32 (R63). -/
def EngineState.mref (y : EngineState) (m : MRef) : Nat := ((y.areg m.areg).toNat + 32 * m.off.toNat) % 2 ^ 32
def EngineState.tref (y : EngineState) (m : TRef) : Nat := ((y.areg m.areg).toNat + 32 * m.off.toNat) % 2 ^ 32

/-- A scalar data address: GA + IMM, sign-extended, wrapping (R65). -/
def scalarAddr (ga : Word) (imm : BitVec 24) : Nat := (ga + imm.signExtend 32).toNat

/-- DETAIL of BOUND: memory, task, offset (03). -/
def boundInfo (mem task off : Nat) : Nat := mem * 2 ^ 30 + task * 2 ^ 28 + off % 2 ^ 18

/-- The first byte of [off, off + n) outside a window of `size` bytes: none if all lie inside (R110). -/
def firstOutside (size off n : Nat) : Option Nat :=
  if n = 0 then none
  else if off + n ≤ size then none
  else if off < size then some size
  else some off

/-- BOUND check of an instruction's operand ranges (memory, task offset, bytes): WM first, then AM, PM, scalar data (R110). -/
def State.boundCheck (s : State) (t task : Nat) (rs : List (Nat × Nat × Nat)) : Option Nat :=
  (fromTo 0 4).findSome? (fun m =>
    (rs.filter (fun r => r.1 = m)).findSome? (fun r =>
      (firstOutside (s.taskWin t task m).2 r.2.1 r.2.2).map (boundInfo m task)))

/-- Bank mask of the words of [off, off + n) of a task window (R108). -/
def bankMask (mem off n : Nat) : Nat :=
  if n = 0 then 0
  else (fromTo (off / 32) ((off + n - 1) / 32 + 1 - off / 32)).foldl (fun a w => a ||| 2 ^ (w % memBanks mem)) 0

def wideOf (rs : List (Nat × Nat × Nat)) : List (Nat × Nat) :=
  (rs.filter (fun r => r.1 < 3)).map (fun r => (r.1, bankMask r.1 r.2.1 r.2.2))

/-! ## Tile SRAM with error correction (R119, R120) -/

/-- Requests leave a tile's narrow queues: the next one of a source at a memory is at the head from this beat on (R117). -/
def TileState.keepNarrow (x : TileState) (beat : Nat) (rest : List NarrowReq) : TileState :=
  let headOf (l : List NarrowReq) (r : NarrowReq) : Option NarrowReq := l.find? (fun q => q.src = r.src && q.mem = r.mem)
  { x with narrow := rest.map (fun r =>
      if headOf rest r = some r ∧ headOf x.narrow r ≠ some r then { r with since := beat } else r) }

/-- The head request of a source at a memory. -/
def narrowHead (x : TileState) (mem src : Nat) : Option NarrowReq := x.narrow.find? (fun r => r.mem = mem && r.src = src)

/-- The head requests of a memory that wait for a grant, in the order of their sources (R116). -/
def narrowHeads (x : TileState) (mem : Nat) : List NarrowReq :=
  (fromTo 0 3).filterMap (fun src => (narrowHead x mem src).filter (fun r => !r.granted))

/-- A request of a source that is made now is granted at once: no request of its own or of a higher source waits at the memory, and none is urgent
(R116, R117). -/
def narrowFree (x : TileState) (mem src : Nat) : Bool :=
  (narrowHeads x mem).all (fun r => decide (src < r.src) && !r.urgent)

/-- A correction: counted, recorded, and a write-back of the word queued. -/
def State.corrected (s : State) (t mem off : Nat) (scrub : Bool) : State :=
  let s1 := s.bumpF (tilReg t 0x240) 0 16 1
  let s2 := s1.setReg (tilReg t 0x244) (BitVec.ofNat 32 (2 ^ 31 + bit scrub * 2 ^ 30 + mem * 2 ^ 26 + off % 2 ^ 18))
  (s2.modTile t (fun x => { x with narrow := x.narrow ++ [⟨2, mem, off, s.beatAt (clusterOf t), false, false, true, none, none, 0⟩] })).health
    (partCluster (clusterOf t)) 0

/-- A read of n bytes at a physical offset: corrections happen, and the physical offset of the first uncorrectable word
is answered. -/
def State.eccRead (s : State) (t mem off n : Nat) (scrub : Bool) : State × Option Nat :=
  let base := tmAddr t mem 0 / 32
  let hits := s.wordErr.filter (fun p => decide (base + off / 32 ≤ p.1) && decide (p.1 * 32 < base * 32 + off + n))
  (hits.foldl (fun q p => if p.2 then q else q.corrected t mem ((p.1 - base) * 32) scrub) s,
   (hits.find? (fun p => p.2)).map (fun p => (p.1 - base) * 32))

/-- Uncorrectable word: DETAIL of ECC_UNCORRECTABLE. -/
def eccInfo (mem off : Nat) : Nat := mem * 2 ^ 28 + off % 2 ^ 18

/-- A store of bytes at a physical offset of a tile memory. Write-backs of the words it touches are dropped, and a
correctable mark on them is gone: the newer write carries valid check symbols (R119). A 4-byte SW into a word of scalar data memory counts no
correction of it. (DESIGN CHOICE, assumption 26) -/
def State.tmStore (s : State) (t mem off : Nat) (bs : List Byte) : State :=
  let base := tmAddr t mem 0 / 32
  let touched (w : Nat) : Bool := decide (off < (w + 1) * 32) && decide (w * 32 < off + bs.length)
  let s1 := s.tmWrite (tmAddr t mem off) bs
  let s2 : State := { s1 with wordErr := s1.wordErr.filter (fun p =>
    !(decide (base ≤ p.1) && decide (p.1 - base < 4096) && touched (p.1 - base) && !p.2)) }
  s2.modTile t (fun x => x.keepNarrow (s.beatAt (clusterOf t)) (x.narrow.filter (fun r => !(r.writeback && r.mem = mem && touched (r.off / 32)))))

/-- A word written as poison: every later read finds it uncorrectable (R133). (DESIGN CHOICE, assumption 26) -/
def State.tmPoison (s : State) (t mem off : Nat) : State :=
  { s with wordErr := smSet s.wordErr ((tmAddr t mem off) / 32) true }

/-- Unspecified bytes in a range of a tile memory. (DESIGN CHOICE, assumptions 8 and 16) -/
def State.tmFree (s : State) (t mem off n : Nat) : State :=
  { s.tmStore t mem off ((fromTo 0 n).map (Config.undefByte s.freeCtr)) with freeCtr := s.freeCtr + 1 }

/-- A vector register that a load did not fill holds unspecified lanes. (DESIGN CHOICE, assumption 18) -/
def State.vregFree (s : State) (t v : Nat) : State :=
  let u := Vector.ofFn (fun (i : Fin 64) => BitVec.ofNat 32 (leNat ((fromTo (4 * i.val) 4).map (Config.undefByte s.freeCtr))))
  { s.modTile t (fun x => { x with v := x.v.setIfInBounds v u }) with freeCtr := s.freeCtr + 1 }

/-- The data flits, not yet gone from the local input of the router, of the PLAN packet that has `after` packets behind it there hold unspecified
bits. (DESIGN CHOICE, assumption 18) -/
def State.sentFree (s : State) (t after : Nat) : State :=
  let r := s.router t
  let key := 4 * rportCode .loc
  let q := smGet r.q key []
  let mine (i : Nat) (f : Flit) : Bool := !f.head && decide (((q.drop i).filter (fun g => g.head)).length = after)
  let q1 := (q.zipIdx).map (fun f => if mine f.2 f.1 then { f.1 with bits := BitVec.ofNat 256 (leNat ((fromTo (32 * f.2) 32).map (Config.undefByte s.freeCtr))) } else f.1)
  { s.setRouter t { r with q := if q = [] then r.q else smSet r.q key q1 } with freeCtr := s.freeCtr + 1 }

/-- What an instruction was to write holds unspecified values: it was cut off among its accesses (R51, R98, R114). -/
def State.freeDest (s : State) (t : Nat) (dest : List (Nat × Nat × Nat)) : State :=
  dest.foldl (fun q d =>
    if d.1 = 9 then q.vregFree t d.2.1 else if d.1 = 10 then q.sentFree t d.2.1 else q.tmFree t d.1 d.2.1 d.2.2) s

/-! ## Visibility of writes (R41) -/

/-- What is left of an older write once [off, off + n) of a memory is written anew. -/
def FreshWrite.without (w : FreshWrite) (mem off n : Nat) : List FreshWrite :=
  if w.mem ≠ mem then [w]
  else
    [{ w with len := min (w.off + w.len) off - w.off }, { w with off := max w.off (off + n), len := w.off + w.len - max w.off (off + n) }].filter
      (fun v => v.len ≠ 0)

/-- A write of an engine or of the receive side: no other engine is ordered after it yet. -/
def TileState.wrote (x : TileState) (writer mem off n : Nat) : TileState :=
  if n = 0 ∨ 4 ≤ mem then x
  else { x with fresh := x.fresh.flatMap (fun w => w.without mem off n) ++ [⟨mem, off, n, writer, [], []⟩] }

/-- An instruction of engine e issues after waits on tallies: e is ordered after the writes visible through them; one that every other engine is
ordered after needs no further order. -/
def TileState.ordered (x : TileState) (e : Nat) (ts : List Nat) : TileState :=
  let f (w : FreshWrite) : FreshWrite := if w.via.any ts.contains ∧ !w.seen.contains e then { w with seen := e :: w.seen } else w
  { x with fresh := (x.fresh.map f).filter (fun w => !(fromTo 0 5).all (fun g => w.writer = g || w.seen.contains g)) }

/-- A write still in the hands of an instruction that has not completed. -/
def TileState.inHand (x : TileState) (w : FreshWrite) : Bool :=
  x.engines.toList.zipIdx.any (fun y => y.2 = w.writer && y.1.inflight.any (fun i => i.dest.any (fun d =>
    d.1 = w.mem && decide (d.2.1 < w.off + w.len) && decide (w.off < d.2.1 + d.2.2))))

/-- A signal makes writes visible through its tally: those completed of which `of` holds. -/
def TileState.shown (x : TileState) (tally : Nat) (of : FreshWrite → Bool) : TileState :=
  { x with fresh := x.fresh.map (fun w => if of w ∧ !x.inHand w ∧ !w.via.contains tally then { w with via := tally :: w.via } else w) }

/-- A signal of engine e shows its own writes and those it is ordered after (R41). -/
def shownBy (e : Nat) (w : FreshWrite) : Bool := w.writer = e || w.seen.contains e

/-- Ranges that other engines or the receive side have written and that no tally has ordered engine e after, its instruction waiting on `ts`. -/
def TileState.unseen (x : TileState) (e : Nat) (ts : List Nat) : List FreshWrite :=
  x.fresh.filter (fun w => w.writer ≠ e && !w.seen.contains e && !w.via.any ts.contains)

/-- The tallies that an instruction waits on. -/
def waitTallies (k : Issue) : List Nat := ([k.wait0, k.wait1].filterMap id).map (fun w => w.tally.toNat)

/-- An engine reads n bytes at a physical offset: with correction, and with an unspecified value for each byte of a write that no tally has ordered
it after (R41, R119). The state, the bytes and the first uncorrectable word. (DESIGN CHOICE, assumption 7) -/
def State.engRead (s : State) (k : Issue) (e : Engine) (mem off n : Nat) : State × List Byte × Option Nat :=
  let t := k.tile.toNat
  let rd := s.eccRead t mem off n false
  let bs := rd.1.tmRead (tmAddr t mem off) n
  match ((s.tile t).unseen (engCode e) (waitTallies k)).filter (fun w => w.mem = mem && decide (w.off < off + n) && decide (off < w.off + w.len)) with
  | [] => (rd.1, bs, rd.2)
  | ws => ({ rd.1 with freeCtr := rd.1.freeCtr + 1 },
      (bs.zipIdx).map (fun b => if ws.any (fun w => decide (w.off ≤ off + b.2) && decide (off + b.2 < w.off + w.len)) then
        Config.undefByte rd.1.freeCtr b.2 else b.1), rd.2)

/-! ## The firing rule (R22) -/

/-- What an instruction's own work comes to once it may issue. -/
inductive Run where
  /-- it issues: the state with its effects, the banks its wide accesses use, whether it is heavy work, its next PC if not the
  following word -/
  | done (s : State) (wide : List (Nat × Nat)) (heavy : Bool) (pc : Option Nat)
  /-- it issues and writes bytes of a tile memory (memory, physical offset, bytes) -/
  | store (s : State) (mem off : Nat) (bytes : List Byte) (wide : List (Nat × Nat)) (heavy : Bool)
  /-- it issues and fills a vector register, or sends a packet, as its accesses go on: a `dest` of InFlight -/
  | moves (s : State) (wide : List (Nat × Nat)) (dest : Nat × Nat × Nat)
  /-- conditions found at its issue: it does not issue (R51, R53) -/
  | stop (conds : List (Nat × Nat))
  /-- it issued, then met a condition: the halt names it, and it does not complete (R51) -/
  | fail (s : State) (reason info : Nat)
  /-- it issued, then another reader met the condition for it; that halt is in the state, and it does not complete (R120) -/
  | halted (s : State)
  /-- its wide accesses meet other engines' in one bank of a memory: BANK_CONFLICT (R114) -/
  | clash (cs : List (Nat × Nat × Engine))

/-- The conflicts that the environment reports, those that count: both instructions' wide accesses use that bank of that memory. (DESIGN CHOICE, assumptions 5 and 18) -/
def TileState.clashes (x : TileState) (e : Engine) (wide : List (Nat × Nat)) (c : Option Clash) : List (Nat × Nat × Engine) :=
  let uses (mem bank : Nat) (ws : List (Nat × Nat)) : Bool := ws.any (fun w => w.1 = mem && w.2.testBit bank)
  (c.toList.flatMap (fun c => ((c.mem, c.bank, c.other) :: c.more).map (fun w => (w.1.toNat, w.2.1.toNat, w.2.2)))).filter (fun w =>
    engCode w.2.2 ≠ engCode e && uses w.1 w.2.1 wide && (x.eng w.2.2).inflight.any (fun f => uses w.1 w.2.1 f.wide))

/-- The oldest outstanding instruction of an engine whose wide accesses use a bank of a memory loses the access: it neither completes nor
signals, its unit ends its heavy work where no other is outstanding, and what it was writing, loading or sending holds unspecified values (R51, R114,
R117). Its PC comes with the state. (DESIGN CHOICE, assumption 18) -/
def State.cutOff (s : State) (t : Nat) (e : Engine) (mem bank : Nat) : State × Option Nat :=
  let uses (f : InFlight) : Bool := f.wide.any (fun w => w.1 = mem && w.2.testBit bank)
  let y := (s.tile t).eng e
  match y.inflight.find? uses with
  | none => (s, none)
  | some f =>
    let rest := y.inflight.eraseP uses
    let s1 := s.modTile t (fun x => x.setEng e { x.eng e with inflight := rest })
    let s2 := if f.heavy ∧ !rest.any (fun g => g.heavy) then s1.stopUnit (teUnit t) else s1
    let after := (rest.drop (y.inflight.findIdx uses)).filter (fun g => g.dest.any (fun d => d.1 = 10))
    (s2.freeDest t (f.dest.map (fun d => if d.1 = 10 then (10, after.length, 0) else d)), some f.pc)

/-- BANK_CONFLICT (R114): no instruction that takes part completes or signals; the record names the lowest memory in which the instruction conflicts,
its lowest conflicting bank, the lower engine code there, and the higher one in bits 23:21; a conflict in another memory sets MORE. (DESIGN CHOICE, assumption 18) -/
def State.bankConflict (s : State) (t : Nat) (e : Engine) (pc : Nat) (cs : List (Nat × Nat × Engine)) : State :=
  let key (c : Nat × Nat × Engine) : Nat := c.1 * 2 ^ 16 + c.2.1 * 8 + engCode c.2.2
  match cs with
  | [] => s
  | c0 :: r =>
    let c := r.foldl (fun b d => if key d < key b then d else b) c0
    let cut := s.cutOff t c.2.2 c.1 c.2.1
    let lo := min (engCode e) (engCode c.2.2)
    let hi := max (engCode e) (engCode c.2.2)
    let lpc := if engCode e = lo then pc else cut.2.getD pc
    let s1 := (cs.filter (fun d => key d ≠ key c)).foldl (fun q d => (q.cutOff t d.2.2 d.1 d.2.1).1) cut.1
    let s2 := s1.halt t lo rsnBankConflict lpc (c.1 * 2 ^ 30 + c.2.1 * 2 ^ 24 + hi * 2 ^ 21)
    if cs.any (fun d => d.1 ≠ c.1) then s2.modTile t (fun x => { x with more := true }) else s2

/-- The count a wait needs, or the DETAIL of PARAM_RANGE (R60). -/
def waitNeed (x : TileState) (w : Wait) : Except Nat Nat :=
  match w.cnt with
  | .imm n => .ok n.toNat
  | .param p =>
    let v := (x.param p).toNat
    if 1 ≤ v ∧ v ≤ 65535 then .ok v else .error (p.toNat * 2 ^ 24 + v % 2 ^ 24)

/-- The waits with their counts, or the details of the PARAM entries out of range, WAIT0's first: of two it is WAIT0's that the record names,
the other sets MORE (R53 states no order between two of one reason). (DEDUCED, assumption 17) -/
def waitsNeed (x : TileState) (k : Issue) : Except (List Nat) (List (Wait × Nat)) :=
  let needs := ([k.wait0, k.wait1].filterMap id).map (fun w => (w, waitNeed x w))
  match needs.filterMap (fun p => match p.2 with | .error i => some i | .ok _ => none) with
  | i :: r => .error (i :: r)
  | [] => .ok (needs.filterMap (fun p => match p.2 with | .ok n => some (p.1, n) | .error _ => none))

/-- The first unmet wait, WAIT0 before WAIT1 (R48). -/
def unmetWait (x : TileState) (ws : List (Wait × Nat)) : Option Hold :=
  (ws.find? (fun p => decide ((x.tally p.1.tally).toNat < p.2))).map (fun p => .tally p.1.tally p.2)

/-- The takes of an instruction that issues, each subtracted in the cycle of issue (R46, R61). -/
def takeAll (x : TileState) (ws : List (Wait × Nat)) : TileState :=
  ws.foldl (fun x p => if p.1.take then x.setTally p.1.tally (x.tally p.1.tally - BitVec.ofNat 16 p.2) else x) x

/-- Credits needed at an output: output number (R48), credits held, credits needed. -/
structure CreditNeed where
  out : Nat
  have_ : Nat
  need : Nat

def unmetCredit (cs : List CreditNeed) : Option Hold :=
  (cs.find? (fun c => decide (c.have_ < c.need))).map (fun c => .credits c.out c.need)

/-- Entry PC and length of the running slot's stream of an engine. -/
def streamOf (x : TileState) (e : Engine) : Nat × Nat :=
  match x.slots[x.slot.toNat]'x.slot.isLt with
  | none => (0, 0)
  | some i => i.streams.getD (engCode e) (0, 0)

/-- An engine's program counter has left its slot's stream image without an END (R49). (DESIGN CHOICE, assumption 6) -/
def State.pcLeft (s : State) (t : Nat) (e : Engine) : Bool :=
  let x := s.tile t
  let y := x.eng e
  let st := streamOf x e
  decide (x.st = .running) && !y.ended && (decide (y.pc < st.1) || decide (st.1 + st.2 ≤ y.pc))

/-- STREAM_END_MISMATCH with segment ID 0xFFFF then (R49). -/
def State.pcCheck (s : State) (t : Nat) (e : Engine) : State :=
  if s.pcLeft t e then s.halt t (engCode e) rsnStreamEnd ((s.tile t).eng e).pc 0xFFFF else s

/-- A budget halt is recorded and counted in its cluster (R264). -/
def State.noteStop (s : State) (t : Nat) (e : Engine) (conds : List (Nat × Nat)) : State :=
  match conds.find? (fun c => c.1 = rsnPowerBudget) with
  | some c => s.noteBudget (clusterOf t) (if e = .te then 0 else 1) (fieldOf c.2 16 12) t
  | none => s

/-- The gate of an instruction: gate 0 where it names none (R19). -/
def gateNo (k : Issue) : Nat :=
  match k.gate with
  | some g => g.toNat
  | none => 0

/-- The signal of an instruction that issues alone takes effect at once. Where the tally overflows and the PC has left the stream in the same
cycle, the record is the engine's and the overflow sets MORE (R47, R49, R53). -/
def State.signalNow (s : State) (t : Nat) (e : Engine) (g : Option Signal) : State :=
  match g with
  | none => s.pcCheck t e
  | some g =>
    let s1 := ((s.pcCheck t e).modTile t (fun x => x.shown g.tally.toNat (shownBy (engCode e)))).addTally t g.tally g.inc.toNat t
    if s.pcLeft t e ∧ 0xFFFF < ((s.tile t).tally g.tally).toNat + g.inc.toNat then s1.modTile t (fun x => { x with more := true }) else s1

/-- The issue of an instruction whose own work has made q of s: the engine's PC moves, the instruction is outstanding until it
completes, a SIGNAL issued on its own with nothing before it takes effect at once, the cluster Goose measures the first issue of a
replay, and a PC that leaves the stream halts the tile (R22, R30, R41, R49). (DESIGN CHOICE, assumptions 6 and 7) -/
def State.finishIssue (s q : State) (e : Engine) (k : Issue) (alone : Bool) (wide : List (Nat × Nat)) (dest : List (Nat × Nat × Nat))
    (heavy : Bool) (pc : Option Nat) (ws cs : List (Nat × Nat)) : State :=
  let t := k.tile.toNat
  let x := s.tile t
  let y := x.eng e
  let gb := s.tileGate t 0
  let late := s.lateness (clusterOf t) gb
  let z := (q.tile t).eng e
  let now := alone && decide (z.inflight = [])
  let fl : List InFlight := if now then [] else [⟨y.pc, k.signal, wide, dest, heavy, alone⟩]
  let z1 : EngineState := { z with pc := pc.getD (y.pc + 1), head := none, inflight := z.inflight ++ fl }
  let x1 := dest.foldl (fun (w : TileState) d => w.wrote (engCode e) d.1 d.2.1 d.2.2) ((q.tile t).ordered (engCode e) (waitTallies k))
  let q1 := q.setTile t { x1.setEng e z1 with firstIssued := true, firing := [] }
  let q2 := if x.firstIssued then q1
    else q1.gooseCluster (clusterOf t) t 0 x.seg x.count 0 late (condOf late gb (y.head.map (fun h => h.hold)) x.firing ws cs) (s.beatAt (clusterOf t))
  q2.signalNow t e (if now then k.signal else none)

/-- The firing rule for one fetched instruction at the head of engine e: held by an unmet wait, missing credits, a gate that has not
begun or `hold` (Kettle stagger, narrow port), or issued through `run` (R22, R40). `alone` marks a SIGNAL issued on its own (R41). An
instruction that halts on a condition met after its issue (a bad word, a bank conflict, a checksum) has no lateness measured: R30 measures the
issue of the first instruction, and R51 lets this one not complete. (DESIGN CHOICE, assumptions 6 and 92; DEDUCED, assumptions 17 and 22) -/
def State.fire (s : State) (e : Engine) (k : Issue) (credits : List CreditNeed) (hold : State → Option (Hold × State))
    (alone : Bool) (run : State → Run) : State :=
  let t := k.tile.toNat
  let x := s.tile t
  let y := x.eng e
  match waitsNeed x k with
  | .error is => s.haltMany t (engCode e) y.pc (is.map (fun i => (rsnParamRange, i)))
  | .ok ws =>
    let gb := s.tileGate t (gateNo k)
    let b0 := match y.head with
      | some h => h.b0
      | none => max (s.beatAt (clusterOf t)) gb
    let needs := ws.map (fun w => (w.1.tally, w.2))
    let outs := credits.map (fun c => (c.out, c.need))
    let keep (q : State) (h : Hold) : State := q.modTile t (fun x => x.setEng e { x.eng e with head := some ⟨b0, h, needs, outs⟩ })
    match unmetWait x ws with
    | some h => keep s h
    | none => match unmetCredit credits with
      | some h => keep s h
      | none =>
        if !s.gateOpenAt (clusterOf t) gb then keep s .gate
        else match hold s with
          | some (h, q) => keep q h
          | none =>
            let fin := fun q wide dest heavy pc => s.finishIssue q e k alone wide dest heavy pc (needs.map (fun w => (w.1.toNat, w.2))) outs
            match run (s.setTile t (takeAll x ws)) with
            | .stop conds => (s.noteStop t e conds).haltMany t (engCode e) y.pc conds
            | .clash cs => (s.setTile t (takeAll x ws)).bankConflict t e y.pc cs
            | .fail q r i => q.halt t (engCode e) r y.pc i
            | .halted q => q
            | .done q wide heavy pc => fin q wide [] heavy pc
            | .moves q wide d => fin q wide [d] false none
            | .store q mem off bytes wide heavy => fin (q.tmStore t mem off bytes) wide [(mem, off, bytes.length)] heavy none

/-- An engine at the head of which an instruction stands. A tile that is not RUNNING, or whose region's
ADPLL has lost lock (R271), or an engine that has ended its stream, issues nothing. The
instruction's word is read, with correction, when it comes to the head; one that cannot be corrected halts the tile (R40, R119, R120). -/
def State.issue (s : State) (e : Engine) (k : Issue) (credits : List CreditNeed) (hold : State → Option (Hold × State))
    (alone : Bool) (run : State → Run) : State :=
  let t := k.tile.toNat
  let x := s.tile t
  let y := x.eng e
  if x.st ≠ .running ∨ y.ended ∨ !s.tileOk t ∨ s.unlocked.contains (clusterOf t) then s
  else if y.head.isSome then s.fire e k credits hold alone run
  else
    let rd := s.eccRead t (4 + engCode e) (8 * y.pc) 8 false
    match rd.2 with
    | some w => rd.1.halt t (engCode e) rsnEcc y.pc (eccInfo (4 + engCode e) w)
    | none => rd.1.fire e k credits hold alone run

/-- An instruction that names no output and that only its waits and gate can hold. -/
def State.issuePlain (s : State) (e : Engine) (k : Issue) (run : State → Run) : State :=
  s.issue e k [] (fun _ => none) false run

/-- Bits 31:0 of the instruction word at an engine's PC: the DETAIL of FORMAT (03). -/
def State.imWord (s : State) (t : Nat) (e : Engine) : Nat :=
  s.tmNat (tmAddr t (4 + engCode e) (((s.tile t).eng e).pc * 8)) 4

/-- Work that changes only the issuing tile. -/
def Run.tile (s : State) (t : Nat) (f : TileState → TileState) : Run := .done (s.modTile t f) [] false none

end Sys2Proof.Machine
end

