-- ==== Sys2Proof/Machine/Ownership.lean ====
section
/-!
DEFINITION. Ownership windows of the ports that carry PLAN traffic (R25, R26, R403; states of one port's ownership list).
-/

namespace Sys2Proof.Machine

open Sys2Proof

/-- A segment's ownership list at a port; none where it has none. -/
def listOf (g : Segment) (p : OwnPort) : List OwnEntry :=
  match g.own.find? (fun q => q.1 = p) with
  | some q => q.2
  | none => []

def State.listFor (s : State) (p : OwnPort) (r : ReplayRec) : List OwnEntry :=
  match s.findSeg r.seg with
  | some g => listOf g p
  | none => []

def State.curList (s : State) (p : OwnPort) : List OwnEntry :=
  match (s.port p).cur with
  | some r => s.listFor p r
  | none => []

/-- Cluster whose controller serves a port; 64 for Ermond, which serves the Novbo ports and the uncore intakes (R26). -/
def portCluster : OwnPort → Nat
  | .router t _ => clusterOf t.toNat
  | .skillet v => v.toNat
  | .ladle c => c.toNat
  | _ => 64

/-- Gate beat of gate g for a replay at a port: base beat plus offset (R19), as the controller that serves the port fixed it for the replay;
before that, or where its tiles start none, as it would fix it (R20). (DEDUCED, assumption 29) -/
def State.portGate (s : State) (p : OwnPort) (r : ReplayRec) (g : Nat) : Nat :=
  let slot := match s.findSeg r.seg with | some q => q.slot.toNat | none => 0
  let offset := match s.findSeg r.seg with
    | some q => (q.gates.getD g (true, 0)).2
    | none => 0
  let x := s.cluster (portCluster p)
  let bank := if x.gCommit then x.gPending else x.gActive
  let plain := r.base.toNat + smGet bank.offs (slot * 4096 + g) offset
  match s.findStarted (portCluster p) r.seg r.count with
  | some st => st.gates.getD g plain
  | none => plain

/-- A gate of a replay has begun at a port. -/
def State.portOpen (s : State) (p : OwnPort) (r : ReplayRec) (g : Nat) : Bool := s.gateOpenAt (portCluster p) (s.portGate p r g)

/-- A port serves a replay, or holds its order for later. -/
def PortOwn.holds (o : PortOwn) (seg : BitVec 16) (count : BitVec 64) : Bool :=
  let is (r : ReplayRec) : Bool := r.seg = seg ∧ r.count = count
  o.later.any is || (o.st ≠ .done && o.cur.any is)

/-- A base beat goes into the SHADOW bank of a controller and is committed there (R20). -/
def ClusterState.commitBase (x : ClusterState) (slot : BitVec 3) (base : Nat) : ClusterState :=
  let b : GateBank := { x.gShadow with base := smSet x.gShadow.base slot.toNat base }
  { x with gShadow := b, gPending := b, gCommit := true }

/-- The controller that serves a replay takes its pending bank and fixes the replay's gate beats from it (R20). Records of replays that no tile runs
and no port still holds go. Where the run goes on, Ermond commits the base beat of its next replay (R289). (DEDUCED, assumptions 28 and 29) -/
def State.fixGates (s : State) (c : Nat) (q : ReplayRun) (k : Nat) : State :=
  let count := BitVec.ofNat 64 (q.first + k)
  if (s.findStarted c q.seg count).isSome then s
  else
    let x := s.cluster c
    let bank := if x.gCommit then x.gPending else x.gActive
    let gates := match s.findSeg q.seg with
      | some g => (g.gates.zipIdx).map (fun w =>
          smGet bank.base q.slot.toNat (q.baseOf k).toNat + smGet bank.offs (q.slot.toNat * 4096 + w.2) w.1.2)
      | none => []
    let left := q.tiles.filter (fun t => clusterOf t = c)
    let held (seg : BitVec 16) (n : BitVec 64) : Bool := s.ports.any (fun p => p.2.holds seg n)
    let old := x.started.filter (fun r => r.left ≠ [] || held r.seg r.count)
    let marks := x.marks.filter (fun r => !(r.seg = q.seg && decide (r.count.toNat < count.toNat)) || held r.seg r.count ||
      old.any (fun w => w.seg = r.seg && w.count = r.count))
    let y := { x with
      gActive := bank, gCommit := false, marks := marks
      started := old ++ [{ seg := q.seg, count := count, gates := gates, left := left, members := [] }] }
    s.setCluster c (if k + 1 < q.n then y.commitBase q.slot (q.baseOf (k + 1)).toNat else y)

/-- How a port treats a PLAN packet of a flow (R26). -/
inductive PortVerdict where
  | forward | wait | conflict
deriving DecidableEq, Repr

/-- Window index of the current owner, and whether ownership is still to pass on. (DEDUCED, assumption 29) -/
def PortOwn.next (o : PortOwn) : Option Nat :=
  match o.st with
  | .owned k => if o.endLeft then some (k + 1) else some k
  | .idle k => some (k + 1)
  | .done => none

/-- R26: the current owner's packet goes once its window has opened; a flow with a window still to come here or in a later
replay ordered at the port waits; any other is a route conflict. -/
def State.portVerdict (s : State) (p : OwnPort) (flow : Nat) : PortVerdict :=
  let o := s.port p
  let l := s.curList p
  let has (es : List OwnEntry) : Bool := es.any (fun e => e.flow.toNat = flow)
  let laterLists := o.later.any (fun r => has (s.listFor p r))
  match o.st with
  | .owned k =>
    let own := match l[k]? with
      | some e => !o.endLeft && e.flow.toNat = flow
      | none => false
    if own then
      (match o.cur, l[k]? with
       | some r, some e => if s.portOpen p r e.gate.toNat then .forward else .wait
       | _, _ => .wait)
    else if has (l.drop (k + 1)) || laterLists then .wait else .conflict
  | .idle k => if has (l.drop (k + 1)) || laterLists then .wait else .conflict
  | .done => if laterLists then .wait else .conflict

/-- A Goose measures the window a port has just opened (R30, R31). At the intake of a Skillet or a cluster Ladle the place is the router that
carried the END packet of the previous owner; with no previous owner the record waits for the new owner's first packet (R403). -/
def State.goosePort (s : State) (p : OwnPort) (r : ReplayRec) (gate late cond : Nat) : State :=
  let intake (c : Nat) : State := match (s.port p).via with
    | some t => s.gooseCluster c t 6 r.seg r.count gate late cond (s.beatAt c)
    | none => s.setPort p { s.port p with unplaced := some (gate, late, cond, s.beatAt c) }
  match p with
  | .router t q => s.gooseCluster (clusterOf t.toNat) t.toNat (rportCode q) r.seg r.count gate late cond (s.beatAt (clusterOf t.toNat))
  | .skillet v => intake v.toNat
  | .ladle c => intake c.toNat
  | .hostLadle n => s.gooseChip p (18 + n.toNat) r.seg r.count gate late cond
  | .lpx h => s.gooseChip p (20 + h.toNat) r.seg r.count gate late cond
  | .sieve => s.gooseChip p 22 r.seg r.count gate late cond
  | .novbo n => s.gooseChip p n.toNat r.seg r.count gate late cond

/-- The first packet of an intake's first owner comes through the cluster port of router t: the window is measured there (R403). -/
def State.placeWindow (s : State) (p : OwnPort) (t : Nat) : State :=
  let o := s.port p
  match o.unplaced, o.cur with
  | some w, some r => (s.setPort p { o with unplaced := none }).gooseCluster (portCluster p) t 6 r.seg r.count w.1 w.2.1 w.2.2.1 w.2.2.2
  | _, _ => s

/-- COND of an ownership pass: the END packet where it came after the gate, else none of the three (R31). -/
def passCond (late gb endBeat : Nat) : Nat := if late = 0 then 3 else if gb < endBeat then 2 else 3

/-- A port in DONE takes up the next replay it holds the order of: window 0 of its list, or DONE again where that segment has no
list here. The lateness of window 0 is measured when its gate has begun (R30, R31). `fuel` bounds the orders skipped. -/
def State.startNext (s : State) (p : OwnPort) : Nat → State
  | 0 => s
  | fuel + 1 =>
    let o := s.port p
    match o.st, o.later with
    | .done, r :: rest =>
      let l := s.listFor p r
      match l with
      | [] => (s.setPort p { o with cur := some r, later := rest }).startNext p fuel
      | e :: _ =>
        let s1 := s.setPort p { o with st := .owned 0, cur := some r, later := rest, endLeft := false, warned := false, alarmed := false }
        let gb := s.portGate p r e.gate.toNat
        let late := s.lateness (portCluster p) gb
        s1.goosePort p r e.gate.toNat late (passCond late gb o.endBeat)
    | _, _ => s

/-- The END packet of the current owner has left a port (R25; rows 1 to 3 of the table). -/
def State.endPacketLeft (s : State) (p : OwnPort) (via : Nat) : State :=
  let o := s.port p
  match o.st with
  | .owned k =>
    if o.endLeft then s
    else
      let o1 := { o with endLeft := true, endBeat := s.beatAt (portCluster p), via := some via, unplaced := none }
      let l := s.curList p
      match l[k + 1]?, o.cur with
      | some e, some r =>
        if s.portOpen p r e.gate.toNat then s.setPort p o1
        else s.setPort p { o1 with st := .idle k }
      | _, _ =>
        let s1 := s.setPort p { o1 with st := .done }
        let s2 := match o.cur with
          | some r => s1.settleReplay r.seg r.count
          | none => s1
        s2.startNext p (o.later.length + 1)
  | _ => s

/-- Ownership passes to the next entry once the END packet has left and the next gate has begun (R25). (DEDUCED, assumption 29) -/
def State.passOwnership (s : State) (p : OwnPort) : State :=
  let o := s.port p
  let go (k : Nat) : State :=
    match (s.curList p)[k + 1]?, o.cur with
    | some e, some r =>
      let gb := s.portGate p r e.gate.toNat
      if s.gateOpenAt (portCluster p) gb then
        let late := s.lateness (portCluster p) gb
        (s.setPort p { o with st := .owned (k + 1), endLeft := false }).goosePort p r e.gate.toNat late (passCond late gb o.endBeat)
      else s
    | _, _ => s
  match o.st with
  | .owned k => if o.endLeft then go k else s
  | .idle k => go k
  | .done => s

/-- A port receives the order of a replay (R26). A controller that starts no tile of it, and Ermond, fix its gate beats with the first order
(R20). (DEDUCED, assumption 29) -/
def State.orderAtPort (s : State) (p : OwnPort) (r : ReplayRec) : State :=
  let o := s.port p
  let s0 := s.modLive r.seg r.count (fun l => { l with ordered := l.ordered ++ [ownKey p] })
  let c := portCluster p
  let s1 := match s.findReplay r.seg r.count with
    | some (q, k) => if q.tiles.any (fun t => clusterOf t = c) then s0 else s0.fixGates c q k
    | none => s0
  ((s1.setPort p { o with later := o.later ++ [r] }).startNext p (o.later.length + 1)).settleReplay r.seg r.count

end Sys2Proof.Machine
end

