-- ==== Sys2Proof/Machine/Mesh.lean ====
section
/-!
DEFINITION. The mesh: header fields (R125), routes (R126 to R128, R138), injection, arrival at a router or a terminal,
and the movement of one flit (R129 to R135).
-/

namespace Sys2Proof.Machine

open Sys2Proof

/-! ## Header flit (R125) -/

def hField (h : FlitWord) (lo w : Nat) : Nat := fieldOf h.toNat lo w
def hClass (h : FlitWord) : Nat := hField h 0 2
def hKind (h : FlitWord) : Nat := hField h 2 2
def hEpoch (h : FlitWord) : Nat := hField h 4 2
def hLen (h : FlitWord) : Nat := hField h 6 5
def hLast (h : FlitWord) : Bool := hField h 11 1 = 1
def hHsig (h : FlitWord) : Bool := hField h 12 1 = 1
def hHtally (h : FlitWord) : Nat := hField h 13 5
def hHinc (h : FlitWord) : Nat := hField h 18 8
def hDmem (h : FlitWord) : Nat := hField h 26 2
def hDaddr (h : FlitWord) : Nat := hField h 28 17
def hSrck (h : FlitWord) : Nat := hField h 45 3
def hSrc (h : FlitWord) : Nat := hField h 48 12
def hUnit (h : FlitWord) : Nat := hField h 64 8
def hDest (h : FlitWord) : Nat := hField h 72 12
def hSpan (h : FlitWord) : Nat := hField h 84 12
def hFlow (h : FlitWord) : Nat := hField h 96 16
def hInline (h : FlitWord) : Nat := hField h 128 128

/-- The fields of a header to be formed. -/
structure HdrF where
  cls : Nat
  kind : Nat := 0
  epoch : Nat := 0
  len : Nat := 0
  last : Bool := false
  hsig : Bool := false
  htally : Nat := 0
  hinc : Nat := 0
  dmem : Nat := 0
  daddr : Nat := 0
  srck : Nat := 0
  src : Nat := 0
  unit : Nat := 0
  dest : Nat := 0
  span : Nat := 0
  flow : Nat := 0
  inl : Nat := 0

def mkHdr (f : HdrF) : FlitWord :=
  BitVec.ofNat 256 (f.cls + f.kind * 2 ^ 2 + f.epoch * 2 ^ 4 + f.len * 2 ^ 6 + bit f.last * 2 ^ 11 + bit f.hsig * 2 ^ 12 +
    f.htally * 2 ^ 13 + f.hinc * 2 ^ 18 + f.dmem * 2 ^ 26 + f.daddr * 2 ^ 28 + f.srck * 2 ^ 45 + f.src * 2 ^ 48 +
    f.unit * 2 ^ 64 + f.dest * 2 ^ 72 + f.span * 2 ^ 84 + f.flow * 2 ^ 96 + f.inl * 2 ^ 128)

def flitBytes (f : FlitWord) : List Byte := leBytes 32 f.toNat
def bytesFlit (bs : List Byte) : FlitWord := BitVec.ofNat 256 (leNat bs)

/-! ## Geometry -/

def tx (t : Nat) : Nat := t % 64
def ty (t : Nat) : Nat := t / 64

def portOfCode : Nat → RPort
  | 1 => .north | 2 => .east | 3 => .south | 4 => .west | 5 => .loc | _ => .cluster

/-- The router a link output leads to; none at the edge of the die. -/
def neighbour (t : Nat) : RPort → Option Nat
  | .north => if ty t = 0 then none else some (t - 64)
  | .south => if ty t = 63 then none else some (t + 64)
  | .west => if tx t = 0 then none else some (t - 1)
  | .east => if tx t = 63 then none else some (t + 1)
  | _ => none

/-- The input port at which a flit that left by this output arrives. -/
def opposite : RPort → RPort
  | .north => .south | .south => .north | .east => .west | .west => .east | p => p

/-- One hop toward router d: along the row first, then along the column (R126); `here` if this is d. -/
def hop (t d : Nat) (here : RPort) : RPort :=
  if tx t < tx d then .east else if tx d < tx t then .west
  else if ty t < ty d then .south else if ty d < ty t then .north
  else here

def between (a b x : Nat) : Bool := decide ((a ≤ x ∧ x ≤ b) ∨ (b ≤ x ∧ x ≤ a))

/-- What a router does with a packet: the outputs it takes, or a route conflict with the output port recorded. -/
inductive Route where
  | outs (ps : List RPort)
  | bad (port : Nat)
deriving DecidableEq, Repr

def RouterState.bank (r : RouterState) (e : Nat) : RouteBank := if e % 2 = 0 then r.bank0 else r.bank1

/-- The route of a packet at router t that entered the mesh at router `entry` (R126, R127, R128, R138). -/
def State.routeAt (s : State) (t : Nat) (h : FlitWord) (entry : Nat) : Route :=
  let b := (s.router t).bank (hEpoch h)
  if !b.valid ∨ b.tag.toNat ≠ hEpoch h then .bad 7
  else
    let outs : Route :=
      if hKind h = 0 then .outs [hop t (hDest h) .loc]
      else if hKind h = 1 then
        let inSpan := between (tx (hDest h)) (tx (hSpan h)) (tx t)
        let onward := if tx t = tx (hSpan h) then [] else [if tx t < tx (hSpan h) then RPort.east else .west]
        .outs ((if inSpan then [.loc] else []) ++ onward)
      else if hKind h = 2 then
        if tx t ≠ tx (hDest h) then .outs [if tx t < tx (hDest h) then .east else .west]
        else
          let inSpan := between (ty (hDest h)) (ty (hSpan h)) (ty t)
          let onward := if ty t = ty (hSpan h) then [] else [if ty t < ty (hSpan h) then RPort.south else .north]
          .outs ((if inSpan then [.loc] else []) ++ onward)
      else if hUnit h < 0x40 then .outs [hop t (tileAt (hUnit h) (localIdx entry)) .cluster]
      else if h64 : hUnit h - 0x40 < 36 then
        let e := (b.entries[hUnit h - 0x40]'h64).toNat
        if fieldOf e 15 1 = 0 then .bad 7
        else
          let own := fieldOf e 8 1 = 1
          let edge := fieldOf e 6 2
          let idx := fieldOf e 0 6
          if edge = 0 then .outs [hop t (if own then tx t else idx) .north]
          else if edge = 1 then .outs [hop t (64 * (if own then ty t else idx) + 63) .east]
          else if edge = 2 then .outs [hop t (64 * 63 + (if own then tx t else idx)) .south]
          else .outs [hop t (64 * (if own then ty t else idx)) .west]
      else .bad 7
    match outs with
    | .bad p => .bad p
    | .outs ps =>
      -- the last present router of the PZ-9060 forwards nothing toward an absent row (R126)
      if ps.any (fun p => match neighbour t p with | some n => !s.tileOk n | none => false) then .bad 3 else .outs ps

/-! ## Buffers and credits (R129) -/

def allotment (cls : Nat) : Nat := if cls = 0 then 34 else if cls = 1 then 4 else 10

def RouterState.queue (r : RouterState) (inp : RPort) (cls : Nat) : List Flit := smGet r.q (4 * rportCode inp + cls) []

/-- High-water marks of input p (R142): PLAN bits 5:0, TALLY 14:12, CTRL 18:15. -/
def State.noteHwm (s : State) (t : Nat) (inp : RPort) (cls n : Nat) : State :=
  let a := rtrReg t (0x10 * rportCode inp + 0xC)
  let lo := if cls = 0 then 0 else if cls = 1 then 12 else 15
  let w := if cls = 0 then 6 else if cls = 1 then 3 else 4
  if s.fld a lo w < n then s.setFld a lo w n else s

/-- A packet of epoch E enters an input of a router: the drain count of that bank starts again and DRAINED clears (R141). -/
def RouterState.noteEntry (r : RouterState) (e beats : Nat) : RouterState :=
  let f (b : RouteBank) : RouteBank := if b.tag.toNat = e then { b with drained := false } else b
  { r with bank0 := f r.bank0, bank1 := f r.bank1, seen := smSet r.seen e beats }

/-- A flit joins an input buffer. -/
def State.enqueue (s : State) (t : Nat) (inp : RPort) (cls : Nat) (f : Flit) : State :=
  let r := s.router t
  let r1 := if f.head then r.noteEntry (hEpoch f.bits) s.tm.beats else r
  let q := r1.queue inp cls ++ [f]
  (s.setRouter t { r1 with q := smSet r1.q (4 * rportCode inp + cls) q }).noteHwm t inp cls q.length

/-- An input whose injector, a unit of the cluster or beyond the edge, has a credit back as a flit leaves it (R129). (DESIGN CHOICE, assumption 25) -/
def injectorInput (t : Nat) (inp : RPort) : Bool := inp = .cluster || (inp ≠ .loc && (neighbour t inp).isNone)

/-- Flits leave the buffer of an input: their credits are owed upstream. -/
def RouterState.owe (r : RouterState) (t : Nat) (inp : RPort) (cls n : Nat) : RouterState :=
  let key := 4 * rportCode inp + cls
  if injectorInput t inp then r else { r with owed := smSet r.owed key (smGet r.owed key 0 + n) }

/-- The whole packet at the head of an input is discarded and its credits go back upstream; its flits still to arrive are
dropped as they come. -/
def State.dropHead (s : State) (t : Nat) (inp : RPort) (cls : Nat) : State :=
  let r := s.router t
  let key := 4 * rportCode inp + cls
  match r.queue inp cls with
  | [] => s
  | f :: _ =>
    let total := match smFind r.cur key with
      | some c => c.left
      | none => if f.head then hLen f.bits + 1 else 1
    let here := min total (r.queue inp cls).length
    s.setRouter t ({ r with
      q := smSet r.q key ((r.queue inp cls).drop here)
      cur := smDel r.cur key
      taken := smDel r.taken key
      dropping := if here < total then smSet r.dropping key (total - here) else r.dropping
      lock := r.lock.filter (fun p => !(p.1 % 4 = cls && p.2 = rportCode inp)) }.owe t inp cls here)

/-- ROUTE_CONFLICT at a router: the packet goes and the router's tile halts with engine code 5 (R26). -/
def State.routeConflict (s : State) (t : Nat) (inp : RPort) (cls outp : Nat) (flow : Nat) : State :=
  (s.dropHead t inp cls).halt t 5 rsnRouteConflict 0 (outp * 2 ^ 24 + rportCode inp * 2 ^ 20 + flow)

/-! ## Terminals: the Colander and the intakes -/

/-- A closed Colander passes only CTRL packets of the tile's own cluster controller (R135). -/
def State.colanderPasses (s : State) (t : Nat) (h : FlitWord) : Bool :=
  (s.router t).col = .opened || (hClass h = 2 && hSrck h = 2 && decide (hSrc h = clusterOf t))

/-- A flit through the local output: into the packet being assembled for the receive side, or discarded by the Colander. -/
def State.deliverLocal (s : State) (t cls : Nat) (f : Flit) : State :=
  if f.head then
    if s.colanderPasses t f.bits then
      if hLen f.bits = 0 then s.modTile t (fun x => { x with rx := x.rx ++ [{ hdr := f.bits, data := [] }] })
      else s.modTile t (fun x => { x with rxPart := smSet x.rxPart cls { hdr := f.bits, data := [] } })
    else s.bump (rtrReg t 0x08) 1
  else
    let x := s.tile t
    match smFind x.rxPart cls with
    | none => s
    | some p =>
      let p1 : Packet := { p with data := p.data ++ [(f.bits, f.poison)] }
      if hLen p.hdr ≤ p1.data.length then s.setTile t { x with rx := x.rx ++ [p1], rxPart := smDel x.rxPart cls }
      else s.setTile t { x with rxPart := smSet x.rxPart cls p1 }

/-- The intake that a KIND 3 packet goes to at a cluster port: Skillet v's if its flow is in the Skillet's list of any segment
loaded in the cluster, Ladle v's if in the Ladle's (R176). -/
def State.clusterIntake (s : State) (c flow : Nat) : Option OwnPort :=
  let named (p : OwnPort) : Bool := s.segs.any (fun g => (listOf g p).any (fun e => e.flow.toNat = flow))
  if named (.skillet (BitVec.ofNat 6 c)) then some (.skillet (BitVec.ofNat 6 c))
  else if named (.ladle (BitVec.ofNat 6 c)) then some (.ladle (BitVec.ofNat 6 c))
  else none

/-- The intake of an uncore unit code (R125). Ermond (0x45) takes no PLAN packet. (DEDUCED, assumption 24) -/
def uncoreIntake (u : Nat) : Option OwnPort :=
  if u = 0x40 then some .sieve else if u = 0x41 then some (.lpx 0) else if u = 0x42 then some (.lpx 1)
  else if u = 0x43 then some (.hostLadle 0) else if u = 0x44 then some (.hostLadle 1)
  else if 0x50 ≤ u ∧ u ≤ 0x61 then some (.novbo (BitVec.ofNat 5 (u - 0x50))) else none

/-- The intake of a packet that leaves the mesh. A CTRL packet to a Ladle or an LPX unit is a request or a response of R176; a packet of another
class goes nowhere. (DEDUCED, assumption 24) -/
def State.intakeFor (s : State) (t : Nat) (out : RPort) (h : FlitWord) : Option OwnPort :=
  if hClass h = 0 then (if out = .cluster then s.clusterIntake (clusterOf t) (hFlow h) else uncoreIntake (hUnit h))
  else if hClass h = 2 ∧ hKind h = 3 then
    (if out = .cluster then some (.ladle (BitVec.ofNat 6 (clusterOf t)))
     else if 0x41 ≤ hUnit h ∧ hUnit h ≤ 0x44 then uncoreIntake (hUnit h) else none)
  else none

/-- The window in which an intake accepts a packet now: segment and gate of its current entry (R263). -/
def State.windowOf (s : State) (p : OwnPort) : BitVec 16 × Nat :=
  let o := s.port p
  match o.st, o.cur with
  | .owned k, some r => (r.seg, match (s.curList p)[k]? with | some e => e.gate.toNat | none => 0)
  | _, _ => (0, 0)

/-- DEDUCED, assumption 24. -/
def State.putIntake (s : State) (i : OwnPort) (p : Packet) : State :=
  { s with intakeQ := smSet s.intakeQ (ownKey i) (smGet s.intakeQ (ownKey i) [] ++ [p]) }

/-- A flit through the cluster output or an outer edge: assembled, and the whole packet put at its intake. (DEDUCED, assumption 24) -/
def State.deliverUnit (s : State) (t : Nat) (out : RPort) (cls : Nat) (f : Flit) : State :=
  let key := (t * 8 + rportCode out) * 4 + cls
  let put (q : State) (p : Packet) : State :=
    match q.intakeFor t out p.hdr with
    | none => q
    | some i => q.putIntake i p
  if f.head then
    let w := match s.intakeFor t out f.bits with
      | some i => s.windowOf i
      | none => (0, 0)
    let p : Packet := { hdr := f.bits, data := [], seg := w.1, gate := w.2, via := t }
    if hLen f.bits = 0 then put s p else { s with termPart := smSet s.termPart key p }
  else match smFind s.termPart key with
    | none => s
    | some p =>
      let p1 : Packet := { p with data := p.data ++ [(f.bits, f.poison)] }
      if hLen p.hdr ≤ p1.data.length then put { s with termPart := smDel s.termPart key } p1
      else { s with termPart := smSet s.termPart key p1 }

/-! ## Links (R133) -/

/-- The flow of the packet that an input is in the middle of receiving: the last header in its buffer, or the one in
progress. -/
def RouterState.flowAt (r : RouterState) (inp : RPort) (cls : Nat) : Nat :=
  match (r.queue inp cls).reverse.find? (fun f => f.head) with
  | some f => hFlow f.bits
  | none => match smFind r.cur (4 * rportCode inp + cls) with
    | some c => hFlow c.hdr
    | none => 0xFFFF

/-- A flit arrives over a link at router n: corrected and counted, or found uncorrectable, which halts the tile and discards the
packet or poisons the flit. A flit already marked is carried as it is. -/
def State.arrive (s : State) (n : Nat) (inp : RPort) (cls : Nat) (f : Flit) (e : LinkErr) : State :=
  let key := 4 * rportCode inp + cls
  let r := s.router n
  let left := smGet r.dropping key 0
  if 0 < left then
    s.setRouter n ({ r with dropping := if left = 1 then smDel r.dropping key else smSet r.dropping key (left - 1) }.owe n inp cls 1)
  else if f.poison then s.enqueue n inp cls f
  else match e with
    | .clean => s.enqueue n inp cls f
    | .corrected => ((s.bumpF (rtrReg n 0) 0 16 1).health (partCluster (clusterOf n)) 0).enqueue n inp cls f
    | .uncorrectable =>
      let info := 9 * 2 ^ 28 + rportCode inp * 2 ^ 20
      if f.head then
        let len := hLen f.bits
        let s1 := s.setRouter n ({ r with dropping := if len = 0 then r.dropping else smSet r.dropping key len }.owe n inp cls 1)
        s1.halt n 5 rsnEcc 0 (info + 0xFFFF)
      else (s.enqueue n inp cls { f with poison := true }).halt n 5 rsnEcc 0 (info + r.flowAt inp cls)

/-! ## Moving one flit (R129, R130) -/

/-- The header that governs the flit at the head of an input. -/
def RouterState.headHdr (r : RouterState) (inp : RPort) (cls : Nat) : Option FlitWord :=
  match r.queue inp cls with
  | [] => none
  | f :: _ => if f.head then some f.bits else (smFind r.cur (4 * rportCode inp + cls)).map (fun c => c.hdr)

def State.creditsLeft (s : State) (t : Nat) (out : RPort) (cls : Nat) : Nat :=
  allotment cls - smGet (s.router t).used (4 * rportCode out + cls) 0

/-- An output leads out of the mesh: a cluster port, or an outer port of an edge router. -/
def leavesMesh (t : Nat) (out : RPort) : Bool := out = .cluster || (out ≠ .loc && (neighbour t out).isNone)

/-- How an output treats a PLAN packet: by its own list, and at an output that leads to an intake by the intake's list too, so that a packet which
the intake does not take yet waits at its router (R26, R176). At an uncore intake, as at a cluster's, a route conflict is the router's: R26 states
the action for router and Novbo ports only. A Novbo port keeps its conflicts for itself, and takes nothing while it is halted (R202). (DESIGN
CHOICE, assumption 24) -/
def State.outVerdict (s : State) (t : Nat) (out : RPort) (h : FlitWord) : PortVerdict :=
  let v := s.portVerdict (.router (BitVec.ofNat 12 t) out) (hFlow h)
  if v ≠ .conflict ∧ leavesMesh t out then
    match s.intakeFor t out h with
    | none => if out = .cluster then .conflict else v
    | some (.novbo n) =>
      if (smGet s.nports n.toNat NPort.reset).haltEgress ∨ s.portVerdict (.novbo n) (hFlow h) = .wait then .wait else v
    | some i => match s.portVerdict i (hFlow h) with
      | .conflict => .conflict
      | .wait => .wait
      | .forward => v
  else v

/-- The flit at the head of input `inp` may leave by output `out`: it is routed there and has not been taken by it, the output is
not in the middle of another input's packet of the class, a credit is held, and a PLAN packet owns the port (R25, R124,
R128, R129, R131). -/
def State.canLeave (s : State) (t : Nat) (out inp : RPort) (cls : Nat) : Bool :=
  let r := s.router t
  match r.queue inp cls, r.headHdr inp cls with
  | f :: _, some h =>
    let routed := match s.routeAt t h f.entry with
      | .outs ps => ps.contains out
      | .bad _ => false
    let key := 4 * rportCode inp + cls
    let free := match smFind r.lock (4 * rportCode out + cls) with
      | some i => i = rportCode inp
      | none => f.head
    let owns := cls ≠ 0 || !f.head || s.outVerdict t out h = .forward
    routed && !(smGet r.taken key []).contains (rportCode out) && free && decide (0 < s.creditsLeft t out cls) && owns
  | _, _ => false

/-- One flit leaves input `inp` by output `out`. -/
def State.moveFlit (s : State) (t : Nat) (out inp : RPort) (cls : Nat) (e : LinkErr) : State :=
  let r := s.router t
  let ikey := 4 * rportCode inp + cls
  let okey := 4 * rportCode out + cls
  match r.queue inp cls, r.headHdr inp cls with
  | f :: rest, some h =>
    let left := if f.head then hLen h else (match smFind r.cur ikey with | some c => c.left - 1 | none => 0)
    let taken := rportCode out :: smGet r.taken ikey []
    let all := match s.routeAt t h f.entry with
      | .outs ps => ps.all (fun p => taken.contains (rportCode p))
      | .bad _ => true
    let r1 : RouterState := { r with
      used := smSet r.used okey (smGet r.used okey 0 + 1)
      last := smSet r.last okey (rportCode inp)
      lastSmall := if cls = 0 then r.lastSmall.erase (rportCode out)
        else if r.lastSmall.contains (rportCode out) then r.lastSmall else rportCode out :: r.lastSmall
      lock := if left = 0 then smDel r.lock okey else smSet r.lock okey (rportCode inp) }
    let r2 : RouterState :=
      if all then { r1 with
        q := smSet r1.q ikey rest
        taken := smDel r1.taken ikey
        cur := if left = 0 then smDel r1.cur ikey else smSet r1.cur ikey ⟨h, left⟩ }.owe t inp cls 1
      else { r1 with taken := smSet r1.taken ikey taken }
    let s1 := (s.setRouter t r2).bump (rtrReg t (0x10 * rportCode out + 4)) 1
    let s2 := if left = 0 then s1.bump (rtrReg t (0x10 * rportCode out)) 1 else s1
    let s3 := match out with
      | .loc => s2.deliverLocal t cls f
      | .cluster =>
        let s := s2.deliverUnit t .cluster cls f
        match (if f.head ∧ cls = 0 then s.clusterIntake (clusterOf t) (hFlow h) else none) with
        | some i => s.placeWindow i t
        | none => s
      | p => match neighbour t p with
        | some n => s2.arrive n (opposite p) cls f e
        | none => s2.deliverUnit t p cls f
    if left = 0 ∧ cls = 0 ∧ hLast h then
      let s4 := s3.endPacketLeft (.router (BitVec.ofNat 12 t) out) t
      if leavesMesh t out then
        match s4.intakeFor t out h with
        | some (.novbo _) => s4
        | some i => s4.endPacketLeft i t
        | none => s4
      else s4
    else s3
  | _, _ => s

/-! ## Injection (R125, R129, R135) -/

/-- A flit that an injector sends stands in an input of router t; what its link did to it shows as the router takes it up. -/
def State.arriveIn (s : State) (t : Nat) (inp : RPort) (cls : Nat) (f : Flit) : State := s.arrive t inp cls f .clean

/-- The check bits of the flit at the head of an input, where it came over the link of an injector, a tile or a unit (R133): a header that cannot be
corrected loses its packet, and nothing is left to forward. (DESIGN CHOICE, assumption 25) -/
def State.checkInput (s : State) (t : Nat) (inp : RPort) (cls : Nat) (e : LinkErr) : State × Bool :=
  let r := s.router t
  let key := 4 * rportCode inp + cls
  let info := 9 * 2 ^ 28 + rportCode inp * 2 ^ 20
  match r.queue inp cls, r.headHdr inp cls with
  | f :: rest, some h =>
    if (inp ≠ .loc ∧ !injectorInput t inp) ∨ f.poison ∨ smGet r.taken key [] ≠ [] then (s, true)
    else match e with
      | .clean => (s, true)
      | .corrected => ((s.bumpF (rtrReg t 0) 0 16 1).health (partCluster (clusterOf t)) 0, true)
      | .uncorrectable =>
        if f.head then ((s.dropHead t inp cls).halt t 5 rsnEcc 0 (info + 0xFFFF), false)
        else ((s.setRouter t { r with q := smSet r.q key ({ f with poison := true } :: rest) }).halt t 5 rsnEcc 0 (info + hFlow h), true)
  | _, _ => (s, true)

/-- No Ladle is in the middle of a packet at an input: another may begin there (R124). -/
def State.inputFree (s : State) (t : Nat) (inp : RPort) : Bool :=
  !s.ladles.any (fun l => l.2.sending.any (fun w => w.t = t && decide (w.inp = inp)))

/-- A packet joins the router's buffers at an input port of router t. (DESIGN CHOICE, assumption 25) -/
def State.enterMesh (s : State) (t : Nat) (inp : RPort) (hdr : FlitWord) (data : List (FlitWord × Bool)) : State :=
  data.foldl (fun q d => q.arriveIn t inp (hClass hdr) ⟨d.1, false, d.2, t⟩)
    (s.arriveIn t inp (hClass hdr) ⟨hdr, true, false, t⟩)

/-- Flits for which an input of router t has room in its buffer of a class: what an injector there holds credits for (R129). -/
def State.roomAt (s : State) (t : Nat) (inp : RPort) (cls : Nat) : Nat :=
  let r := s.router t
  let key := 4 * rportCode inp + cls
  allotment cls - ((r.queue inp cls).length + smGet r.owed key 0)

/-- A packet whose header meets a condition is somewhere between the unit that sent it and the one that takes it. -/
def State.anyHdr (s : State) (f : FlitWord → Bool) : Bool :=
  s.routers.any (fun r => r.2.q.any (fun q => q.2.any (fun w => w.head && f w.bits)) || r.2.cur.any (fun c => f c.2.hdr)) ||
  s.tiles.any (fun x => x.2.rx.any (fun p => f p.hdr) || x.2.rxPart.any (fun p => f p.2.hdr) || x.2.narrow.any (fun n => n.last.any f)) ||
  s.termPart.any (fun p => f p.2.hdr) || s.intakeQ.any (fun q => q.2.any (fun p => f p.hdr)) ||
  s.ladles.any (fun l => l.2.sending.any (fun x => f x.hdr))

/-- Where a transfer's flits wait at the intake: Ermond's own transfers apart from the flows of plans. (DESIGN CHOICE, assumption 55) -/
def flowKey (tr : Transfer) : Nat := if tr.cmd.isSome then 0x10000 + tr.d.flow else tr.d.flow

def unitCode (l : Nat) : Nat := if l < 64 then l else 0x43 + (l - 64)

/-- A transfer whose data of a flow went to unit u's intake, and are not answered there yet. -/
def State.originOf (s : State) (u key : Nat) : Option (Nat × Nat) :=
  s.ladles.findSome? (fun x => (x.2.ch.find? (fun c => c.2.tr.any (fun tr =>
    tr.d.dkind = 3 && tr.d.dst % 256 = u && flowKey tr = key && decide (0 < tr.unanswered)))).map (fun c => (x.1, c.1)))

/-- n units of a flow that the Ladle of unit u took from its intake are answered where it wrote them: so they are for the transfers that sent them
there, and on for those that sent them to these (R182). -/
def State.answerOrigin (s : State) (u key n : Nat) : Nat → State
  | 0 => s
  | fuel + 1 =>
    match s.originOf u key with
    | none => s
    | some (l, k) => match (s.lchan l k).tr with
      | none => s
      | some tr =>
        let m := min n tr.unanswered
        let s1 := s.setLchan l k { s.lchan l k with tr := some { tr with unanswered := tr.unanswered - m } }
        let s2 := if tr.d.skind = 3 then s1.answerOrigin (unitCode l) (flowKey tr) m fuel else s1
        if m < n then s2.answerOrigin u key (n - m) fuel else s2

/-- n units of a transfer of Ladle l are answered at its destination. -/
def State.onward (s : State) (l : Nat) (tr : Transfer) (n : Nat) : State :=
  if tr.d.skind = 3 then s.answerOrigin (unitCode l) (flowKey tr) n 16 else s

/-- The receive side of a tile has written the last data flit of a transfer's last packet, or its header signal: the write that the Ladle which sent
it counts as answered (R182). -/
def State.answerLadle (s : State) (h : FlitWord) : State :=
  if (hSrck h = 3 ∨ hSrck h = 6) ∧ hLast h then
    let l := if hSrck h = 3 then hSrc h else 64 + hSrc h
    (s.ladle l).ch.foldl (fun q c => match (q.lchan l c.1).tr with
      | some tr => if tr.d.flow = hFlow h ∧ tr.d.dkind = 1 ∧ 0 < tr.unanswered then
          (q.setLchan l c.1 { q.lchan l c.1 with tr := some { tr with unanswered := 0 } }).onward l tr tr.d.len else q
      | none => q) s
  else s

/-- Injection by a tile: uses its credits, unless a closed Colander discards it and returns them (R135). -/
def State.inject (s : State) (t : Nat) (hdr : FlitWord) (data : List FlitWord) : State :=
  if (s.router t).col ≠ .opened then s.bump (rtrReg t 0x0C) 1
  else
    let n := data.length + 1
    let c := hClass hdr
    let s1 := s.modTile t (fun x => { x with injCredit := x.injCredit.mapIdx (fun i v => if i = c then v - n else v) })
    s1.enterMesh t .loc hdr (data.map (fun d => (d, false)))

def State.injCredit (s : State) (t cls : Nat) : Nat := (s.tile t).injCredit.toList.getD cls 0

end Sys2Proof.Machine
end

