-- ==== Sys2Proof/Machine/Float.lean ====
section
/-!
DEFINITION. Numbers (05): FP32 and BF16 as exact dyadic values with one rounding (R85), the element formats (R81), the
canonical tree (R86), the special functions by the fixed methods of R103, and quantisation (R102).
-/

namespace Sys2Proof.Machine

open Sys2Proof

/-- An exact value: (−1)^neg × m × 2^e, or an infinity, or NaN. A zero keeps its sign. -/
inductive Fp where
  | nan
  | inf (neg : Bool)
  | fin (neg : Bool) (m : Nat) (e : Int)
deriving DecidableEq, Repr

def Fp.isNan : Fp → Bool
  | .nan => true
  | _ => false

/-- Shift of a magnitude right by n bits with roundTiesToEven. -/
def shiftRne (m n : Nat) : Nat :=
  let q := m / 2 ^ n
  let r := m % 2 ^ n
  if n = 0 then m
  else if 2 ^ (n - 1) < r then q + 1
  else if r < 2 ^ (n - 1) then q
  else q + q % 2

/-- A magnitude rounded to p significant bits, and to multiples of 2^qmin at least (R85). -/
def roundMag (p : Nat) (qmin : Int) (m : Nat) (e : Int) : Nat × Int :=
  if m = 0 then (0, qmin)
  else
    let q := max (e + (Nat.log2 m : Nat) + 1 - (p : Nat)) qmin
    if q ≤ e then (m * 2 ^ (e - q).toNat, q) else (shiftRne m (q - e).toNat, q)

/-! ## FP32 and BF16 (R81, R85) -/

def nan32 : Word := 0x7FC00000

def decF32 (w : Word) : Fp :=
  let s := w.getLsbD 31
  let e := fieldOf w.toNat 23 8
  let m := fieldOf w.toNat 0 23
  if e = 255 then (if m = 0 then .inf s else .nan)
  else if e = 0 then .fin s m (-149)
  else .fin s (m + 2 ^ 23) ((e : Nat) - 150)

/-- The word of a value m × 2^q with m < 2^25 and q ≥ −149 that FP32 holds, or an infinity at 2^128 and above. -/
def packF32 (neg : Bool) (m : Nat) (q : Int) : Word :=
  let sg := bit neg * 2 ^ 31
  let mq := if 2 ^ 24 ≤ m then (m / 2, q + 1) else (m, q)
  if mq.1 = 0 then BitVec.ofNat 32 sg
  else if mq.1 < 2 ^ 23 then BitVec.ofNat 32 (sg + mq.1)
  else
    let ef := (mq.2 + 150).toNat
    if 255 ≤ ef then BitVec.ofNat 32 (sg + 255 * 2 ^ 23) else BitVec.ofNat 32 (sg + ef * 2 ^ 23 + (mq.1 - 2 ^ 23))

/-- One rounding to FP32 (R85). -/
def toF32 : Fp → Word
  | .nan => nan32
  | .inf s => if s then 0xFF800000 else 0x7F800000
  | .fin s m e => let r := roundMag 24 (-149) m e; packF32 s r.1 r.2

/-- One rounding to BF16, held in FP32 form (R100). -/
def toBf16 : Fp → Word
  | .nan => nan32
  | .inf s => if s then 0xFF800000 else 0x7F800000
  | .fin s m e =>
    let r := roundMag 8 (-133) m e
    toF32 (.fin s r.1 r.2)

def roundTo (bf : Bool) (v : Fp) : Word := if bf then toBf16 v else toF32 v

def decBf16 (h : BitVec 16) : Fp := decF32 (h.setWidth 32 <<< 16)

/-! ## Exact operations -/

def Fp.neg : Fp → Fp
  | .nan => .nan
  | .inf s => .inf (!s)
  | .fin s m e => .fin (!s) m e

def Fp.add : Fp → Fp → Fp
  | .nan, _ => .nan
  | _, .nan => .nan
  | .inf a, .inf b => if a = b then .inf a else .nan
  | .inf a, _ => .inf a
  | _, .inf b => .inf b
  | .fin a m e, .fin b n f =>
    let g := min e f
    let x : Int := (if a then -1 else 1) * (m * 2 ^ (e - g).toNat : Nat)
    let y : Int := (if b then -1 else 1) * (n * 2 ^ (f - g).toNat : Nat)
    let z := x + y
    if z = 0 then .fin (a && b) 0 g else .fin (decide (z < 0)) z.natAbs g

def Fp.mul : Fp → Fp → Fp
  | .nan, _ => .nan
  | _, .nan => .nan
  | .inf a, .inf b => .inf (a != b)
  | .inf a, .fin b n _ => if n = 0 then .nan else .inf (a != b)
  | .fin a m _, .inf b => if m = 0 then .nan else .inf (a != b)
  | .fin a m e, .fin b n f => .fin (a != b) (m * n) (e + f)

/-- Value × 2^k, exact. -/
def Fp.scale (k : Int) : Fp → Fp
  | .fin s m e => .fin s m (e + k)
  | v => v

def f32add (a b : Word) : Word := toF32 ((decF32 a).add (decF32 b))
def f32mul (a b : Word) : Word := toF32 ((decF32 a).mul (decF32 b))
/-- a × b + c with one rounding (R100, R103). -/
def f32fma (a b c : Word) : Word := toF32 (((decF32 a).mul (decF32 b)).add (decF32 c))
def f32neg (a : Word) : Word := a ^^^ 0x80000000
def f32sub (a b : Word) : Word := toF32 ((decF32 a).add (decF32 b).neg)

/-- Order of two values, −0 below +0; NaN apart. -/
def Fp.lt : Fp → Fp → Bool
  | .nan, _ => false
  | _, .nan => false
  | .inf a, .inf b => a && !b
  | .inf a, _ => a
  | _, .inf b => !b
  | .fin a m e, .fin b n f =>
    let g := min e f
    let x : Int := (if a then -1 else 1) * (m * 2 ^ (e - g).toNat : Nat)
    let y : Int := (if b then -1 else 1) * (n * 2 ^ (f - g).toNat : Nat)
    if x = y then a && !b else decide (x < y)

/-- Maximum and minimum: NaN if either is NaN; +0 counts larger than −0 (R100). -/
def f32max (a b : Word) : Word :=
  if (decF32 a).isNan ∨ (decF32 b).isNan then nan32 else if (decF32 a).lt (decF32 b) then b else a
def f32min (a b : Word) : Word :=
  if (decF32 a).isNan ∨ (decF32 b).isNan then nan32 else if (decF32 b).lt (decF32 a) then b else a

/-! ## The canonical tree (R86) -/

def treePairs (f : Word → Word → Word) : List Word → List Word
  | a :: b :: r => f a b :: treePairs f r
  | l => l

/-- The canonical tree over 2^d values with f at each node. -/
def treeFold (f : Word → Word → Word) : Nat → List Word → Word
  | 0, l => l.headD 0
  | d + 1, l => treeFold f d (treePairs f l)

/-! ## Element formats (R81 to R84) -/

/-- A decoded element: NaN code, infinity, or an integer in units of the format's u. -/
inductive Elem where
  | nan
  | inf (neg : Bool)
  | val (e : Int)
deriving DecidableEq, Repr

/-- Element width in bits. -/
def fmtBits (f : Nat) : Nat :=
  if f = 2 ∨ f = 3 then 6 else if f = 4 then 4 else if f = 6 then 2 else if f = 7 then 16 else if f = 8 then 32 else 8

/-- Mantissa width of a floating element format. -/
def fmtMant (f : Nat) : Nat := if f = 0 then 3 else if f = 1 then 2 else if f = 2 then 2 else if f = 3 then 3 else 1

/-- Exponent of the unit u: u = 2^fmtUnit. -/
def fmtUnit (f : Nat) : Int :=
  if f = 0 then -9 else if f = 1 then -16 else if f = 2 then -4 else if f = 3 then -3 else if f = 4 then -1
  else if f = 5 then -6 else 0

/-- Bytes of a 32-element block (R83). -/
def blockBytes (f : Nat) : Nat := 4 * fmtBits f

/-- DEDUCED, assumption 21. -/
def decElem (f c : Nat) : Elem :=
  if f = 5 then .val (if c < 128 then (c : Int) else (c : Int) - 256)
  else if f = 6 then .val (if c = 1 then 1 else if c = 2 then -1 else 0)
  else
    let w := fmtMant f
    let s := decide (c / 2 ^ (fmtBits f - 1) = 1)
    let e := c % 2 ^ (fmtBits f - 1) / 2 ^ w
    let m := c % 2 ^ w
    if f = 0 ∧ e = 15 ∧ m = 7 then .nan
    else if f = 1 ∧ e = 31 then (if m = 0 then .inf s else .nan)
    else
      let v : Nat := if e = 0 then m else (2 ^ w + m) * 2 ^ (e - 1)
      .val (if s then -(v : Int) else v)

/-- Element k of a block held as bytes: bits w × k + w − 1 : w × k of its little-endian bit string (R83). (DEDUCED, assumption 21) -/
def blockElem (f : Nat) (bs : List Byte) (k : Nat) : Nat := fieldOf (leNat bs) (fmtBits f * k) (fmtBits f)

/-- An E8M0 scale: its exponent, none for NaN (R82). -/
def scaleExp (x : Nat) : Option Int := if x = 255 then none else some ((x : Int) - 127)

/-! ## Quantisation (R102) -/

def fmtEmax (f : Nat) : Int := if f = 0 then 8 else if f = 1 then 15 else if f = 2 then 4 else if f = 3 then 2 else if f = 4 then 2 else 0

/-- Largest magnitude of a floating element format, in units of u. -/
def fmtMaxUnits (f : Nat) : Nat :=
  if f = 0 then 448 * 512 else if f = 1 then 57344 * 65536 else if f = 2 then 28 * 16 else if f = 3 then 60 else 12

/-- floor(log2 m × 2^e) for m ≠ 0. -/
def floorLog2 (m : Nat) (e : Int) : Int := (Nat.log2 m : Nat) + e

/-- The code of a magnitude of u units that the format holds, sign apart. -/
def packElem (f units : Nat) : Nat :=
  let w := fmtMant f
  if units < 2 ^ w then units
  else
    let sh := Nat.log2 units - w
    (sh + 1) * 2 ^ w + (units / 2 ^ sh - 2 ^ w)

/-- One lane y = x × 2^−s to its element code, and whether it saturated or was limited. -/
def quantElem (f : Nat) (neg : Bool) (m : Nat) (e : Int) : Nat × Bool :=
  if f = 5 then
    let r := roundMag (Nat.log2 m + 500) 0 m (e + 6)
    let i := r.1 * 2 ^ r.2.toNat
    let lim := decide (127 < i)
    let v := min i 127
    (if v = 0 then 0 else if neg then 256 - v else v, lim)
  else
    let r := roundMag (fmtMant f + 1) (fmtUnit f) m e
    let units := r.1 * 2 ^ (r.2 - fmtUnit f).toNat
    let sat := decide (fmtMaxUnits f < units)
    let u := min units (fmtMaxUnits f)
    let code := packElem f u
    (if u = 0 then 0 else if neg then 2 ^ (fmtBits f - 1) + code else code, sat)

/-- One block of lanes: element codes, scale byte, number of saturated elements (R102). -/
def quantBlock (f : Nat) (lanes : List Word) : List Nat × Nat × Nat :=
  let vs := lanes.map decF32
  let special := vs.any (fun v => match v with | .fin _ _ _ => false | _ => true)
  if special then (lanes.map (fun _ => 0), 0xFF, 0)
  else
    let best := lanes.foldl (fun (a : Nat) w => max a (w.toNat % 2 ^ 31)) 0
    if best = 0 then (lanes.map (fun _ => 0), 0x7F, 0)
    else
      let fl := match decF32 (BitVec.ofNat 32 best) with
        | .fin _ m e => floorLog2 m e
        | _ => 0
      let sc := max (fl - fmtEmax f) (-127)
      let cs := vs.map (fun v => match v with
        | .fin s m e => quantElem f s m (e - sc)
        | _ => (0, false))
      (cs.map (fun c => c.1), (sc + 127).toNat, (cs.filter (fun c => c.2)).length)

/-- Element codes packed into the bytes of a block (R83). -/
def packBlock (f : Nat) (codes : List Nat) : List Byte :=
  leBytes (blockBytes f) (codes.foldr (fun c a => c + a * 2 ^ fmtBits f) 0)

/-- The activation record of 64 lanes (R93, R102) and the number of saturated elements. -/
def quantRecord (f : Nat) (lanes : List Word) : List Byte × Nat :=
  let a := quantBlock f (lanes.take 32)
  let b := quantBlock f (lanes.drop 32)
  let body := packBlock f a.1 ++ packBlock f b.1
  let pad := (32 - body.length % 32) % 32
  (body ++ List.replicate pad 0 ++ [BitVec.ofNat 8 a.2.1, BitVec.ofNat 8 b.2.1] ++ List.replicate 30 0, a.2.2 + b.2.2)

/-! ## Special functions (R103). Tables and coefficients are the FP32 values nearest to the stated real numbers, formed here from
256-bit fixed-point values whose error is far below half an FP32 step. -/

/-- A fixed-point number x / 2^256 rounded to FP32. -/
def fxF32 (x : Int) : Word := toF32 (.fin (decide (x < 0)) x.natAbs (-256))

/-- 2^256 × (sum of z^(2k+1) / (2k+1)) for z = zf / 2^256, k < n: the inverse hyperbolic tangent. -/
def fxAtanh (zf : Int) : Nat → Int
  | 0 => 0
  | n + 1 => fxAtanh zf n + (zf ^ (2 * n + 1) / (2 ^ 256) ^ (2 * n)) / ((2 * n + 1 : Nat) : Int)

/-- ln 2 = 2 × atanh(1/3), scaled by 2^256. -/
def fxLn2 : Int := 2 * fxAtanh ((2 : Int) ^ 256 / 3) 90

/-- The largest x with x^k ≤ v, found bit by bit from bit b down. -/
def rootBits (k v : Nat) : Nat → Nat → Nat
  | 0, x => x
  | b + 1, x => let y := x + 2 ^ b; rootBits k v b (if y ^ k ≤ v then y else x)

/-- T[i] = 2^(i/64): the 64th root of 2^(64 × 23 + i), to nearest. -/
def exp2T (i : Nat) : Word :=
  let x := rootBits 64 (2 ^ (64 * 24 + i)) 26 0
  packF32 false ((x + 1) / 2) (-23)

def exp2C (j : Nat) : Word :=
  if j = 1 then fxF32 fxLn2
  else if j = 2 then fxF32 (fxLn2 * fxLn2 / 2 ^ 256 / 2)
  else fxF32 (fxLn2 * fxLn2 * fxLn2 / 2 ^ 512 / 6)

/-- floor of m × 2^e. -/
def floorDy (neg : Bool) (m : Nat) (e : Int) : Int :=
  let x : Int := if neg then -(m : Int) else m
  if 0 ≤ e then x * 2 ^ e.toNat else x / 2 ^ (-e).toNat

def sfExp2 (w : Word) : Word :=
  match decF32 w with
  | .nan => nan32
  | .inf s => if s then 0 else 0x7F800000
  | .fin s m e =>
    let n := floorDy s m e
    if 128 ≤ n then 0x7F800000
    else if n < -150 then 0
    else
      let f := (Fp.fin s m e).add (.fin (decide (0 < n)) n.natAbs 0)
      match f with
      | .fin _ fm fe =>
        let i := (floorDy false fm (fe + 6)).toNat
        let r := toF32 ((Fp.fin false fm fe).add (.fin true i (-6)))
        let q := f32fma (exp2C 3) r (exp2C 2)
        let q := f32fma q r (exp2C 1)
        let t := f32mul q r
        let y := f32fma (exp2T i) t (exp2T i)
        toF32 ((decF32 y).scale n)
      | _ => nan32

/-- R[i] = 1 / (0.75 + i/128). -/
def log2R (i : Nat) : Word := fxF32 ((2 : Int) ^ 256 * 128 / ((96 + i : Nat) : Int))

/-- L[i] = −log2 R[i], with R[i] as rounded. -/
def log2L (i : Nat) : Word :=
  match decF32 (log2R i) with
  | .fin _ m e =>
    let r : Int := (m : Int) * 2 ^ (256 + e).toNat
    let one : Int := 2 ^ 256
    let z := (r - one) * one / (r + one)
    fxF32 (-(2 * fxAtanh z 70 * one / fxLn2))
  | _ => 0

/-- d_j = (−1)^(j+1) / (j ln 2). -/
def log2D (j : Nat) : Word :=
  let v : Int := (2 : Int) ^ 512 / (fxLn2 * ((j : Nat) : Int))
  fxF32 (if j % 2 = 1 then v else -v)

/-- A positive value m × 2^e scaled to [lo, 2 lo) where lo = 2^k × l, as (mantissa value, exponent). -/
def sfLog2 (w : Word) : Word :=
  match decF32 w with
  | .nan => nan32
  | .inf s => if s then nan32 else 0x7F800000
  | .fin s m e =>
    if m = 0 then 0xFF800000
    else if s then nan32
    else
      let l := (Nat.log2 m : Nat)
      -- m × 2^−l lies in [1, 2); at 1.5 and above the mantissa is halved
      let high := decide (3 * 2 ^ l ≤ 2 * m)
      let me : Int := if high then -(l : Int) - 1 else -(l : Int)
      let ex : Int := e - me
      let mm := Fp.fin false m me
      let i := match mm.add (.fin true 3 (-2)) with
        | .fin _ a b => (floorDy false a (b + 7)).toNat
        | _ => 0
      let z := toF32 ((mm.mul (decF32 (log2R i))).add (.fin true 1 0))
      let q := f32fma (log2D 4) z (log2D 3)
      let q := f32fma q z (log2D 2)
      let q := f32fma q z (log2D 1)
      let t := f32fma z q (log2L i)
      toF32 ((Fp.fin (decide (ex < 0)) ex.natAbs 0).add (decF32 t))

def rcpT (i : Nat) : Word := fxF32 ((2 : Int) ^ 256 * 256 / ((257 + 2 * i : Nat) : Int))

def sfRcp (w : Word) : Word :=
  match decF32 w with
  | .nan => nan32
  | .inf s => if s then 0x80000000 else 0
  | .fin s m e =>
    if m = 0 then (if s then 0xFF800000 else 0x7F800000)
    else
      let l := (Nat.log2 m : Nat)
      let mm := Fp.fin false m (-(l : Int))
      let ex : Int := e + l
      let i := m * 128 / 2 ^ l - 128
      let t0 := rcpT i
      let z := toF32 ((mm.neg.mul (decF32 t0)).add (.fin false 1 0))
      let t := f32fma z z z
      let t := f32fma t z z
      let y := f32fma t0 t t0
      match (decF32 y).scale (-ex) with
      | .fin _ a b => toF32 (.fin s a b)
      | v => toF32 v

/-- T[i] = 1/√(1 + (2i + 1)/128) = √(128 / (129 + 2i)). -/
def rsqrtT (i : Nat) : Word := fxF32 (rootBits 2 (128 * 2 ^ 512 / (129 + 2 * i)) 257 0 : Nat)
def rsqrtU (i : Nat) : Word := f32mul (rsqrtT i) (rsqrtT i)

def sfRsqrt (w : Word) : Word :=
  match decF32 w with
  | .nan => nan32
  | .inf s => if s then nan32 else 0
  | .fin s m e =>
    if m = 0 then (if s then 0xFF800000 else 0x7F800000)
    else if s then nan32
    else
      let l := (Nat.log2 m : Nat)
      let ex0 : Int := e + l
      let odd := ex0 % 2 = 1
      let ex : Int := if odd then ex0 - 1 else ex0
      let mm := Fp.fin false m (if odd then 1 - (l : Int) else -(l : Int))
      let i := (if odd then m * 128 / 2 ^ l else m * 64 / 2 ^ l) - 64
      let z := toF32 ((mm.neg.mul (decF32 (rsqrtU i))).add (.fin false 1 0))
      let q := f32fma 0x3EA00000 z 0x3EC00000
      let q := f32fma q z 0x3F000000
      let t := f32mul q z
      let y := f32fma (rsqrtT i) t (rsqrtT i)
      toF32 ((decF32 y).scale (-(ex / 2)))

/-- 2^256 × e^(1/32), by its Taylor series. -/
def fxExpStep : Nat → Int × Int
  | 0 => (2 ^ 256, 2 ^ 256)
  | n + 1 =>
    let p := fxExpStep n
    let term := p.1 / (32 * ((n + 1 : Nat) : Int))
    (term, p.2 + term)

/-- 2^256 × e^(i/32). -/
def fxExp : Nat → Int
  | 0 => 2 ^ 256
  | i + 1 => fxExp i * (fxExpStep 50).2 / 2 ^ 256

/-- C_j[i]: the j-th Taylor coefficient of tanh at i/64, from t = tanh(i/64) and u = 1 − t²: t, u, −t u, u (3 t² − 1) / 3,
t u (2 − 3 t²) / 3. -/
def tanhC (j i : Nat) : Word :=
  let one : Int := 2 ^ 256
  let ex := fxExp i
  let t := (ex - one) * one / (ex + one)
  -- u = 4 E / (E + 1)²
  let u := 4 * ex * one / (ex + one) * one / (ex + one)
  let t2 := t * t / one
  if j = 0 then fxF32 t
  else if j = 1 then fxF32 u
  else if j = 2 then fxF32 (-(t * u / one))
  else if j = 3 then fxF32 (u * (3 * t2 - one) / (3 * one))
  else fxF32 (t * u / one * (2 * one - 3 * t2) / (3 * one))

def sfTanh (w : Word) : Word :=
  match decF32 w with
  | .nan => nan32
  | .inf s => if s then 0xBF800000 else 0x3F800000
  | .fin s m e =>
    let a := Fp.fin false m e
    if !a.lt (.fin false 9 0) then (if s then 0xBF800000 else 0x3F800000)
    else if a.lt (.fin false 1 (-12)) then w
    else
      let i := (floorDy false m (e + 6)).toNat
      let r := toF32 (a.add (.fin true i (-6)))
      let q := f32fma (tanhC 4 i) r (tanhC 3 i)
      let q := f32fma q r (tanhC 2 i)
      let q := f32fma q r (tanhC 1 i)
      let y := f32fma q r (tanhC 0 i)
      if s then y ||| 0x80000000 else y

def sfSigmoid (w : Word) : Word :=
  if (decF32 w).isNan then nan32
  else f32fma 0x3F000000 (sfTanh (f32mul w 0x3F000000)) 0x3F000000

/-- VSFN function codes 0 to 5 (R70). -/
def specialFn (f : Nat) (w : Word) : Word :=
  if f = 0 then sfExp2 w else if f = 1 then sfLog2 w else if f = 2 then sfRcp w else if f = 3 then sfRsqrt w
  else if f = 4 then sfTanh w else sfSigmoid w

end Sys2Proof.Machine
end

