-- ==== Sys2Proof/Machine/Tensor.lean ====
section
/-!
DEFINITION. The tensor engine: TCFG, TMMA and TZERO (R68, R69, R84 to R99, R264).
-/

namespace Sys2Proof.Machine

open Sys2Proof

/-! ## Formats and layouts (R69, R92, R93) -/

def pairOk (fw fa : Nat) : Bool :=
  (decide (fw ≤ 4) && decide (fa ≤ 4)) || (fw = 5 && fa = 5) || (fw = 6 && decide (fa ≤ 1)) || (fw = 7 && fa = 7)

/-- Bytes of a column sum in a panel; none for BF16. -/
def csumWidth (fw : Nat) : Nat := if fw = 0 then 4 else if fw = 1 then 8 else if fw = 7 then 0 else 2

/-- Panel size Pw. (DESIGN CHOICE, assumption 19) -/
def panelBytes (fw : Nat) : Nat :=
  if fw = 7 then 2048 else 32 * blockBytes fw + 32 + 32 * csumWidth fw

/-- Activation record size. -/
def recBytes (fa : Nat) : Nat := if fa = 7 then 128 else if fa = 4 then 64 else 96

/-! ## One block (R87 to R91) -/

/-- The 32 elements of a block held in the bytes of a number. -/
def blockElems (f bits : Nat) : List Elem := (fromTo 0 32).map (fun k => decElem f (fieldOf bits (fmtBits f * k) (fmtBits f)))

/-- The block value of R90: none where no row of its table applies. -/
def specialValue (as ws : List Elem) (xa xw : Nat) : Option Word :=
  let prods := as.zip ws
  let isNan (e : Elem) : Bool := e = .nan
  let infs : List Bool := prods.filterMap (fun p => match p with
    | (.inf a, .inf b) => some (a != b)
    | (.inf a, .val v) => some (a != decide (v < 0))
    | (.val v, .inf b) => some (b != decide (v < 0))
    | _ => none)
  if xa = 255 ∨ xw = 255 then some nan32
  else if as.any isNan || ws.any isNan then some nan32
  else if prods.any (fun p => match p with
    | (.inf _, .val v) => v = 0
    | (.val v, .inf _) => v = 0
    | _ => false) then some nan32
  else if infs.contains true && infs.contains false then some nan32
  else if infs.contains true then some 0xFF800000
  else if infs.contains false then some 0x7F800000
  else none

/-- The value of an element in its exact unit. An infinity or a NaN counts 0: R84 and R96 give the value of a T2 code 0b11 only, and no rule
compares a block that holds one (R97). (DEDUCED, assumption 21) -/
def Elem.int : Elem → Int
  | .val v => v
  | _ => 0

/-- The product that cell (k, n) makes at a use: exact, unless the cell fails (R99). (DESIGN CHOICE, assumption 19) -/
def cellMul (faults : List CellFault) (use : List Nat) (k n : Nat) (a w : Int) : Int :=
  if faults.contains (.cell k n) then Config.cellProduct use k n a w else a * w

/-- The sum that the block adder tree of column n gives: exact, unless the tree fails (R99). (DESIGN CHOICE, assumption 19) -/
def treeOut (faults : List CellFault) (use : List Nat) (n : Nat) (v : Int) : Int :=
  if faults.contains (.tree n) then Config.treeSum use n v else v

/-- The weight as the array holds it (R99). (DESIGN CHOICE, assumption 19) -/
def heldElem (faults : List CellFault) (use : List Nat) (k n : Nat) (w : Int) : Int :=
  if faults.contains (.weight k n) then Config.heldWeight use k n w else w

/-- A of R87 in the 72-bit block accumulator. -/
def blockAcc (faults : List CellFault) (use : List Nat) (n : Nat) (as ws : List Elem) : Int :=
  let sum := ((as.zip ws).zipIdx).foldl (fun s p =>
    s + cellMul faults use p.2 n p.1.1.int (heldElem faults (use.take 3) p.2 n p.1.2.int)) (0 : Int)
  (BitVec.ofInt 72 (treeOut faults use n sum)).toInt

/-- V of R88. -/
def blockValue (fw fa : Nat) (a : Int) (xa xw : Nat) : Word :=
  if a = 0 then 0
  else toF32 (.fin (decide (a < 0)) a.natAbs (fmtUnit fa + fmtUnit fw + ((xa : Int) - 127) + ((xw : Int) - 127)))

/-- V of R91. (DESIGN CHOICE, assumption 19) -/
def bf16Value (faults : List CellFault) (use : List Nat) (n : Nat) (as ws : List Word) : Word :=
  treeFold f32add 5 (((as.zip ws).zipIdx).map (fun p =>
    if faults.contains (.cell p.2 n) then Config.cellProductBf16 use p.2 n p.1.1 p.1.2 else f32mul p.1.1 p.1.2))

/-! ## One panel over the rows of a TMMA -/

/-- A weight panel as loaded: per column its elements (codes too) and scale, and the column sums. -/
structure Panel where
  codes : List (List Nat)
  scales : List Nat
  csums : List Int

def signedLe (w v : Nat) : Int := if 2 * v < 2 ^ (8 * w) then (v : Int) else (v : Int) - (2 ^ (8 * w) : Nat)

/-- DEDUCED, assumption 20. -/
def loadPanel (fw : Nat) (bs : List Byte) : Panel :=
  let eb := blockBytes fw
  let cw := csumWidth fw
  { codes := (fromTo 0 32).map (fun n =>
      let bits := leNat ((bs.drop (n * eb)).take eb)
      (fromTo 0 32).map (fun k => fieldOf bits (fmtBits fw * k) (fmtBits fw)))
    scales := (fromTo 0 32).map (fun n => ((bs.drop (32 * eb)).getD n 0).toNat)
    csums := (fromTo 0 32).map (fun k => signedLe cw (leNat ((bs.drop (32 * eb + 32 + k * cw)).take cw))) }

/-- Codes 0b11 of a T2 panel, in the order of R84: (column, element). -/
def badCodes (fw : Nat) (p : Panel) : List (Nat × Nat) :=
  if fw = 6 then
    (p.codes.zipIdx).flatMap (fun c => (c.1.zipIdx).filterMap (fun e => if e.1 = 3 then some (c.2, e.2) else none))
  else []

/-- An activation block: element codes and scale. -/
structure ActBlock where
  codes : List Nat
  scale : Nat

/-- Block kb of a row: its elements and, in its record's scale unit, its scale (R93). -/
def actBlock (fa kb : Nat) (elems unit : List Byte) : ActBlock :=
  { codes := (fromTo 0 32).map (fun k => fieldOf (leNat elems) (fmtBits fa * k) (fmtBits fa))
    scale := (unit.getD (kb % 2) 0).toNat }

/-- What one row gives against one panel: the 32 block values, how many of them are special, whether the checksum differs
(R97). -/
structure RowOut where
  vs : List Word
  special : Nat
  differs : Bool

def rowBlock (faults : List CellFault) (use : List Nat) (fw fa : Nat) (p : Panel) (a : ActBlock) : RowOut :=
  if fw = 7 then
    let as := a.codes.map (fun c => BitVec.ofNat 32 (c * 65536))
    { vs := (p.codes.zipIdx).map (fun c => bf16Value faults use c.2 as (c.1.map (fun x => BitVec.ofNat 32 (x * 65536))))
      special := 0, differs := false }
  else
    let as := a.codes.map (decElem fa)
    let cols := (p.codes.zipIdx).map (fun c =>
      let ws := c.1.map (decElem fw)
      let xw := p.scales.getD c.2 0
      let acc := blockAcc faults use c.2 as ws
      (specialValue as ws a.scale xw, acc, blockValue fw fa acc a.scale xw))
    let special := (cols.filter (fun c => c.1.isSome)).length
    let x := treeOut faults use 32 (((as.zip p.csums).zipIdx).foldl (fun s q =>
      s + cellMul faults use q.2 32 q.1.1.int (heldElem faults (use.take 3) q.2 32 q.1.2)) (0 : Int))
    let y := cols.foldl (fun s c => s + c.2.1) (0 : Int)
    { vs := cols.map (fun c => c.1.getD c.2.2)
      special := special
      differs := special = 0 && (BitVec.ofInt 80 x != BitVec.ofInt 80 y) }

/-! ## A whole TMMA (R89) -/

structure MmaAcc where
  rows : List (List Word)
  special : Nat := 0
  t2 : Nat := 0
  csums : Nat := 0
  last : Option (Nat × Nat) := none
  stop : Option (Nat × Nat) := none

/-- The codes 0b11 of a panel, at its load: the first stops the TMMA in strict mode, else each is counted (R84). -/
def mmaCodes (fw : Nat) (strict : Bool) (p : Panel) (m : MmaAcc) (kb : Nat) : MmaAcc :=
  let bad := badCodes fw p
  match (if strict then bad else []) with
  | c :: _ => { m with stop := some (rsnFormatCode, c.1 * 2 ^ 21 + c.2 * 2 ^ 16 + kb) }
  | [] => { m with t2 := m.t2 + bad.length }

/-- One block kb over the rows: `p` its panel, `acts` its activation blocks by row. Where several rows of a block differ from the checksum, CSUM_LAST
names the lowest in halt mode, where the first ends the TMMA, and the highest in count mode, where each is recorded in turn: R98 states no order
among rows. (DESIGN CHOICE, assumption 20) -/
def mmaStep (faults : List CellFault) (use : List Nat) (cfg : TeCfg) (count acc : Bool) (p : Panel) (acts : List ActBlock) (m : MmaAcc) (kb : Nat) :
    MmaAcc :=
  let outs := (acts.zipIdx).map (fun a => rowBlock faults (use ++ [kb, a.2]) cfg.fw cfg.fa p a.1)
  let diffs := (outs.zipIdx).filterMap (fun o => if o.1.differs then some o.2 else none)
  let rows := (m.rows.zip outs).map (fun q =>
    if kb = 0 ∧ !acc then q.2.vs else (q.1.zip q.2.vs).map (fun v => f32add v.1 v.2))
  let m1 := { m with rows := rows, special := m.special + (outs.foldl (fun a o => a + o.special) 0) }
  match diffs with
  | [] => m1
  | r :: _ =>
    if count then { m1 with csums := m1.csums + diffs.length, last := some (diffs.getLastD r, kb) }
    else { m1 with csums := m1.csums + 1, last := some (r, kb), stop := some (rsnChecksum, kb) }

def wordsOf (n : Nat) (bs : List Byte) : List Word := (fromTo 0 n).map (fun i => BitVec.ofNat 32 (leNat ((bs.drop (4 * i)).take 4)))

/-- Ranges of a TMMA: weights, activations, partial sums (R92 to R94). -/
def mmaRanges (cfg : TeCfg) (w a p : Nat) : List (Nat × Nat × Nat) :=
  [(0, w, cfg.kb * panelBytes cfg.fw), (1, a, cfg.mr * ((cfg.kb + 1) / 2 * recBytes cfg.fa)), (2, p, cfg.mr * 128)]

/-- The parts of a TMMA's activation rows that are read: where KB is odd, not block 1 of a row's last record (R93). -/
def actRanges (cfg : TeCfg) (a : Nat) : List (Nat × Nat × Nat) :=
  let rb := recBytes cfg.fa
  let nr := (cfg.kb + 1) / 2
  if cfg.kb % 2 = 0 then [(1, a, cfg.mr * (nr * rb))]
  else (fromTo 0 cfg.mr).flatMap (fun r =>
    let last := a + r * (nr * rb) + (nr - 1) * rb
    [(1, a + r * (nr * rb), (nr - 1) * rb + blockBytes cfg.fa)] ++ (if cfg.fa = 7 then [] else [(1, last + rb - 32, 32)]))

/-- The wide accesses of a TMMA: weights, activations as read, partial sums (R92 to R94, R113). -/
def mmaWide (cfg : TeCfg) (w a p : Nat) : List (Nat × Nat) :=
  wideOf ((0, w, cfg.kb * panelBytes cfg.fw) :: actRanges cfg a ++ [(2, p, cfg.mr * 128)])

/-- The counters of a TMMA: special values, T2 codes, checksum mismatches (R84, R90, R98). (DEDUCED, assumption 20) -/
def State.mmaCounts (s : State) (t : Nat) (m : MmaAcc) : State :=
  let c := clusterOf t
  let s1 := ((s.bump (ariReg c 0x10) m.special).bump (ariReg c 0x0C) m.t2).bump (ariReg c 4) m.csums
  match m.last with
  | none => s1
  | some (r, kb) => ((fromTo 0 m.csums).foldl (fun q _ => q.health (partCluster c) 1) s1).setReg (ariReg c 8)
      (BitVec.ofNat 32 (2 ^ 31 + bit (m.stop.any (fun x => x.1 = rsnChecksum)) * 2 ^ 30 + r * 2 ^ 24 + t * 2 ^ 12 + kb))

/-- A read of a TMMA: nothing more once one has met an uncorrectable word, whose ECC_UNCORRECTABLE then stops it (R120). -/
def State.mmaRead (q : State × MmaAcc) (k : Issue) (mem off n : Nat) : (State × MmaAcc) × List Byte :=
  if q.2.stop.isSome then (q, [])
  else
    let rd := q.1.engRead k .te mem off n
    ((rd.1, { q.2 with stop := rd.2.2.map (fun o => (rsnEcc, eccInfo mem o)) }), rd.2.1)

/-- Block kb of a TMMA, in the order of its reads: the panel with its codes, the activation blocks row by row, and before the first sum the rows of
PM where ACC is 1; then its numbers. A stop in an earlier block lets nothing more happen (R84, R89, R90, R98, R120). (DEDUCED, assumption 20) -/
def State.mmaBlock (k : Issue) (cfg : TeCfg) (acc : Bool) (use : List Nat) (w a p : Nat) (q : State × MmaAcc) (kb : Nat) : State × MmaAcc :=
  let x := q.1.tile k.tile.toNat
  let t := k.tile.toNat
  let phys (mem o : Nat) : Nat := (q.1.taskWin t x.task.toNat mem).1 + o
  let pw := panelBytes cfg.fw
  let rb := recBytes cfg.fa
  let eb := blockBytes cfg.fa
  let ld := State.mmaRead q k 0 (phys 0 (w + kb * pw)) pw
  let panel := loadPanel cfg.fw ld.2
  let pan := if ld.1.2.stop.isSome then ld.1 else (ld.1.1, mmaCodes cfg.fw x.strict panel ld.1.2 kb)
  let acts := (fromTo 0 cfg.mr).foldl (fun (z : (State × MmaAcc) × List ActBlock) r =>
    let rec_ := a + r * ((cfg.kb + 1) / 2 * rb) + kb / 2 * rb
    let e := State.mmaRead z.1 k 1 (phys 1 (rec_ + kb % 2 * eb)) eb
    let u := if cfg.fa = 7 then (e.1, []) else State.mmaRead e.1 k 1 (phys 1 (rec_ + rb - 32)) 32
    (u.1, z.2 ++ [actBlock cfg.fa kb e.2 u.2])) (pan, [])
  let pm := if acc ∧ kb = 0 then State.mmaRead acts.1 k 2 (phys 2 p) (cfg.mr * 128) else (acts.1, [])
  let m := pm.1.2
  if m.stop.isSome then pm.1
  else
    let m1 := if acc ∧ kb = 0 then { m with rows := (fromTo 0 cfg.mr).map (fun r => wordsOf 32 (pm.2.drop (128 * r))) } else m
    (pm.1.1, mmaStep x.cellFaults use cfg x.csumCount acc panel acts.2 m1 kb)

/-- A TMMA whose operands are in range: what its reads leave, and its numbers. -/
def State.mmaRun (q : State) (k : Issue) (cfg : TeCfg) (acc : Bool) (w a p : Nat) : State × MmaAcc :=
  let t := k.tile.toNat
  let faulty := (q.tile t).cellFaults ≠ []
  let r := (fromTo 0 cfg.kb).foldl (State.mmaBlock k cfg acc [q.freeCtr, t] w a p) (q, { rows := List.replicate cfg.mr (List.replicate 32 0) })
  (if faulty then { r.1 with freeCtr := r.1.freeCtr + 1 } else r.1, r.2)

/-! ## The opcodes -/

/-- TCFG: a pair that R69 does not permit, KB 0 or MR outside 1 to 64 halts with FORMAT. -/
def execTcfg (k : Issue) (fw fa : BitVec 4) (kb : BitVec 8) (mr : BitVec 7) (s : State) : Res :=
  let t := k.tile.toNat
  .next (s.issuePlain .te k (fun q =>
    if pairOk fw.toNat fa.toNat ∧ kb ≠ 0 ∧ mr ≠ 0 ∧ mr.toNat ≤ 64 then
      .tile q t (fun x => { x with te := some ⟨fw.toNat, fa.toNat, kb.toNat, mr.toNat⟩ })
    else .stop [(rsnFormat, q.imWord t .te)]))

/-- POWER_BUDGET of a TMMA in window g: one member more than its budget allows (R264). -/
def budgetCond (q : State) (t g : Nat) : List (Nat × Nat) :=
  let x := q.tile t
  let c := clusterOf t
  let in_ := (q.members c x.seg x.count).filter (fun m => m.2 = g)
  let n := in_.length + (if in_.contains (t, g) then 0 else 1)
  let lim := (q.budgetOf x.seg c g).teMax
  if lim < n then [(rsnPowerBudget, g * 2 ^ 16 + (lim + 1))] else []

/-- Conditions of a TMMA at its issue: bounds, the budget of its window, alignment (R63, R110, R264). -/
def mmaConds (q : State) (t g : Nat) (cfg : TeCfg) (w a p : Nat) : List (Nat × Nat) :=
  (match q.boundCheck t (q.tile t).task.toNat (mmaRanges cfg w a p) with | some i => [(rsnBound, i)] | none => []) ++
  budgetCond q t g ++
  (if w % 32 ≠ 0 ∨ a % 32 ≠ 0 ∨ p % 32 ≠ 0 then [(rsnFormat, q.imWord t .te)] else [])

/-- The Kettle's stagger holds a start that L has no room for, or that another held start comes before (R266, R267). -/
def kettleHold (u : Nat) (q : State) : Option (Hold × State) :=
  if q.mayStart u then none else some (.kettle, q.holdUnit u)

def execTmma (k : Issue) (acc : Bool) (wref aref pref : TRef) (clash : Option Clash) (s : State) : Res :=
  let t := k.tile.toNat
  let g := gateNo k
  .next (s.issue .te k [] (kettleHold (teUnit t)) false (fun q =>
    let x := q.tile t
    let y := x.eng .te
    let w := y.tref wref
    let a := y.tref aref
    let p := y.tref pref
    match x.te with
    | none => .stop (budgetCond q t g ++ [(rsnFormat, q.imWord t .te)])
    | some cfg => match mmaConds q t g cfg w a p with
      | c :: r => .stop (c :: r)
      | [] =>
        let wide := mmaWide cfg w a p
        match x.clashes .te wide clash with
        | c :: cs => .clash (c :: cs)
        | [] =>
          let q0 := q.joinWindow t g
          let pm := (q.taskWin t x.task.toNat 2).1 + p
          let m := q0.mmaRun k cfg acc w a p
          let s1 := m.1.mmaCounts t m.2
          match m.2.stop with
          | some (r, i) => .fail (s1.tmFree t 2 pm (cfg.mr * 128)) r i
          | none => .store (s1.startUnit (teUnit t)) 2 pm (m.2.rows.flatMap (fun row => row.flatMap (fun v => leBytes 4 v.toNat))) wide true))

/-- TZERO: +0.0 over MR × 32 values of PM. -/
def execTzero (k : Issue) (pref : TRef) (clash : Option Clash) (s : State) : Res :=
  let t := k.tile.toNat
  .next (s.issuePlain .te k (fun q =>
    let x := q.tile t
    let p := (x.eng .te).tref pref
    match x.te with
    | none => .stop [(rsnFormat, q.imWord t .te)]
    | some cfg =>
      let rs := [(2, p, cfg.mr * 128)]
      match (match q.boundCheck t x.task.toNat rs with | some i => [(rsnBound, i)] | none => []) ++
          (if p % 32 ≠ 0 then [(rsnFormat, q.imWord t .te)] else []) with
      | c :: r => .stop (c :: r)
      | [] =>
        match x.clashes .te (wideOf rs) clash with
        | c :: cs => .clash (c :: cs)
        | [] =>
          .store q 2 ((q.taskWin t x.task.toNat 2).1 + p) (List.replicate (cfg.mr * 128) 0) (wideOf rs) false))

end Sys2Proof.Machine
end

