-- ==== Sys2Proof/Machine/Vector.lean ====
section
/-!
DEFINITION. The vector engine (R70, R100 to R104). Every operation goes through the firing rule.
-/

namespace Sys2Proof.Machine

open Sys2Proof

/-- Conditions of a 64-lane or Whisk access at its issue: BOUND over its ranges, FORMAT where it is misaligned, names scalar data
memory without being the Whisk, or has a format code that is not valid (R63, R70, R110). -/
def accessConds (q : State) (t : Nat) (e : Engine) (rs : List (Nat × Nat × Nat)) (bad : Bool) : List (Nat × Nat) :=
  (match q.boundCheck t (q.tile t).task.toNat rs with | some i => [(rsnBound, i)] | none => []) ++
  (if bad || rs.any (fun r => decide (r.2.1 % 32 ≠ 0)) || (e ≠ .whisk && rs.any (fun r => r.1 = 3)) then
    [(rsnFormat, q.imWord t e)] else [])

/-- A wide access: the checks, the clash, then the work. -/
def wideAccess (e : Engine) (k : Issue) (rs : EngineState → List (Nat × Nat × Nat)) (bad : Bool) (clash : Option Clash)
    (work : State → List (Nat × Nat) → Run) (s : State) : State :=
  let t := k.tile.toNat
  s.issuePlain e k (fun q =>
    let x := q.tile t
    let r := rs (x.eng e)
    match accessConds q t e r bad with
    | c :: cs => .stop (c :: cs)
    | [] => match x.clashes e (wideOf r) clash with
      | c :: cs => .clash (c :: cs)
      | [] => work q (wideOf r))

/-- Bytes that VLD and VST move: 64 elements of FP32 (0x8) or BF16 (0x7) (R101). -/
def laneBytes (fmt : Nat) : Nat := if fmt = 8 then 256 else 128

def laneVec (l : List Word) : Vector Word 64 := Vector.ofFn (fun i => l.getD i.val 0)

def execVld (k : Issue) (vd fmt : BitVec 4) (m : MRef) (clash : Option Clash) (s : State) : Res :=
  let t := k.tile.toNat
  let n := laneBytes fmt.toNat
  .next (wideAccess .ve k (fun y => [(m.mem.toNat, y.mref m, n)]) (fmt ≠ 7 && fmt ≠ 8) clash (fun q wide =>
    let x := q.tile t
    let o := (q.taskWin t x.task.toNat m.mem.toNat).1 + (x.eng .ve).mref m
    let rd := q.engRead k .ve m.mem.toNat o n
    match rd.2.2 with
    | some w => .fail rd.1 rsnEcc (eccInfo m.mem.toNat w)
    | none =>
      let bs := rd.2.1
      let lanes := (fromTo 0 64).map (fun i =>
        if fmt = 8 then BitVec.ofNat 32 (leNat ((bs.drop (4 * i)).take 4))
        else BitVec.ofNat 32 (leNat ((bs.drop (2 * i)).take 2) * 65536))
      .moves (rd.1.modTile t (fun x => x.setVreg vd (laneVec lanes))) wide (9, vd.toNat, 256)) s)

def execVst (k : Issue) (va fmt : BitVec 4) (m : MRef) (clash : Option Clash) (s : State) : Res :=
  let t := k.tile.toNat
  .next (wideAccess .ve k (fun y => [(m.mem.toNat, y.mref m, laneBytes fmt.toNat)]) (fmt ≠ 7 && fmt ≠ 8) clash (fun q wide =>
    let x := q.tile t
    let o := (q.taskWin t x.task.toNat m.mem.toNat).1 + (x.eng .ve).mref m
    let bs := (x.vreg va).toList.flatMap (fun w =>
      if fmt = 8 then leBytes 4 w.toNat else leBytes 2 ((toBf16 (decF32 w)).toNat / 65536))
    .store q m.mem.toNat o bs wide false) s)

/-! ## Lane arithmetic (R100) -/

/-- A register computed from the tile. -/
def vOp (k : Issue) (vd : BitVec 4) (f : TileState → Vector Word 64) (s : State) : State :=
  s.issuePlain .ve k (fun q => .tile q k.tile.toNat (fun x => x.setVreg vd (f x)))

def execVadd (k : Issue) (vd va vb : BitVec 4) (pr : Bool) (s : State) : Res :=
  .next (vOp k vd (fun x => (x.vreg va).zipWith (fun a b => roundTo pr ((decF32 a).add (decF32 b))) (x.vreg vb)) s)

def execVsub (k : Issue) (vd va vb : BitVec 4) (pr : Bool) (s : State) : Res :=
  .next (vOp k vd (fun x => (x.vreg va).zipWith (fun a b => roundTo pr ((decF32 a).add (decF32 b).neg)) (x.vreg vb)) s)

def execVmul (k : Issue) (vd va vb : BitVec 4) (pr : Bool) (s : State) : Res :=
  .next (vOp k vd (fun x => (x.vreg va).zipWith (fun a b => roundTo pr ((decF32 a).mul (decF32 b))) (x.vreg vb)) s)

def execVfma (k : Issue) (vd va vb vc : BitVec 4) (pr : Bool) (s : State) : Res :=
  .next (vOp k vd (fun x => ((x.vreg va).zipWith (fun a b => (decF32 a).mul (decF32 b)) (x.vreg vb)).zipWith
    (fun p c => roundTo pr (p.add (decF32 c))) (x.vreg vc)) s)

/-- An FP32 result, rounded to BF16 afterwards where PR is 1. -/
def prRound (pr : Bool) (w : Word) : Word := if pr then toBf16 (decF32 w) else w

def execVmax (k : Issue) (vd va vb : BitVec 4) (pr : Bool) (s : State) : Res :=
  .next (vOp k vd (fun x => (x.vreg va).zipWith (fun a b => prRound pr (f32max a b)) (x.vreg vb)) s)

def execVmin (k : Issue) (vd va vb : BitVec 4) (pr : Bool) (s : State) : Res :=
  .next (vOp k vd (fun x => (x.vreg va).zipWith (fun a b => prRound pr (f32min a b)) (x.vreg vb)) s)

/-- VSFN: function codes 6 to 15 are refused by the loader; one that reaches the engine halts with FORMAT (R70). -/
def execVsfn (k : Issue) (vd va fn : BitVec 4) (pr : Bool) (s : State) : Res :=
  .next (if fn.toNat < 6 then vOp k vd (fun x => (x.vreg va).map (fun a => prRound pr (specialFn fn.toNat a))) s
    else s.issuePlain .ve k (fun q => .stop [(rsnFormat, q.imWord k.tile.toNat .ve)]))

/-! ## Reductions, broadcast, immediate (R70, R86) -/

def firstLane (w : Word) : Vector Word 64 := laneVec [w]

def execVreds (k : Issue) (vd va : BitVec 4) (pr : Bool) (s : State) : Res :=
  .next (vOp k vd (fun x => firstLane (prRound pr (treeFold f32add 6 (x.vreg va).toList))) s)

def execVredm (k : Issue) (vd va : BitVec 4) (pr : Bool) (s : State) : Res :=
  .next (vOp k vd (fun x => firstLane (prRound pr (treeFold f32max 6 (x.vreg va).toList))) s)

def execVbcst (k : Issue) (vd va : BitVec 4) (lane : BitVec 6) (s : State) : Res :=
  .next (vOp k vd (fun x => Vector.replicate 64 ((x.vreg va)[lane.toNat]'lane.isLt)) s)

def execVmovi (k : Issue) (vd : BitVec 4) (pat : Word) (s : State) : Res :=
  .next (vOp k vd (fun _ => Vector.replicate 64 pat) s)

/-! ## VQST (R102) -/

def execVqst (k : Issue) (va fmt : BitVec 4) (m : MRef) (clash : Option Clash) (s : State) : Res :=
  let t := k.tile.toNat
  .next (wideAccess .ve k (fun y => [(m.mem.toNat, y.mref m, recBytes fmt.toNat)]) (decide (5 < fmt.toNat)) clash (fun q wide =>
    let x := q.tile t
    let o := (q.taskWin t x.task.toNat m.mem.toNat).1 + (x.eng .ve).mref m
    let rec_ := quantRecord fmt.toNat (x.vreg va).toList
    .store (q.bump (ariReg (clusterOf t) 0x14) rec_.2) m.mem.toNat o rec_.1 wide false) s)

end Sys2Proof.Machine
end

