-- ==== Sys2Proof/Machine/Net.lean ====
section
/-!
DEFINITION. The network engine: NSEND and NTALLY (R45, R72, R125, R136, R264).
-/

namespace Sys2Proof.Machine

open Sys2Proof

/-- A descriptor that a segment may not declare: KIND 3 with UNIT 2 or 3, or DMEM 3 (R72). -/
def descRefused (d : FlowDesc) : Bool := (d.kind = 3 && decide (2 ≤ d.unit.toNat)) || d.dmem = 3

/-- The unit code of a KIND 3 descriptor (R72, R125). -/
def descUnitCode (d : FlowDesc) : Nat := if d.unit = 0 then d.vault.toNat else 0x40

/-- Descriptor FD of the running segment. -/
def flowDesc (x : TileState) (fd : BitVec 6) : Option FlowDesc :=
  match x.slots[x.slot.toNat]'x.slot.isLt with
  | none => none
  | some i => smFind i.descs fd.toNat

/-- Where the two words of descriptor FD of the running segment stand in the NE's instruction memory: after the words of its stream (R76, R79). -/
def descAt (x : TileState) (fd : BitVec 6) : Nat := 8 * ((streamOf x .ne).1 + (streamOf x .ne).2 + 2 * fd.toNat)

/-- Header of a PLAN packet on a descriptor (R125). -/
def nsendHdr (t epoch : Nat) (d : FlowDesc) (last : Bool) (len daddr : Nat) : FlitWord :=
  mkHdr { cls := 0, kind := d.kind.toNat, epoch := epoch, len := len, last := last, hsig := d.hsig, htally := d.htally.toNat,
          hinc := d.hinc.toNat, dmem := d.dmem.toNat, daddr := daddr, srck := 0, src := t,
          unit := if d.kind = 3 then descUnitCode d else 0,
          dest := if d.kind = 3 then 0 else d.dest.toNat,
          span := if d.kind = 1 ∨ d.kind = 2 then d.spanEnd.toNat else 0, flow := d.flow.toNat }

/-- Conditions of an NSEND at its issue: BOUND of its source, POWER_BUDGET of a Skillet send, FENCED_DEST, FORMAT (R63, R72, R110,
R125, R136, R264). -/
def nsendConds (q : State) (t g : Nat) (d : FlowDesc) (len src mem da : Nat) : List (Nat × Nat) :=
  let x := q.tile t
  (match q.boundCheck t x.task.toNat [(mem, src, 32 * len)] with | some i => [(rsnBound, i)] | none => []) ++
  (if d.kind = 3 ∧ d.unit = 0 ∧ !(q.budgetOf x.seg (clusterOf t) g).sklSend then [(rsnPowerBudget, g * 2 ^ 16)] else []) ++
  (if d.kind = 0 ∧ q.fenceMap.contains d.dest.toNat then [(rsnFencedDest, d.dest.toNat * 2 ^ 16 + d.flow.toNat)] else []) ++
  (if descRefused d || decide (16 < len) || mem = 3 || decide (src % 32 ≠ 0) || decide (da % 32 ≠ 0) || decide (2 ^ 17 ≤ da) then
    [(rsnFormat, q.imWord t .ne)] else [])

/-- The words of the descriptor are read, with correction, when the instruction issues (R76, R119, R120). -/
def execNsend (k : Issue) (fd : BitVec 6) (last : Bool) (len : BitVec 5) (dareg : BitVec 3) (src : MRef) (clash : Option Clash)
    (s : State) : Res :=
  let t := k.tile.toNat
  let g := gateNo k
  let n := len.toNat
  .next (s.issue .ne k [⟨20, s.injCredit t 0, n + 1⟩] (fun _ => none) false (fun q =>
    let x := q.tile t
    let y := x.eng .ne
    let a := y.mref src
    let mem := src.mem.toNat
    let words := q.eccRead t 8 (descAt x fd) 16 false
    match flowDesc x fd, words.2 with
    | none, _ => .stop [(rsnFormat, q.imWord t .ne)]
    | some _, some w => .fail words.1 rsnEcc (eccInfo 8 w)
    | some d, none =>
      let q := words.1
      let da := d.dbase.toNat + (y.areg dareg).toNat
      match nsendConds q t g d n a mem da with
      | c :: r => .stop (c :: r)
      | [] =>
        let wide := wideOf [(mem, a, 32 * n)]
        match x.clashes .ne wide clash with
        | c :: cs => .clash (c :: cs)
        | [] =>
          let o := (q.taskWin t x.task.toNat mem).1 + a
          let rd := q.engRead k .ne mem o (32 * n)
          match rd.2.2 with
          | some w => .fail rd.1 rsnEcc (eccInfo mem w)
          | none =>
            let data := (fromTo 0 n).map (fun i => bytesFlit ((rd.2.1.drop (32 * i)).take 32))
            .moves (rd.1.inject t (nsendHdr t (q.cluster (clusterOf t)).epoch.toNat d last n da) data) wide (10, 0, 0)))

def ntallyHdr (t epoch dest tally inc : Nat) : FlitWord :=
  mkHdr { cls := 1, epoch := epoch, hsig := true, htally := tally, hinc := inc, srck := 0, src := t, dest := dest }

def execNtally (k : Issue) (dtile : TileId) (tally : BitVec 5) (inc : BitVec 8) (s : State) : Res :=
  let t := k.tile.toNat
  .next (s.issue .ne k [⟨21, s.injCredit t 1, 1⟩] (fun _ => none) false (fun q =>
    if q.fenceMap.contains dtile.toNat then .stop [(rsnFencedDest, dtile.toNat * 2 ^ 16 + 0xFFFF)]
    else .done (q.inject t (ntallyHdr t (q.cluster (clusterOf t)).epoch.toNat dtile.toNat tally.toNat inc.toNat) []) [] false none))

end Sys2Proof.Machine
end

