-- ==== Sys2Proof/Machine/Dram.lean ====
section
/-!
DEFINITION. The vaults' own steps (R145 to R150): requests at a bank, refresh, hot refresh, patrol scrub.
-/

namespace Sys2Proof.Machine

open Sys2Proof

/-! ## Vault rows (R145 to R149) -/

def vreqCode : VaultReq → Nat
  | .ladle => 0 | .skillet => 1 | .controller => 2 | .scrub => 3

def memReqAddr : MemReq → Nat
  | .read a _ => a.toNat
  | .write a _ => a.toNat

/-- A read's data go to the requester, a write's bytes into memory. -/
def State.serveMem (s : State) (r : MemReq) (scrub : Bool) : State :=
  match r with
  | .read a n =>
    let q := s.devCheck a.toNat n.toNat scrub
    q.1.out (.readData a.toNat (q.1.dvRead a.toNat n.toNat) q.2)
  | .write a bs => s.devStore a.toNat bs

/-- A requester has been served at the banks of a range: the rotation of each goes on from it (R145). -/
def State.serveBanks (s : State) (a n code : Nat) : State :=
  match s.vaultAt a with
  | some v => s.modVault v (fun x => { x with served := (s.bankKeys v a n).foldl (fun m k => smSet m k code) x.served })
  | none => s

/-- A bank serves the next of the waiting requests, in the rotation Ladle, Skillet, controller, scrub; one that waits for a bank under
refresh is counted (R145, R146). Behind an isolation wrapper it is answered with an error response (R150, R343). (DESIGN CHOICE, assumption 14) -/
def execVaultRequest (v : BitVec 6) (ch : BitVec 1) (bank : BitVec 6) (waiting : List (VaultReq × MemReq)) (s : State) : Res :=
  let n := v.toNat
  let x := s.vault n
  let key := ch.toNat * 64 + bank.toNat
  let here := waiting.filter (fun w =>
    let a := memReqAddr w.2
    s.vaultAt a = some n && s.bankOf (a - n * vaultSize) = (ch.toNat, bank.toNat))
  let last := smGet x.served key 3
  let order := (fromTo 1 4).map (fun i => (last + i) % 4)
  match order.findSome? (fun c => here.find? (fun w => vreqCode w.1 = c)) with
  | none => .next s
  | some w =>
    if !x.trained then .next s
    else if !s.vaultServes n then .next (s.out (.errorResponse (memReqAddr w.2)))
    else if x.refreshing.contains key then .next (s.refStall n)
    else
      let s1 := s.setVault n { x with served := smSet x.served key (vreqCode w.1) }
      let s2 := if 1 < here.length then s1.bump (vltReg n 0x28) 1 else s1
      .next (s2.serveMem w.2 (w.1 = .scrub))

/-- Banks of one channel under refresh at a time: those refreshed within 175 ns, at evenly spaced points of the interval: of 64 banks on the
PZ-9100, of 48 on the PZ-9060. (DESIGN CHOICE, assumption 32) -/
def refreshHeld (full hot : Bool) : Nat := if hot then (if full then 6 else 5) else 3

/-- Banks of a channel (R143). -/
def State.chanBanks (s : State) : Nat := if s.full then 64 else 48

/-- Per-bank refresh: the bank is held for 175 ns. The banks of a channel go in the fixed rotation 0, 1, and so on: the refresh of any other than the
next is none. That of bank 0 begins an interval, in which a change of HOTREF takes effect (R146, R147). (DESIGN CHOICE, assumption 32) -/
def execVaultRefresh (v : BitVec 6) (ch : BitVec 1) (bank : BitVec 6) (s : State) : Res :=
  let n := v.toNat
  let x := s.vault n
  let c := ch.toNat
  let key := c * 64 + bank.toNat
  if decide (s.nClusters ≤ n) || x.selfref || !x.trained || bank.toNat ≠ smGet x.refNext c 0 then .next s
  else
    let next := (bank.toNat + 1) % s.chanBanks
    let x1 : VaultState := { x with
      refNext := if next = 0 then smDel x.refNext c else smSet x.refNext c next
      hotref := if bank = 0 then x.hotNext else x.hotref }
    let mine := (x1.refreshing.filter (fun k => k / 64 = ch.toNat)) ++ [key]
    let kept := mine.drop (mine.length - refreshHeld s.full x1.hotref)
    .next (s.setVault n { x1 with refreshing := (x1.refreshing.filter (fun k => k / 64 ≠ ch.toNat)) ++ kept })

/-- The temperature of the hottest layer: above 85 °C hot refresh from the next interval on, at or below 82 °C none (R147). (DESIGN CHOICE, assumption 32) -/
def execHotrefChange (v : BitVec 6) (temp : BitVec 8) (s : State) : Res :=
  let n := v.toNat
  let x := s.vault n
  if s.nClusters ≤ n then .next s
  else .next (s.setVault n { x with
    temp := temp.toNat
    hotNext := if 85 < temp.toNat then true else if temp.toNat ≤ 82 then false else x.hotNext })

/-- Reads that patrol scrub has made in the current 1,000 beats, of a span and a count kept of it (R149, R170). -/
def State.scrubsIn (s : State) (span done : Nat) : Nat := if span = s.tm.beats / 1000 then done else 0

/-- Patrol scrub reads the next granule, SCRUB_RATE of them every 1,000 beats, as the scrub requester of its bank; it waits for a bank under refresh,
stops in self-refresh and keeps its position (R145, R146, R149). (DESIGN CHOICE, assumption 82) -/
def execVaultScrubRead (v : BitVec 6) (s : State) : Res :=
  let n := v.toNat
  let x := s.vault n
  let a := n * vaultSize + 128 * x.scrubPos
  let done := s.scrubsIn x.scrubSpan x.scrubDone
  let b := s.bankOf (128 * x.scrubPos)
  if !s.vaultServes n ∨ s.fld (vltReg n 8) 31 1 = 0 ∨ s.fld (vltReg n 8) 0 16 ≤ done then .next s
  else if s.bankHeld a 128 then .next (s.refStall n)
  else
    let x1 : VaultState := { x with
      served := smSet x.served (b.1 * 64 + b.2) 3, scrubSpan := s.tm.beats / 1000, scrubDone := done + 1
      scrubPos := if x.scrubPos + 1 = vaultSize / 128 then 0 else x.scrubPos + 1
      scrubPasses := if x.scrubPos + 1 = vaultSize / 128 then satAdd 9 x.scrubPasses 1 else x.scrubPasses }
    .next ((s.setVault n x1).devCheck a 128 true).1

end Sys2Proof.Machine
end

