-- ==== Sys2Proof/Machine/Skillet.lean ====
section
/-!
DEFINITION. The Skillet (R151 to R163): work items, their checks, scores, online softmax, canonical merge, return
records.
-/

namespace Sys2Proof.Machine

open Sys2Proof

/-! ## Work items (R151) -/

/-- A Skillet command. -/
structure SklCmd where
  op : Nat
  flags : Nat
  g : Nat
  nq : Nat
  qpos0 : Nat
  first : Nat
  count : Nat
  ptBase : Nat
  kvBase : Nat
  scale : Word
  dtile : Nat
  rflow : Nat
  raddr : Nat
  htally : Nat
  hinc : Nat
  rsvd : Nat
  seq : Nat
  tail : Nat

def fieldLe (bs : List Byte) (off n : Nat) : Nat := leNat ((bs.drop off).take n)

def sklCmd (bs : List Byte) : SklCmd :=
  { op := fieldLe bs 0 1, flags := fieldLe bs 1 1, g := fieldLe bs 2 1, nq := fieldLe bs 3 1, qpos0 := fieldLe bs 4 4,
    first := fieldLe bs 8 2, count := fieldLe bs 0xA 2, ptBase := fieldLe bs 0xC 4, kvBase := fieldLe bs 0x10 4,
    scale := BitVec.ofNat 32 (fieldLe bs 0x14 4), dtile := fieldLe bs 0x18 2, rflow := fieldLe bs 0x1A 2,
    raddr := fieldLe bs 0x1C 4, htally := fieldLe bs 0x20 1, hinc := fieldLe bs 0x21 1, rsvd := fieldLe bs 0x22 2,
    seq := fieldLe bs 0x24 4, tail := fieldLe bs 0x28 24 }

def SklCmd.kvfmt (c : SklCmd) : Nat := c.flags % 4
def SklCmd.d (c : SklCmd) : Nat := 64 * 2 ^ (c.flags / 4 % 4)
def SklCmd.rows (c : SklCmd) : Nat := c.g * c.nq
/-- Bytes of one query row. For KVFMT 2 and 3 and for DCODE 3, which R152 refuses, the manual gives no row length to test LENGTH by: here that of BF16, and
of D = 512. (DESIGN CHOICE, assumption 34) -/
def SklCmd.rowBytes (c : SklCmd) : Nat := if c.kvfmt = 0 then c.d / 64 * 96 else 2 * c.d
/-- Bytes of the command and its rows. -/
def SklCmd.need (c : SklCmd) : Nat := 64 + c.rows * c.rowBytes
def SklCmd.qpos (c : SklCmd) (r : Nat) : Nat := c.qpos0 % 2 ^ 20 + (if c.g = 0 then 0 else r / c.g)
def SklCmd.pageBytes (c : SklCmd) : Nat := if c.kvfmt = 0 then 128 * c.d + 128 else 256 * c.d
/-- Bytes of one key or value row. -/
def SklCmd.kvRow (c : SklCmd) : Nat := if c.kvfmt = 0 then c.d else 2 * c.d

/-- An item gathered from the intake: packets, their bytes, whether a packet with LAST closed it; none while more packets are to
come. -/
structure SklItem where
  n : Nat
  pkts : List Packet
  bytes : List Byte
  closed : Bool

/-- DESIGN CHOICE, assumption 26. -/
def gatherItem (flow : Nat) (free : Nat → Nat → Byte) : List Packet → Nat → List Packet → List Byte → Option SklItem
  | [], _, _, _ => none
  | p :: rest, n, ps, bs =>
    if hFlow p.hdr ≠ flow then some { n := n, pkts := ps, bytes := bs, closed := true }
    else
      let more := (p.data.zipIdx).flatMap (fun f =>
        if f.1.2 then (fromTo 0 32).map (fun i => free n (32 * f.2 + i)) else flitBytes f.1.1)
      let bs1 := bs ++ more
      let ps1 := ps ++ [p]
      if 64 ≤ bs1.length ∧ (sklCmd bs1).need ≤ bs1.length then some { n := n + 1, pkts := ps1, bytes := bs1, closed := hLast p.hdr }
      else if hLast p.hdr then some { n := n + 1, pkts := ps1, bytes := bs1, closed := true }
      else gatherItem flow free rest (n + 1) ps1 bs1

/-- The next item of a Skillet's intake. Packets without data carry no part of an item. Bytes of poisoned flits are free. -/
def State.nextItem (s : State) (v : Nat) : Option (SklItem × Nat) :=
  let q := smGet s.intakeQ (ownKey (.skillet (BitVec.ofNat 6 v))) []
  let lead := (q.takeWhile (fun p => p.data = [])).length
  match q.drop lead with
  | [] => none
  | p :: r => (gatherItem (hFlow p.hdr) (fun a b => Config.undefByte (s.freeCtr + a) b) (p :: r) 0 [] []).map (fun i => (i, lead + i.n))

/-- The fault reason of an item, by the order of R152; 0 where none applies. (DEDUCED, assumption 34) -/
def State.itemFault (s : State) (v : Nat) (i : SklItem) : Nat :=
  let c := sklCmd i.bytes
  let n := i.bytes.length
  let fill := (i.bytes.drop c.need).any (fun b => b ≠ 0)
  let p := i.pkts.headD { hdr := 0, data := [] }
  if n < 64 ∨ n < c.need ∨ c.need + 31 < n then 0x03
  else if c.op ≠ 1 ∧ c.op ≠ 2 then 0x01
  else if c.rsvd ≠ 0 ∨ c.tail ≠ 0 ∨ fill ∨ c.flags / 32 ≠ 0 ∨ 2 ≤ c.kvfmt ∨ c.flags / 4 % 4 = 3 ∨ c.qpos0 / 2 ^ 20 ≠ 0 ∨
      c.first / 2 ^ 14 ≠ 0 ∨ c.dtile / 2 ^ 12 ≠ 0 ∨ c.raddr / 2 ^ 19 ≠ 0 ∨ c.htally / 32 ≠ 0 ∨
      c.g = 0 ∨ 16 < c.g ∨ c.nq = 0 ∨ 16 < c.nq ∨ 16 < c.rows ∨ c.count = 0 ∨ 16384 < c.count ∨ c.hinc = 0 ∨
      16384 < c.first + c.count ∨ 1048575 < c.qpos (c.rows - 1) ∨ c.ptBase % 4 ≠ 0 ∨ c.kvBase % 128 ≠ 0 then 0x02
  else if vaultSize < c.ptBase + 4 * (c.first + c.count) then 0x05
  else if (s.budgetOf p.seg v p.gate).sklMax = 0 then 0x04
  else 0

/-! ## Numbers (R157 to R159) -/

/-- Block kb of an activation record list of bytes (R93). -/
def recBlock (fa : Nat) (bs : List Byte) (kb : Nat) : ActBlock :=
  let rec_ := bs.drop (kb / 2 * recBytes fa)
  let eb := blockBytes fa
  actBlock fa kb ((rec_.drop (kb % 2 * eb)).take eb) ((rec_.drop (recBytes fa - 32)).take 32)

/-- A query or key row: 32-element blocks, each with element codes and scale. -/
def queryBlocks (c : SklCmd) (bs : List Byte) : List ActBlock :=
  (fromTo 0 (c.d / 32)).map (fun kb =>
    if c.kvfmt = 0 then recBlock 0 bs kb
    else { codes := (fromTo 0 32).map (fun k => fieldLe bs (64 * kb + 2 * k) 2), scale := 0 })

def keyBlocks (c : SklCmd) (row : List Byte) (scale : Nat) : List ActBlock :=
  (fromTo 0 (c.d / 32)).map (fun kb =>
    if c.kvfmt = 0 then { codes := (fromTo 0 32).map (fun k => (row.getD (32 * kb + k) 0).toNat), scale := scale }
    else { codes := (fromTo 0 32).map (fun k => fieldLe row (64 * kb + 2 * k) 2), scale := 0 })

/-- The score of one query row against one key row, and its special block values. -/
def score (c : SklCmd) (q k : List ActBlock) : Word × Nat :=
  let vs := (q.zip k).map (fun p =>
    if c.kvfmt = 0 then
      let as := p.1.codes.map (decElem 0)
      let ws := p.2.codes.map (decElem 0)
      match specialValue as ws p.1.scale p.2.scale with
      | some w => (w, 1)
      | none => (blockValue 0 0 (blockAcc [] [] 0 as ws) p.1.scale p.2.scale, 0)
    else (bf16Value [] [] 0 (p.1.codes.map (fun x => BitVec.ofNat 32 (x * 65536))) (p.2.codes.map (fun x => BitVec.ofNat 32 (x * 65536))), 0))
  match vs with
  | [] => (0, 0)
  | v :: r => r.foldl (fun a b => (f32add a.1 b.1, a.2 + b.2)) v

def negInf : Word := 0xFF800000

/-- An online-softmax triple. -/
structure Triple where
  m : Word
  l : Word
  o : List Word

def isFiniteW (w : Word) : Bool := fieldOf w.toNat 23 8 ≠ 255

/-- The canonical tree with any node function. -/
def pairUp {α : Type} (f : α → α → α) : List α → List α
  | a :: b :: r => f a b :: pairUp f r
  | l => l

def treeG {α : Type} (f : α → α → α) (dflt : α) : Nat → List α → α
  | 0, l => l.headD dflt
  | d + 1, l => treeG f dflt d (pairUp f l)

/-- R159. -/
def combine (a b : Triple) : Triple :=
  if a.m = negInf then b
  else if b.m = negInf then a
  else
    let m := f32max a.m b.m
    let x := sfExp2 (f32sub a.m m)
    let y := sfExp2 (f32sub b.m m)
    { m := m, l := f32fma a.l x (f32mul b.l y), o := (a.o.zip b.o).map (fun p => f32fma p.1 x (f32mul p.2 y)) }

/-- The exact value of an element of a value row. R158 says nothing of the sign of a zero: that of an E4M3 zero is dropped, that of a BF16 zero kept.
(DESIGN CHOICE, assumption 34) -/
def valueElem (c : SklCmd) (row : List Byte) (d : Nat) : Fp :=
  if c.kvfmt = 0 then
    match decElem 0 (row.getD d 0).toNat with
    | .val e => .fin (decide (e < 0)) e.natAbs (-9)
    | .inf n => .inf n
    | .nan => .nan
  else decBf16 (BitVec.ofNat 16 (fieldLe row (2 * d) 2))

/-- A page as read: key rows, key scales, value rows, value scales. -/
structure KvPage where
  k : List (List Byte)
  ks : List Nat
  v : List (List Byte)
  vs : List Nat

def nanTriple (d : Nat) : Triple := { m := nan32, l := nan32, o := List.replicate d nan32 }

/-- Scaled scores of a row against a page: score (none where masked), scaled score; and the special block values. -/
def pageScores (c : SklCmd) (q : List ActBlock) (p : KvPage) (n : Nat) : List (Option Word × Word) × Nat :=
  let r := (fromTo 0 64).map (fun j =>
    if j < n then
      let sc := score c q (keyBlocks c (p.k.getD j []) (p.ks.getD j 0))
      ((some sc.1, f32mul sc.1 c.scale), sc.2)
    else ((none, negInf), 0))
  (r.map (fun x => x.1), r.foldl (fun a x => a + x.2) 0)

/-- R158: the leaf of a page for a row that has n unmasked positions in it, and whether it is SPECIAL. -/
def leafOf (c : SklCmd) (ts : List (Option Word × Word)) (p : KvPage) : Triple × Bool :=
  if ts.any (fun t => match t.1 with | some w => !isFiniteW w | none => false) then (nanTriple c.d, true)
  else
    let m := (ts.map (fun t => t.2)).foldl f32max negInf
    if m = negInf then ({ m := negInf, l := 0, o := List.replicate c.d 0 }, false)
    else
      let ps := ts.map (fun t => match t.1 with | some _ => sfExp2 (f32sub t.2 m) | none => 0)
      let ps' := (ps.zipIdx).map (fun x =>
        if c.kvfmt = 0 then
          (match scaleExp (p.vs.getD x.2 0) with
           | some e => toF32 ((decF32 x.1).scale e)
           | none => nan32)
        else x.1)
      let masked := ts.map (fun t => t.1.isNone)
      let o := (fromTo 0 c.d).map (fun d =>
        treeFold f32add 6 ((fromTo 0 64).map (fun j =>
          if masked.getD j true then 0 else toF32 ((decF32 (ps'.getD j 0)).mul (valueElem c (p.v.getD j []) d)))))
      ({ m := m, l := treeFold f32add 6 ps, o := o }, false)

/-! ## Running an item -/

/-- Flags of a page: 1 INVALID, 2 RANGE, 4 UNCORR, 8 SPECIAL. -/
structure PageRead where
  i : Nat
  flags : Nat
  page : KvPage

def kvPage (s : State) (c : SklCmd) (a n : Nat) (attend : Bool) : KvPage :=
  let row := c.kvRow
  let rowsAt (b : Nat) : List (List Byte) := (fromTo 0 n).map (fun j => s.dvRead (b + j * row) row)
  let scalesAt (b : Nat) : List Nat := (fromTo 0 n).map (fun j => s.dvNat (b + j) 1)
  if c.kvfmt = 0 then
    { k := rowsAt a, ks := scalesAt (a + 64 * c.d), v := if attend then rowsAt (a + 64 * c.d + 64) else []
      vs := if attend then scalesAt (a + 128 * c.d + 64) else [] }
  else { k := rowsAt a, ks := [], v := if attend then rowsAt (a + 128 * c.d) else [], vs := [] }

/-- Parts of a page that n unmasked positions read: (offset, bytes). -/
def pageParts (c : SklCmd) (n : Nat) (attend : Bool) : List (Nat × Nat) :=
  if c.kvfmt = 0 then
    [(0, n * c.d), (64 * c.d, n)] ++ (if attend then [(64 * c.d + 64, n * c.d), (128 * c.d + 64, n)] else [])
  else [(0, n * 2 * c.d)] ++ (if attend then [(128 * c.d, n * 2 * c.d)] else [])

/-- Unmasked positions of page i for query position q. -/
def unmasked (q i : Nat) : Nat := min 64 (q + 1 - 64 * i)

/-- The address of the page-table entry i of an item, in the device's memory: PT_BASE + 4i in its vault (R155). -/
def SklCmd.entryAddr (c : SklCmd) (v i : Nat) : Nat := v * vaultSize + c.ptBase + 4 * i

/-- The read of that entry: the state after corrections, and the words that could not be corrected. -/
def State.readEntry (s : State) (v : Nat) (c : SklCmd) (i : Nat) : State × List Nat :=
  (s.serveBanks (c.entryAddr v i) 4 1).devCheck (c.entryAddr v i) 4 false

/-- The reads of the parts of a page at the address a of which n positions are unmasked. -/
def State.readParts (s : State) (c : SklCmd) (a n : Nat) (attend : Bool) : State × List Nat :=
  (pageParts c n attend).foldl (fun (q : State × List Nat) p =>
    let r := (q.1.serveBanks (a + p.1) p.2 1).devCheck (a + p.1) p.2 false
    (r.1, q.2 ++ r.2)) (s, [])

/-- A page of which nothing was read. -/
def KvPage.empty : KvPage := { k := [], ks := [], v := [], vs := [] }

/-- Reads the page that the entry e names, in the vault v: its flags and its elements (R156). -/
def State.readEntryPage (s : State) (v : Nat) (c : SklCmd) (i e : Nat) (attend : Bool) : State × PageRead :=
  let a := v * vaultSize + (c.kvBase + e % 2 ^ 24 * c.pageBytes)
  let n := unmasked (c.qpos (c.rows - 1)) i
  let r := s.readParts c a n attend
  let s1 := if 0 < n then r.1.bump (sklReg v 0x10) 1 else r.1
  (s1, { i := i, flags := if r.2 = [] then 0 else 4, page := kvPage s1 c a n attend })

/-- The entry's page reaches past its vault's capacity. -/
def SklCmd.pageOutside (c : SklCmd) (e : Nat) : Bool := vaultSize < c.kvBase + e % 2 ^ 24 * c.pageBytes

/--
Reads the page-table entry and the page i of the span (R156): flags, the page, and the state after corrections. An entry that is
invalid answers INVALID only, also where its page number lies beyond the vault, and an uncorrectable codeword of the table is counted
and reported once for each entry read from it. (DESIGN CHOICE, assumption 7)
-/
def State.readPage (s : State) (v : Nat) (c : SklCmd) (i : Nat) (attend : Bool) : State × PageRead :=
  let r := s.readEntry v c i
  let e := r.1.dvNat (c.entryAddr v i) 4
  if r.2 ≠ [] then (r.1, { i := i, flags := 4, page := KvPage.empty })
  else if e / 2 ^ 31 = 0 ∨ e / 2 ^ 24 % 128 ≠ 0 then (r.1, { i := i, flags := 1, page := KvPage.empty })
  else if c.pageOutside e then (r.1, { i := i, flags := 2, page := KvPage.empty })
  else r.1.readEntryPage v c i e attend

/-- Nodes that an ATTEND item returns: (first page, k) (R160). -/
def attendNodes (stop : Nat) : Nat → Nat → List (Nat × Nat)
  | 0, _ => []
  | fuel + 1, a =>
    if stop ≤ a then []
    else
      let k := (fromTo 0 15).foldl (fun best k => if a % 2 ^ k = 0 ∧ a + 2 ^ k ≤ stop then k else best) 0
      (a, k) :: attendNodes stop fuel (a + 2 ^ k)

/-- A record (R161). -/
def sklRecord (m l : Word) (seq page row flags log2 nvalid : Nat) (body : List Word) : List Byte :=
  leBytes 4 m.toNat ++ leBytes 4 l.toNat ++ leBytes 4 seq ++ leBytes 2 page ++ leBytes 1 row ++ leBytes 1 flags ++
    leBytes 1 log2 ++ leBytes 3 0 ++ leBytes 4 nvalid ++ leBytes 8 0 ++ body.flatMap (fun w => leBytes 4 w.toNat)

/-- One record to be: its header fields and body, and whether it is flagged under R162. -/
structure SklRec where
  m : Word
  l : Word
  page : Nat
  row : Nat
  flags : Nat
  log2 : Nat
  nvalid : Nat
  body : List Word

/-- DEDUCED, assumption 34. -/
def scoreRecs (c : SklCmd) (qs : List (List ActBlock)) (ps : List PageRead) : List SklRec × Nat :=
  let rs := ps.flatMap (fun p => (qs.zipIdx).map (fun q =>
    let n := unmasked (c.qpos q.2) p.i
    if p.flags ≠ 0 then
      ({ m := nan32, l := nan32, page := p.i, row := q.2, flags := p.flags, log2 := 0, nvalid := n, body := List.replicate 64 nan32 : SklRec }, 0)
    else
      let t := pageScores c q.1 p.page n
      ({ m := 0, l := 0, page := p.i, row := q.2, flags := 0, log2 := 0, nvalid := n, body := t.1.map (fun x => x.2) : SklRec }, t.2)))
  (rs.map (fun r => r.1), rs.foldl (fun a r => a + r.2) 0)

/-- DEDUCED, assumption 34. -/
def attendRecs (c : SklCmd) (qs : List (List ActBlock)) (ps : List PageRead) : List SklRec × Nat :=
  let leaves := (qs.zipIdx).map (fun q => ps.map (fun p =>
    if p.flags ≠ 0 then (nanTriple c.d, p.flags, 0)
    else
      let t := pageScores c q.1 p.page (unmasked (c.qpos q.2) p.i)
      let l := leafOf c t.1 p.page
      (l.1, (if l.2 then 8 else 0), t.2)))
  let special := leaves.foldl (fun a r => r.foldl (fun b x => b + x.2.2) a) 0
  let recs := (attendNodes (c.first + c.count) c.count c.first).flatMap (fun nd => (leaves.zipIdx).map (fun r =>
    let ls := (r.1.drop (nd.1 - c.first)).take (2 ^ nd.2)
    let flags : Nat := ls.foldl (fun (a : Nat) x => a ||| x.2.1) 0
    let t := if flags % 8 ≠ 0 then nanTriple c.d else treeG combine (nanTriple c.d) nd.2 (ls.map (fun x => x.1))
    let nvalid := (fromTo nd.1 (2 ^ nd.2)).foldl (fun a i => a + unmasked (c.qpos r.2) i) 0
    ({ m := t.m, l := t.l, page := nd.1, row := r.2, flags := flags, log2 := nd.2, nvalid := nvalid, body := t.o : SklRec })))
  (recs, special)

/-- The return packets of an item: 16 data flits each, the signal and LAST in the last (R163). A return address is taken as it stands, modulo 2^17, also
with RADDR no multiple of 32 or DMEM 3, which R152 does not refuse. (DESIGN CHOICE, assumption 33) -/
def returnPackets (v epoch : Nat) (c : SklCmd) (bytes : List Byte) : List Packet :=
  let flits := (chunksOf 32 bytes.length bytes).map (fun b => (bytesFlit b, false))
  let groups := chunksOf 16 flits.length flits
  (groups.zipIdx).map (fun g =>
    let fin := decide (g.2 + 1 = groups.length)
    { hdr := mkHdr { cls := 0, kind := 0, epoch := epoch, len := g.1.length, last := fin && c.flags / 16 % 2 = 1, hsig := fin,
                     htally := if fin then c.htally else 0, hinc := if fin then c.hinc else 0, dmem := c.raddr / 2 ^ 17 % 4,
                     daddr := (c.raddr % 2 ^ 17 + 512 * g.2) % 2 ^ 17, srck := 4, src := v, dest := c.dtile, flow := c.rflow },
      data := g.1 })

/-- Return packets enter the mesh at the cluster port of the router with the destination tile's local position, as the router's buffer
has room and no other packet is being put into it (R124, R127, R154); a cluster out of lock sends nothing. The item is over when the last one is in. (DESIGN CHOICE, assumptions 25 and 33) -/
def State.refill (s : State) (v : Nat) : Nat → State
  | 0 => s
  | fuel + 1 =>
    let k := s.skillet v
    match k.sending with
    | [] => s
    | p :: rest =>
      let t := tileAt v (localIdx (hDest p.hdr))
      if !s.unlocked.contains v ∧ ((s.router t).queue .cluster 0).length + p.data.length + 1 ≤ 34 ∧ s.inputFree t .cluster then
        let s1 := (s.setSkillet v { k with sending := rest, busy := decide (rest ≠ []) }).enterMesh t .cluster p.hdr p.data
        let s2 := if rest = [] then s1.stopUnit (sklUnit v) else s1
        s2.refill v fuel
      else s

/-- A refused item (R152). -/
def State.refuseItem (s : State) (v reason : Nat) (p : Packet) : State :=
  let flow := hFlow p.hdr
  let s1 := ((s.setBit (sklReg v 0) 30).setReg (sklReg v 4) (BitVec.ofNat 32 (reason * 2 ^ 24 + flow))).bump (sklReg v 0x1C) 1
  let s2 := s1.raise 0x10 (v + reason * 2 ^ 8 + flow * 2 ^ 16)
  if reason = 4 then s2.noteBudget v 2 p.gate v else s2

/-- The pages of an item's span, in order, with the state after their reads (R155, R156). -/
def State.readPages (s : State) (v : Nat) (c : SklCmd) (attend : Bool) : State × List PageRead :=
  (fromTo c.first c.count).foldl (fun (q : State × List PageRead) i =>
    let r := q.1.readPage v c i attend
    (r.1, q.2 ++ [r.2])) (s, [])

/-- The records of an item from its pages, and how many special scores they met (R157 to R162). -/
def itemRecs (c : SklCmd) (bytes : List Byte) (ps : List PageRead) (attend : Bool) : List SklRec × Nat :=
  let qs := (fromTo 0 c.rows).map (fun r => queryBlocks c ((bytes.drop (64 + r * c.rowBytes)).take c.rowBytes))
  if attend then attendRecs c qs ps else scoreRecs c qs ps

/-- The bytes that an item returns: its records in order, the last one flagged (R161). -/
def itemBytes (c : SklCmd) (rs : List SklRec) : List Byte :=
  (rs.zipIdx).flatMap (fun r =>
    let fin := if r.2 + 1 = rs.length then 0x80 else 0
    sklRecord r.1.m r.1.l c.seq r.1.page r.1.row (r.1.flags + fin) r.1.log2 r.1.nvalid r.1.body)

/-- A read of an item meets a bank under refresh: its page-table entries, or the pages they name (R146, R156). -/
def State.itemHeld (s : State) (v : Nat) (c : SklCmd) : Bool :=
  let base := v * vaultSize
  s.bankHeld (base + c.ptBase + 4 * c.first) (4 * c.count) ||
    ((s.vault v).refreshing ≠ [] && (fromTo c.first c.count).any (fun i =>
      let a := c.kvBase + s.dvNat (base + c.ptBase + 4 * i) 4 % 2 ^ 24 * c.pageBytes
      decide (a + c.pageBytes ≤ vaultSize) && s.bankHeld (base + a) c.pageBytes))

/-- An item leaves the intake's queue. -/
def State.takeItem (s : State) (v n : Nat) : State :=
  let key := ownKey (.skillet (BitVec.ofNat 6 v))
  { s with intakeQ := smSet s.intakeQ key ((smGet s.intakeQ key []).drop n), freeCtr := s.freeCtr + n }

/-- The Skillet of vault v takes the next item of its intake, if it is one of operation `op` or cannot be told. (DESIGN CHOICE, assumption 33) -/
def State.runSkillet (s : State) (v op : Nat) : State :=
  if !s.full ∨ (s.skillet v).busy ∨ !s.vaultServes v ∨ s.unlocked.contains v then s
  else match s.nextItem v with
    | none => s
    | some (item, n) =>
      let c := sklCmd item.bytes
      let fault := s.itemFault v item
      let p := item.pkts.headD { hdr := 0, data := [] }
      if fault ≠ 0 then
        (if c.op = op ∨ (c.op ≠ 1 ∧ c.op ≠ 2) ∨ fault = 3 then (s.takeItem v n).refuseItem v fault p else s)
      else if c.op ≠ op then s
      else if !s.mayStart (sklUnit v) then s.holdUnit (sklUnit v)
      else if s.itemHeld v c then s.refStall v
      else
        let rd := ((s.takeItem v n).startUnit (sklUnit v)).readPages v c (op = 2)
        let out := itemRecs c item.bytes rd.2 (op = 2)
        let flagged := (out.1.filter (fun r => r.flags % 8 ≠ 0)).length
        let s2 := ((rd.1.bump (sklReg v 8) 1).bump (sklReg v 0xC) out.1.length).bump (sklReg v 0x14) (flagged + out.2)
        let pk := returnPackets v (s2.cluster v).epoch.toNat c (itemBytes c out.1)
        (s2.setSkillet v { busy := true, sending := pk }).refill v (pk.length + 1)

/-- DESIGN CHOICE, assumption 33. -/
def execScore (v : BitVec 6) (s : State) : Res := .next (s.runSkillet v.toNat 1)

/-- DESIGN CHOICE, assumption 33. -/
def execAttend (v : BitVec 6) (s : State) : Res := .next (s.runSkillet v.toNat 2)

end Sys2Proof.Machine
end

