-- ==== Sys2Proof/Machine/Flags.lean ====
section
/-!
DEFINITION. Conditions and status bits. The engines keep no arithmetic flags (R85); what a comparison decides is a branch
(R66), and what a tile shows of itself is TIL_STATUS and TIL_PCe (03).
-/

namespace Sys2Proof.Machine

open Sys2Proof

/-- The six branch comparisons of the scalar core (R65). -/
inductive BrCond where
  | eq | ne | lt | ge | ltu | geu
deriving DecidableEq, Repr

def brTaken (c : BrCond) (a b : Word) : Bool :=
  match c with
  | .eq => a = b
  | .ne => a ≠ b
  | .lt => a.slt b
  | .ge => !a.slt b
  | .ltu => a.ult b
  | .geu => !a.ult b

def sltWord (a b : Word) : Word := if a.slt b then 1 else 0
def sltuWord (a b : Word) : Word := if a.ult b then 1 else 0

def tileStCode : TileSt → Nat
  | .idle => 0 | .running => 1 | .halted => 2 | .isolated => 3

/-- TIL_STATUS as the tile's state gives it. -/
def tilStatus (x : TileState) : Nat :=
  tileStCode x.st * 2 ^ 30 + bit x.pendStart.isSome * 2 ^ 29 + bit x.commitPending * 2 ^ 28 + bit x.more * 2 ^ 27 +
    x.slot.toNat * 2 ^ 24 +
    (fromTo 0 5).foldl (fun a i => a + bit ((x.engines.toList.getD i EngineState.reset).ended) * 2 ^ (16 + i)) 0 +
    min x.drops 0xFFFF

/-- TIL_PCe: HELD by a tally wait or credits, GATED before its gate beat, PC. -/
def tilPc (held gated : Bool) (y : EngineState) : Nat := bit held * 2 ^ 31 + bit gated * 2 ^ 30 + y.pc % 2 ^ 16

end Sys2Proof.Machine
end

