-- ==== Sys2Proof/Machine/TileEvents.lean ====
section
/-!
DEFINITION. What happens to a tile beside its instructions: completion, the watchdog, replay start and end, halt reports,
narrow accesses and scrub, zero fill, CLEAR, task registers (03, 06).
-/

namespace Sys2Proof.Machine

open Sys2Proof

/-! ## Completion (R41) and the watchdog (R48) -/

/-- The i-th outstanding instruction of an engine completes and its signal takes effect. A SIGNAL on its own completes only when
every earlier instruction of its stream has. A tensor engine with no heavy work left ends its unit's work (R265). (DESIGN CHOICE, assumptions 7 and 15) -/
def execInstructionComplete (tid : TileId) (e : Engine) (i : Nat) (s : State) : Res :=
  let t := tid.toNat
  let x := s.tile t
  let y := x.eng e
  match y.inflight[i]? with
  | none => .next s
  | some f =>
    if x.st = .isolated ∨ s.unlocked.contains (clusterOf t) ∨ (f.alone ∧ i ≠ 0) then .next s
    else
      let rest := y.inflight.eraseIdx i
      let s1 := s.setTile t (x.setEng e { y with inflight := rest })
      let s2 := if f.heavy ∧ !rest.any (fun g => g.heavy) then s1.stopUnit (teUnit t) else s1
      .next (match f.signal with
        | some g => (s2.modTile t (fun x => x.shown g.tally.toNat (shownBy (engCode e)))).addTally t g.tally g.inc.toNat t
        | none => s2)

/-- Credits held on a numbered output of R48: injection 20 to 22, descriptor slots 24 + k of the cluster's Ladle. -/
def State.creditsHeld (s : State) (t out : Nat) : Nat :=
  if out < 24 then s.injCredit t (out - 20) else 4 - (s.lchan (clusterOf t) (out - 24)).slots.length

/-- What an instruction at the head of its engine still lacks among its waits and credits, as the record of the watchdog names it: WAIT0 before
WAIT1, tally waits before credits, the lowest output first (R48). -/
def State.lacking (s : State) (t : Nat) (h : Head) : Option Nat :=
  let x := s.tile t
  match h.waits.find? (fun w => decide ((x.tally w.1).toNat < w.2)) with
  | some w => some (w.1.toNat * 2 ^ 16 + (x.tally w.1).toNat)
  | none => (h.credits.find? (fun c => decide (s.creditsHeld t c.1 < c.2))).map (fun c => 2 ^ 31 + c.1 * 2 ^ 16 + s.creditsHeld t c.1)

def execWaitTimeout (tid : TileId) (e : Engine) (s : State) : Res :=
  let t := tid.toNat
  let x := s.tile t
  let y := x.eng e
  let limit := s.fld (tilReg t 8) 0 20
  match x.st, y.head with
  | .running, some h =>
    if limit = 0 ∨ s.beatAt (clusterOf t) < h.b0 + limit then .next s
    else match s.lacking t h with
      | some i => .next (s.halt t (engCode e) rsnWaitTimeout y.pc i)
      | none => .next s
  | _, _ => .next s

/-! ## Replays (R20, R49, R50) -/

/-- A tile takes a REPLAY_START (tile state table, first row): every register of every engine is zero (R62), a pending commit becomes
ACTIVE (R20), the modes of R84 are sampled. A slot without a stream image halts at once, with PC 0 in the record, and a segment that names a
domain out of RUN halts with PEER_RESET (R49, R53, R344). MGT_GOO_SLACK takes the segment here where it has a window that the chip Goose
measures. (DEDUCED, assumptions 28 and 92) -/
def State.takeStart (s : State) (t : Nat) (slot : BitVec 3) (seg : BitVec 16) (count : BitVec 64) : State :=
  let x := s.tile t
  let info := x.slots[slot.toNat]'slot.isLt
  let entry (e : Nat) : Nat := match info with
    | some i => (i.streams.getD e (0, 0)).1
    | none => 0
  let x1 : TileState :=
    { x with
      st := .running, pendStart := none, slot := slot, seg := seg, count := count, firstIssued := false, firing := [], swn := none, owed := false
      active := if x.commitPending then x.pending else x.active
      commitPending := false
      engines := Vector.ofFn (fun e => { EngineState.reset with pc := entry e.val })
      g := Vector.replicate 32 0, v := Vector.replicate 16 (Vector.replicate 64 0), te := none
      task := match s.findSeg seg with | some g => g.task | none => x.task
      strict := s.fld (tilReg t 0) 0 1 = 1
      csumCount := s.fld (ariReg (clusterOf t) 0) 0 1 = 1 }
  let s0 := (s.setTile t x1).setReg (gooReg (clusterOf t) 8) (BitVec.ofNat 32 (seg.toNat * 2 ^ 16 + s.slackOf seg))
  let s1 := match s.findSeg seg with
    | some g => if g.own.any (fun w => chipPort w.1 && w.2 ≠ []) then
        s0.setReg (mgtReg 0x8008) (BitVec.ofNat 32 (seg.toNat * 2 ^ 16 + g.slack)) else s0
    | none => s0
  let down := match s.peerDown t seg with
    | some d => [(6, rsnPeerReset, 0, peerInfo d.1 d.2)]
    | none => []
  match info with
  | none => s1.haltAll t ((0, rsnStreamEnd, 0, 0xFFFF) :: down)
  | some i =>
    let ends := [Engine.sc, .te, .ve, .whisk, .ne].filterMap (fun e =>
      if (i.streams.getD (engCode e) (0, 0)).2 = 0 then some (engCode e, rsnStreamEnd, entry (engCode e), 0xFFFF) else none)
    s1.haltAll t (ends ++ down)

/-- Every port at which the segment has a list holds the order of replay k, which Ermond delivers before any tile starts it (R26). -/
def State.orderedAll (s : State) (q : ReplayRun) (k : Nat) : Bool :=
  match s.findSeg q.seg with
  | some g => g.own.all (fun w => w.2 = [] || (q.liveOf k).ordered.contains (ownKey w.1))
  | none => true

/-- REPLAY_START reaches a tile from its cluster controller, for the next replay that an order released to it and every port holds. (DESIGN CHOICE, assumption 15) -/
def execReplayStart (tid : TileId) (slot : BitVec 3) (count : BitVec 64) (s : State) : Res :=
  let t := tid.toNat
  match s.replays.find? (fun q => q.slot = slot ∧ q.tiles.contains t ∧ count.toNat = q.first + smGet q.next t 0) with
  | none => .next s
  | some q =>
    let k := smGet q.next t 0
    if q.stopped ∨ q.n ≤ k ∨ !s.orderedAll q k then .next s
    else
      let x := s.tile t
      if x.st = .running ∧ x.pendStart.isSome then .next s
      else
        let s1 := (s.setRun ({ q with next := smSet q.next t (k + 1) }.setLive (q.liveOf k))).fixGates (clusterOf t) q k
        .next (match x.st with
          | .idle => s1.takeStart t slot q.seg count
          | .running => s1.setTile t { x with pendStart := some (slot, count) }
          | _ => s1)

/-- The cluster controller learns that a tile has ended a replay: with the last tile, the Goose's last lateness, which a Goose that records nothing
leaves as it was (R20, R404). A cluster with no tile of the replay ends none, so the windows at its ports count in its MAXLATE but in no
LASTLATE. (DEDUCED, assumption 92) -/
def State.clusterEnd (s : State) (c t : Nat) (seg : BitVec 16) (count : BitVec 64) : State :=
  match s.findStarted c seg count with
  | none => s
  | some r =>
    let left := r.left.erase t
    let s1 := s.setStarted c { r with left := left }
    if left = [] ∧ s.fld (gooReg c 0) 31 1 = 1 then
      let late := (s.goosemark c seg count).late
      (s1.setFld (gooReg c 0x10) 0 24 (min late 0xFFFFFF)).noteReplayLate seg count late
    else s1

/-- The last condition of replay end is met (R49): every engine has issued END and every instruction has completed. (DEDUCED, assumption 28) -/
def execReplayDone (tid : TileId) (s : State) : Res :=
  let t := tid.toNat
  let x := s.tile t
  let allEnded := x.engines.toList.all (fun y => y.ended && y.inflight = [])
  if x.st ≠ .running ∨ !allEnded then .next s
  else
    let s1 := (s.setTile t { x with st := .idle, pendStart := none }).clusterEnd (clusterOf t) t x.seg x.count
    let s2 := s1.modLive x.seg x.count (fun l => { l with left := l.left.erase t })
    let s3 := match s2.findReplay x.seg x.count with
      | some (q, k) => match q.cmd with
        | some c => if (q.liveOf k).left = [] ∧ k + 1 = q.n then s2.complete c 0 0 else s2
        | none => s2
      | none => s2
    let s4 := s3.settleReplay x.seg x.count
    .next (match x.pendStart with
      | some (slot, count) =>
        let seg := match s4.replays.find? (fun q => q.slot = slot ∧ q.tiles.contains t ∧ q.first ≤ count.toNat ∧ count.toNat < q.first + q.n) with
          | some q => q.seg
          | none => x.seg
        s4.takeStart t slot seg count
      | none => s4)

/-! ## Halt reports (R54, R289) -/

/-- The bundle index in the entry of engine e with the largest PC that does not exceed p, of a side table of 8-byte entries; 0xFFFFFF with none (R77). -/
def sideIndex (bs : List Byte) (e p : Nat) : Nat :=
  let ws := (chunksOf 8 (bs.length / 8 + 1) bs).map leNat
  match (ws.filter (fun w => decide (fieldOf w 16 3 = e) && decide (w % 65536 ≤ p))).foldl (fun b w => match b with
    | some v => if v % 65536 ≤ w % 65536 then some w else some v
    | none => some w) none with
  | some w => fieldOf w 24 24
  | none => 0xFFFFFF

/-- Place and length in bytes of the side table of the program that a tile runs in a segment: in its cluster's vault. -/
def State.sideRange (s : State) (t : Nat) (seg : BitVec 16) : Option (Nat × Nat) :=
  (s.findSeg seg).bind (fun g => (g.programs.find? (fun p => p.1 = t)).bind (fun p =>
    (g.sides.find? (fun q => q.1 = p.2)).map (fun q => (clusterOf t * vaultSize + q.2.1, 8 * q.2.2))))

/-- Bundle index of a halt: the cluster controller reads the side table in its vault. 0xFFFFFF where there is none, for engine codes 5 and 6, and where
the vault is not available or the table cannot be read (R54, R77). -/
def State.bundleIndex (s : State) (t : Nat) (seg : BitVec 16) (h : HaltRec) : State × Nat :=
  match s.sideRange t seg with
  | none => (s, 0xFFFFFF)
  | some r =>
    if 5 ≤ h.engine ∨ !s.vaultServes (clusterOf t) then (s, 0xFFFFFF)
    else
      let c := (s.awaitBanks r.1 r.2).devCheck r.1 r.2 false
      (c.1, if c.2 = [] then sideIndex (c.1.dvRead r.1 r.2) h.engine (h.pc % 2 ^ 16) else 0xFFFFFF)

/-- Ermond stops the runs of a segment of which a tile has halted, and withdraws the starts held pending at its tiles; the command that
ordered them completes with TILE_HALTED (R289). -/
def State.stopRuns (s : State) (t : Nat) : State :=
  let hit := s.replays.filter (fun q => q.tiles.contains t && !q.stopped)
  hit.foldl (fun q r =>
    let q1 := q.setRun { r with stopped := true }
    let q2 := r.tiles.foldl (fun w u =>
      let x := w.tile u
      match x.pendStart with
      | some (slot, _) => if slot = r.slot then w.setTile u { x with pendStart := none } else w
      | none => w) q1
    match r.cmd with
    | some c => q2.complete c 0x0009 0
    | none => q2) s

def haltDetail (t bundle : Nat) (h : HaltRec) : Nat :=
  h.info % 2 ^ 32 + bundle * 2 ^ 32 + h.pc % 2 ^ 16 * 2 ^ 56 + h.reason * 2 ^ 72 + h.engine * 2 ^ 80 + t * 2 ^ 84 +
    clusterOf t * 2 ^ 96

def execTileHaltReport (tid : TileId) (s : State) : Res :=
  let t := tid.toNat
  let x := s.tile t
  match x.halt with
  | none => .next s
  | some h =>
    if x.haltReported then .next s
    else
      let r := s.bundleIndex t x.seg h
      let b := r.2
      let c := clusterOf t
      let s1 := r.1.setTile t { x with halt := some { h with bundle := b }, haltReported := true }
      let s2 := s1.modCluster c (fun y => { y with haltMap := if y.haltMap.contains (localIdx t) then y.haltMap else localIdx t :: y.haltMap })
      let ev : Event := { type := 1, rank := s.fld (mgtReg 0xA000) 0 20, beat := h.beat, detail := haltDetail t b h, remote := false }
      let s3 := s2.queueEvent ev
      let s4 := if s.fld (hifReg 0x34) 31 1 = 1 then { s3 with evForward := s3.evForward ++ [(s.fld (hifReg 0x34) 0 20, ev)] } else s3
      .next ((s4.stopRuns t).serveHalted t)

/-! ## Narrow accesses, correction and scrub (R116 to R121) -/

def srcEngine (src : Nat) : Nat := if src = 1 then 0 else if src = 0 then 5 else 6

/-- The signaller that TALLY_OVERFLOW records: the source tile of a tile's packet, else the tile itself. -/
def signaller (t : Nat) (h : FlitWord) : Nat := if hSrck h ≤ 1 then hSrc h else t

/-- A data flit of a flow is written as one whole word, a marked one as poison (R132, R133). -/
def State.writeFlit (s : State) (t flow mem off : Nat) (d : FlitWord × Bool) : State :=
  let s1 := (s.tmStore t mem off (flitBytes d.1)).modTile t (fun x => x.wrote (8 + flow) mem off 32)
  if d.2 then s1.tmPoison t mem off else s1

/-- The header signal of a packet, after its last data flit (R132): what its flow has written is visible through the tally (R41, R45); a Ladle's
packet is answered by now (R182). -/
def State.headerSignal (s : State) (t : Nat) (h : FlitWord) : State :=
  (if hHsig h then (s.modTile t (fun x => x.shown (hHtally h) (fun w => w.writer = 8 + hFlow h))).addTally t (BitVec.ofNat 5 (hHtally h)) (hHinc h) (signaller t h) else s).answerLadle h

/-- Memory and byte offset of a scrub index (R121). -/
def scrubWord (pos : Nat) : Nat × Nat :=
  ((fromTo 0 9).foldl (fun (a : Option (Nat × Nat) × Nat) m =>
    match a.1 with
    | some _ => a
    | none => if a.2 < memCap m / 32 then (some (m, 32 * a.2), 0) else (none, a.2 - memCap m / 32)) (none, pos)).1.getD (0, 0)

/-- Patrol scrub reads the next word of the tile and moves on (R119, R120, R121). -/
def State.scrubRead (s : State) (t : Nat) : State :=
  let x := s.tile t
  let w := scrubWord x.scrubPos
  let span := s.tm.beats / 16
  let next := { x with
    scrubPos := if x.scrubPos + 1 = 7936 then 0 else x.scrubPos + 1
    scrubPasses := if x.scrubPos + 1 = 7936 then satAdd 16 x.scrubPasses 1 else x.scrubPasses
    scrubSpan := span, scrubDone := (if x.scrubSpan = span then x.scrubDone else 0) + 1 }
  let rd := (s.setTile t next).eccRead t w.1 w.2 32 true
  match rd.2 with
  | some o => rd.1.halt t 6 rsnEcc 0 (eccInfo w.1 o)
  | none => rd.1

/-- A request has been served: a scalar request may issue; the receive side writes its flit, and after the last one of a packet the header
signal is applied; a write-back writes its word; a scrub read is made. The next request of its source is at the head from now on (R116, R119,
R121, R132). -/
def State.serveNarrow (s : State) (t : Nat) (r : NarrowReq) : State :=
  let x := s.tile t
  if r.src = 1 then s.setTile t { x with narrow := x.narrow.map (fun q => if q.src = 1 ∧ q.mem = r.mem then { q with granted := true } else q) }
  else
    let s1 := s.setTile t (x.keepNarrow (s.beatAt (clusterOf t)) (x.narrow.erase r))
    if r.src = 0 then
      let s2 := match r.data with
        | some d => s1.writeFlit t r.flow r.mem r.off d
        | none => s1
      match r.last with
      | some h => s2.headerSignal t h
      | none => s2
    else if r.writeback then
      let w := tmAddr t r.mem r.off / 32
      if smGet s.wordErr w true = false then { s1 with wordErr := smDel s1.wordErr w } else s1
    else s1.scrubRead t

/-- One narrow grant. `busy` names the banks of the memory that wide accesses use in this cycle, and the engine of each. An urgent
request goes first, and meets a wide access of its bank as BANK_CONFLICT, the wide access cut off and its engine in the record, whatever the request
then meets itself (R53, R117). During a zero fill nothing is granted (R122). -/
def execNarrowAccess (tid : TileId) (mem : BitVec 4) (busy : List (Nat × Option Engine)) (s : State) : Res :=
  let t := tid.toNat
  let x := s.tile t
  let m := mem.toNat
  let bankOf (r : NarrowReq) : Nat := r.off / 32 % memBanks m
  if x.zbusy ∨ x.st = .isolated then .next s
  else match (narrowHeads x m).find? (fun r => r.urgent) with
    | some r =>
      match busy.find? (fun b => b.1 = bankOf r) with
      | some (b, some e) =>
        let cut := s.cutOff t e m b
        match cut.2 with
        | some pc =>
          let s1 := cut.1.halt t (engCode e) rsnBankConflict pc (m * 2 ^ 30 + b * 2 ^ 24 + srcEngine r.src * 2 ^ 21)
          let s2 := if x.st = .running ∧ r.src = 1 then s1.modTile t (fun x => { x with owed := true }) else s1
          .next (s2.serveNarrow t r)
        | none => .next (s.serveNarrow t r)
      | _ => .next (s.serveNarrow t r)
    | none => match (narrowHeads x m).find? (fun r => !busy.any (fun b => b.1 = bankOf r)) with
      | some r => .next (s.serveNarrow t r)
      | none => .next s

/-- The head request of a memory that has waited STARVE beats becomes urgent, and counts once. -/
def execNarrowStarve (tid : TileId) (mem : BitVec 4) (s : State) : Res :=
  let t := tid.toNat
  let x := s.tile t
  let starve := s.fld (tilReg t 0x208) 0 4
  let late (r : NarrowReq) : Bool := !r.urgent && decide (r.since + starve ≤ s.beatAt (clusterOf t))
  match (narrowHeads x mem.toNat).filter late with
  | [] => .next s
  | r :: _ =>
    if starve = 0 then .next s
    else .next ((s.setTile t { x with narrow := x.narrow.map (fun q => if q = r then { q with urgent := true } else q) }).bumpF
      (tilReg t 0x20C) 0 16 1)

/-- The oldest queued write-back of a corrected word at the head of its source is written, where its memory has no request of a higher source
waiting, or it is urgent; one whose word was written meanwhile has been dropped (R116, R119). -/
def execCorrectionWriteback (tid : TileId) (s : State) : Res :=
  let t := tid.toNat
  let x := s.tile t
  if x.zbusy ∨ x.st = .isolated then .next s
  else match x.narrow.find? (fun r => r.writeback && decide (narrowHead x r.mem 2 = some r) &&
      (r.urgent || (narrowHeads x r.mem).all (fun q => decide (q.src = 2)))) with
    | some r => .next (s.serveNarrow t r)
    | none => .next s

/-- Patrol scrub makes its next read a narrow request of the word's memory, granted in this step where the port is free and no wide access uses the
word's bank (`busy` says that one does). It reads at most SCRUB_RATE words in a span of 16 beats (R116, R121). (DESIGN CHOICE, assumption 82) -/
def execTileScrubRead (tid : TileId) (busy : Bool) (s : State) : Res :=
  let t := tid.toNat
  let x := s.tile t
  let w := scrubWord x.scrubPos
  let done := if x.scrubSpan = s.tm.beats / 16 then x.scrubDone else 0
  if x.st = .isolated ∨ x.zbusy ∨ s.fld (tilReg t 0x208) 31 1 = 0 ∨ s.fld (tilReg t 0x208) 16 8 ≤ done ∨ !s.tileOk t then .next s
  else if x.narrow.any (fun r => r.src = 2 && !r.writeback) then .next s
  else if !busy ∧ narrowFree x w.1 2 then .next (s.scrubRead t)
  else .next (s.setTile t { x with narrow := x.narrow ++ [⟨2, w.1, w.2, s.beatAt (clusterOf t), false, false, false, none, none, 0⟩] })

/-! ## Zero fill (R122, R137), CLEAR, task registers -/

def execZeroFill (tid : TileId) (s : State) : Res :=
  let t := tid.toNat
  let x := s.tile t
  if x.st = .running ∨ !s.tileOk t ∨ !s.writable 1 (clusterOf t) then .next s else .next (s.setTile t { x with zbusy := true })

def execZeroFillComplete (tid : TileId) (s : State) : Res :=
  let t := tid.toNat
  let x := s.tile t
  if !x.zbusy then .next s
  else
    let lo := tmAddr t 0 0
    let hi := tmAddr (t + 1) 0 0
    let s1 : State := { s with
      tileMem := memClear s.tileMem lo hi
      wordErr := s.wordErr.filter (fun p => !(decide (lo ≤ p.1 * 32) && decide (p.1 * 32 < hi))) }
    let s2 := s1.setTile t { x.keepNarrow (s.beatAt (clusterOf t)) (x.narrow.filter (fun r => !r.writeback)) with
      zbusy := false, fresh := [], slots := Vector.replicate 8 none }
    .next (if (s2.router t).col = .fenced then s2.modRouter t (fun r => { r with zeroed := true }) else s2)

/-- CLEAR of the tile state table: accepted in HALTED and IDLE. -/
def State.clearTile (s : State) (t : Nat) : State :=
  let x := s.tile t
  match x.st with
  | .halted | .idle =>
    let s1 := s.setTile t { x.keepNarrow (s.beatAt (clusterOf t)) (x.narrow.filter (fun r => r.src ≠ 1)) with
      st := .idle, pendStart := none, swn := none, firing := [], owed := false, more := false, drops := 0, halt := none, haltReported := false
      engines := Vector.replicate 5 EngineState.reset, g := Vector.replicate 32 0
      v := Vector.replicate 16 (Vector.replicate 64 0), te := none, tallies := Vector.replicate 32 0
      fresh := x.fresh.map (fun w => { w with via := [] }) }
    let s2 := s1.modCluster (clusterOf t) (fun y => { y with haltMap := y.haltMap.erase (localIdx t) })
    if s2.power.active.contains (teUnit t) then s2.stopUnit (teUnit t) else s2
  | _ => s

def execTileClear (tid : TileId) (s : State) : Res := .next (if s.tileOk tid.toNat ∧ s.writable 1 (clusterOf tid.toNat) then s.clearTile tid.toNat else s)

/-- A write of TIL_SPM_TASKt_A or TIL_SPM_TASKt_B (R112). -/
def State.writeTask (s : State) (t task : Nat) (isB : Bool) (value : Word) : State :=
  match (s.tile t).st with
  | .idle | .halted =>
    if isB then s.setReg (tilReg t (0x224 + 8 * task)) (value &&& 0xFFFF) else s.setReg (tilReg t (0x220 + 8 * task)) value
  | _ => s.setBit (tilReg t 0x20C) 30

def execTaskRegisterWrite (tid : TileId) (task : BitVec 2) (isB : Bool) (value : Word) (s : State) : Res :=
  .next (if s.tileOk tid.toNat ∧ s.writable 1 (clusterOf tid.toNat) then s.writeTask tid.toNat task.toNat isB value else s)

end Sys2Proof.Machine
end

