-- ==== Sys2Proof/Machine/Ladle.lean ====
section
/-!
DEFINITION. The Ladles (R172 to R186): descriptors, starts, data, completion, faults, DISABLE; and LSTART. Ladle l is 0 to 63 for
the cluster Ladles, 64 and 65 for HL0 and HL1.
-/

namespace Sys2Proof.Machine

open Sys2Proof

/-! ## Descriptors (R174, R175, R178) -/

def ladleDesc (bs : List Byte) : LDesc :=
  let mode := fieldLe bs 0x14 2
  let len := fieldLe bs 0x10 4
  { src := fieldLe bs 0 8, dst := fieldLe bs 8 8, len := len % 2 ^ 25, lenHi := len / 2 ^ 25, skind := mode % 8,
    dkind := mode / 8 % 8, sfix := mode / 64 % 2 = 1, dfix := mode / 128 % 2 = 1, prio := mode / 256 % 4,
    evkind := mode / 1024 % 4, modeHi := mode / 4096, flow := fieldLe bs 0x16 2, evtile := fieldLe bs 0x18 2,
    evtally := fieldLe bs 0x1A 1, evinc := fieldLe bs 0x1B 1, rsvd := fieldLe bs 0x1C 4 }

/-- Privileged channels (R182). -/
def ladlePriv (l k : Nat) : Bool := if l < 64 then k = 7 else decide (k < 4) || (l = 65 && k = 15)

/-- The Ladle and the channel exist. -/
def State.ladleOk (s : State) (l k : Nat) : Bool :=
  if l < 64 then decide (l < s.nClusters) && decide (k < 8) else decide (l < 66) && decide (k < 16)

/-- Destination tile, memory and offset of a tile address. -/
def tileDst (a : Nat) : Nat × Nat × Nat := (fieldOf a 36 12, fieldOf a 32 2, a % 2 ^ 17)

def kindRefused (l kind : Nat) (src : Bool) : Bool :=
  if kind = 0 ∨ kind = 3 then false
  else if kind = 1 then src
  else if kind = 2 then decide (l < 64)
  else if kind = 4 then src || decide (64 ≤ l)
  else true

/-- Unit codes that name a Ladle intake. -/
def ladleUnit (u : Nat) : Bool := decide (u < 64) || u = 0x43 || u = 0x44

/-- BAD_FIELD (R178). R8 has reserved descriptor fields ignored; R178 refuses a transfer whose descriptor sets one, and as the rule of this
descriptor it is the one taken. (DEDUCED, assumption 36) -/
def descBad (l k : Nat) (d : LDesc) : Bool :=
  let addrBad (kind a : Nat) : Bool :=
    if kind = 0 ∨ kind = 2 then a % 64 ≠ 0
    else if kind = 1 then
      let t := tileDst a
      t.2.1 = 3 || t.2.2 % 64 ≠ 0 || fieldOf a 17 15 ≠ 0 || fieldOf a 34 2 ≠ 0 || a / 2 ^ 48 ≠ 0
    else a ≠ 0
  let dstBad := if d.dkind = 3 then !(ladleUnit (d.dst % 256)) || decide (d.dst / 256 ≠ 0) else addrBad d.dkind d.dst
  let srcBad := if d.skind = 3 then decide (d.src ≠ 0) else addrBad d.skind d.src
  let evBad := match d.evkind with
    | 0 | 2 => decide (d.evtile ≠ 0 ∨ d.evinc ≠ 0)
    | 1 => decide (d.evtile / 2 ^ 12 ≠ 0) || decide (d.evinc = 0)
    | _ => decide (d.evinc ≠ 0)
  d.lenHi ≠ 0 || d.len = 0 || decide (16777216 < d.len) || d.modeHi ≠ 0 || d.rsvd ≠ 0 ||
    d.evtally / 32 ≠ 0 || kindRefused l d.skind true || kindRefused l d.dkind false || srcBad || dstBad || evBad ||
    (d.sfix && d.skind = 3) || (d.dfix && (d.dkind = 3 || d.dkind = 4)) ||
    (ladlePriv l k && d.evkind = 1 && d.dkind = 1 && d.evtile ≠ (tileDst d.dst).1)

/-- ADDR_RANGE and UNIT_ABSENT of one device address range. Addresses that belong to no unit are absent (R4). (DEDUCED, assumption 36) -/
def State.sideFault (s : State) (l a n : Nat) : Option Nat :=
  let half (x : Nat) : Bool := decide (lpxBase ≤ x) && decide (x < lpxEnd)
  if a / vaultSize < 64 then
    let v := a / vaultSize
    if (a + n - 1) / vaultSize ≠ v ∨ l ≠ v then some 2 else if s.nClusters ≤ v then some 3 else none
  else if half a then
    if !half (a + n - 1) ∨ lpHalf a ≠ lpHalf (a + n - 1) then some 2 else if !s.full then some 3 else none
  else if half (a + n - 1) then some 2
  else some 3

/-- The fault of a descriptor at its start: the lowest reason code of those it breaks; 0 for none (R178). (DEDUCED, assumption 36) -/
def State.descFault (s : State) (l k : Nat) (d : LDesc) : Nat :=
  let src := if d.skind = 0 then s.sideFault l d.src (spanBytes d d.sfix) else none
  let dst := if d.dkind = 0 then s.sideFault l d.dst (spanBytes d d.dfix) else none
  let unitOk (u : Nat) : Bool := if u < 64 then decide (u < s.nClusters) else true
  let absent := src = some 3 || dst = some 3 || (d.dkind = 1 && !s.tileOk (tileDst d.dst).1) ||
    (d.dkind = 3 && !unitOk (d.dst % 256)) || (d.dkind = 4 && !s.full) || (d.evkind = 1 && !s.tileOk (d.evtile % 4096))
  if descBad l k d then 1 else if src = some 2 ∨ dst = some 2 then 2 else if absent then 3 else 0

/-! ## Faults (R185) -/

/-- A channel with nothing left of a command's transfers. -/
def LChan.without (c : LChan) (seq : Nat) : LChan :=
  let slots := c.slots.filter (fun w => w.2 ≠ some seq)
  if c.tr.any (fun r => r.cmd = some seq) then { c with st := .idle, slots := slots, tr := none, stage := [], half := none, gone := 0 }
  else { c with slots := slots }

/-- The other transfers of a command that has ended go with it (R289). -/
def State.dropCmd (s : State) (seq : Nat) : State :=
  { s with ladles := s.ladles.map (fun l => (l.1, { l.2 with ch := l.2.ch.map (fun c => (c.1, c.2.without seq)) })) }

/-- A command that Ermond carries out by Ladle transfers ends early. -/
def State.endCmd (s : State) (c : Option Nat) (status : Nat) : State :=
  match c with
  | some seq => (s.complete seq status 0).dropCmd seq
  | none => s

/-- A part of a command's transfers is over: at the last one the command completes (R289). -/
def State.cmdPart (s : State) (c : Option Nat) : State :=
  match c with
  | none => s
  | some seq => match s.findCmd seq with
    | none => s
    | some q => if q.left ≤ 1 then s.complete seq 0 0 else s.started seq (q.left - 1)

/-- The transfers of a channel, or of all, are cut off: what is left of a packet already begun on the mesh goes as poison, and reads that have not
returned are forgotten (R186). -/
def LadleState.cut (x : LadleState) (which : Nat → Bool) : LadleState :=
  { x with
    sending := x.sending.map (fun w => if which w.k then { w with live := false, left := w.left.map (fun f => (f.1, true)) } else w)
    asks := x.asks.filter (fun a => !which a.k) }

/-- A channel enters FAULT: recorded, reported, the descriptors behind it dropped, its command ended (R185, R289). (DEDUCED, assumption 36) -/
def State.ladleFault (s : State) (l k reason flow status : Nat) : State :=
  let c := s.lchan l k
  let behind := c.slots.drop 1
  let s0 := s.setLadle l ((s.ladle l).cut (fun j => j = k))
  let s1 := s0.setLchan l k
    { c with st := .fault, slots := [], tr := none, drops := satAdd 7 c.drops behind.length, flow := flow, stage := [], half := none, gone := 0 }
    |>.noteSlots l k (4 - c.slots.length) 4
  let s2 := s1.setReg (ldlReg l 8) (BitVec.ofNat 32 (2 ^ 31 + k * 2 ^ 24 + reason * 2 ^ 16 + flow))
  let s3 := s2.raise 0x11 (l + k * 2 ^ 8 + reason * 2 ^ 16 + flow * 2 ^ 32)
  c.slots.foldl (fun q w => q.endCmd w.2 status) s3

/-- A start: a free slot takes the descriptor; in FAULT it is dropped, and under DISABLE it faults with DISABLED (R173, R185, R186).
False where no slot is free. -/
def State.ladleStart (s : State) (l k : Nat) (d : LDesc) (cmd : Option Nat) : State × Bool :=
  let c := s.lchan l k
  if c.st = .fault then
    let s1 := s.setLchan l k { c with drops := satAdd 7 c.drops 1 }
    (s1.endCmd cmd 7, true)
  else if s.fld (ldlReg l 0) 31 1 = 1 then
    ((s.setLchan l k { c with slots := [(d, cmd)] }).ladleFault l k 6 d.flow 7, true)
  else if 4 ≤ c.slots.length then (s, false)
  else (s.setLchan l k { c with slots := c.slots ++ [(d, cmd)] }, true)

/-- LADLE_TRANSFER_START: IDLE, a descriptor in a slot: ACTIVE after the checks, or FAULT. -/
def State.transferStart (s : State) (l k : Nat) : State :=
  let c := s.lchan l k
  match c.st, c.slots with
  | .idle, (d, cmd) :: _ =>
    let f := s.descFault l k d
    if f ≠ 0 then s.ladleFault l k f d.flow 7
    else
      let x := s.ladle l
      let tr : Transfer := { d := d, asked := 0, done := 0, unanswered := 0, lastBeat := 0, order := x.nextOrder, cmd := cmd }
      let s1 := s.setLadle l { x with nextOrder := x.nextOrder + 1 }
      (s1.setLchan l k { c with st := .active, tr := some tr, flow := d.flow, stage := [], half := none, gone := 0 }).setReg (ldlReg l (0x104 + 0x10 * k)) 0
  | _, _ => s

/-- A Ladle out of its isolation wrapper, or host Ladle out of its reset (R13, R343). -/
def State.ladleServes (s : State) (l : Nat) : Bool :=
  if l < 64 then !(s.cluster l).isolated else decide (s.domain 6 (l - 64) = .run)

/-- A channel takes the next descriptor of its slots. `order`: a descriptor that the cluster controller, by its plan tables or by Ermond's order, or
Ermond's firmware at HL0 and HL1 puts into a free slot first (R172). Behind its wrapper a Ladle takes none (R13). -/
def execLadleTransferStart (l : BitVec 7) (k : BitVec 4) (order : Option (List Byte)) (s : State) : Res :=
  if s.ladleOk l.toNat k.toNat ∧ s.ladleServes l.toNat then
    let s1 := match order with
      | some bs => (s.ladleStart l.toNat k.toNat (ladleDesc bs) none).1
      | none => s
    .next (s1.transferStart l.toNat k.toNat)
  else .next s

/-! ## LSTART (R173, R174) -/

def execLstart (k : Issue) (ga : BitVec 5) (ch : BitVec 3) (s : State) : Res :=
  let t := k.tile.toNat
  let l := clusterOf t
  let a := ((s.tile t).gpr ga).toNat
  let c := s.lchan l ch.toNat
  let free := if c.st = .fault then 4 else 4 - c.slots.length
  .next (s.issue .sc k [⟨24 + ch.toNat, free, 1⟩] (fun _ => none) false (fun q =>
    match (if 16384 < a + 32 then [(rsnBound, boundInfo 3 (q.tile t).task.toNat (if a < 16384 then 16384 else a))] else []) ++
        (if a % 32 ≠ 0 then [(rsnFormat, q.imWord t .sc)] else []) with
    | c :: r => .stop (c :: r)
    | [] =>
      let rd := q.engRead k .sc 3 a 32
      match rd.2.2 with
      | some w => .fail rd.1 rsnEcc (eccInfo 3 w)
      | none => .done (rd.1.ladleStart l ch.toNat (ladleDesc rd.2.1) none).1 [] false none))

/-! ## Moving data (R176, R177, R179, R180) -/

/-- Whether the data of a transfer come through the Ladle's own intake: SKIND 3, and LPDDR6 reads (R176). -/
def viaIntake (d : LDesc) : Bool := d.skind = 3 || (d.skind = 0 && decide (lpxBase ≤ d.src))

/-- Units of the next packet of a transfer: at most 8, all that are left. -/
def nextUnits (tr : Transfer) : Nat := min 8 (tr.d.len - tr.done)

def srcAddr (d : LDesc) (u : Nat) : Nat := if d.sfix then d.src else d.src + 64 * u
def dstAddr (d : LDesc) (u : Nat) : Nat := if d.dfix then d.dst else d.dst + 64 * u

/-- Column and row that a unit's packet aims at: the destination tile's; of the router with local index FLOW mod 64 in the cluster of unit u; FLOW
mod 64 where u is an uncore unit (R127). (DESIGN CHOICE, assumption 25) -/
def aimAt (tile : Option Nat) (u flow : Nat) : Nat × Nat :=
  match tile with
  | some t => (tx t, ty t)
  | none => if u < 64 then (tx (tileAt u (flow % 64)), ty (tileAt u (flow % 64))) else (flow % 64, flow % 64)

/-- Router and input port at which a Ladle's packet enters the mesh: a cluster Ladle's through its cluster's port (R127), a host Ladle's at the north
edge in the column it aims at. (DESIGN CHOICE, assumption 25) -/
def ladleEntry (l : Nat) (tile : Option Nat) (u flow : Nat) : Nat × RPort :=
  if l < 64 then (tileAt l (match tile with | some t => localIdx t | none => flow % 64), .cluster) else ((aimAt tile u flow).1, .north)

/-- Router and input port at which an LPX half's packet to unit u enters the mesh: its own edge, in the row it aims at. (DESIGN CHOICE, assumption
25) -/
def lpEntry (half u flow : Nat) : Nat × RPort :=
  let row := (aimAt none u flow).2
  if half = 0 then (64 * row, .west) else (64 * row + 63, .east)

/-- Entry point of a transfer's data packets. -/
def dataEntry (l : Nat) (d : LDesc) : Nat × RPort :=
  ladleEntry l (if d.dkind = 1 then some (tileDst d.dst).1 else none) (if d.dkind = 0 then 0x41 else d.dst % 256) d.flow

/-- Source kind and number of a Ladle in a header (R125). -/
def ladleSrc (l : Nat) (f : HdrF) : HdrF := { f with srck := if l < 64 then 3 else 6, src := if l < 64 then l else l - 64 }

def State.ladleEpoch (s : State) (l : Nat) : Nat := (s.cluster (if l < 64 then l else 0)).epoch.toNat

/-- The channel that goes first of those that are ready: highest PRIO, then the earlier start, then the lower number (R179). -/
def State.ladleBest (s : State) (l : Nat) (ready : Nat → Transfer → Bool) : Option Nat :=
  let key (k : Nat) : Nat := match (s.lchan l k).tr with
    | some tr => (3 - tr.d.prio) * 2 ^ 64 + tr.order
    | none => 2 ^ 68
  let ok (k : Nat) : Bool := match (s.lchan l k).st, (s.lchan l k).tr with
    | .active, some tr => ready k tr
    | _, _ => false
  ((fromTo 0 16).filter ok).foldl (fun best k => match best with
    | none => some k
    | some b => if key k < key b then some k else best) none

/-- The staging buffer of a channel holds its next packet whole. -/
def State.stageWhole (s : State) (l k : Nat) (tr : Transfer) : Bool :=
  decide (0 < nextUnits tr) && decide ((s.lchan l k).stage.length = 2 * nextUnits tr)

/-- The staging buffer has room for a flit: it holds less than the next packet, and no packet of the channel is under way. -/
def State.stageRoom (s : State) (l k : Nat) (tr : Transfer) : Bool :=
  decide ((s.lchan l k).stage.length < 2 * nextUnits tr) && !(s.ladle l).sending.any (fun w => w.k = k && w.live)

/-- Address of the unit that a channel reads next from its source. -/
def State.nextSource (s : State) (l k : Nat) (tr : Transfer) : Nat := srcAddr tr.d (tr.done + (s.lchan l k).stage.length / 2)

/-- A channel reads its vault next, and that read meets a bank under refresh (R146). -/
def State.sourceHeld (s : State) (l k : Nat) (tr : Transfer) : Bool :=
  s.stageRoom l k tr && (s.lchan l k).half.isNone && tr.d.skind = 0 && !viaIntake tr.d && s.bankHeld (s.nextSource l k tr) 64

/-- A channel has source data for its next flit, and room for it in staging (R179). -/
def State.sourceReady (s : State) (l k : Nat) (tr : Transfer) : Bool :=
  s.stageRoom l k tr && ((s.lchan l k).half.isSome ||
    (if viaIntake tr.d then decide (smGet (s.ladle l).intake (flowKey tr) [] ≠ [])
     else if tr.d.skind = 0 then s.vaultServes l && !s.sourceHeld l k tr
     else s.domain 6 (l - 64) = .run))

/-- One flit from its source into a channel's staging buffer. A vault or host unit is read once for its two flits. -/
def State.stageFlit (s : State) (l k : Nat) (tr : Transfer) : State :=
  let c := s.lchan l k
  match c.half with
  | some f => s.setLchan l k { c with stage := c.stage ++ [f], half := none }
  | none =>
    if viaIntake tr.d then
      let x := s.ladle l
      match smGet x.intake (flowKey tr) [] with
      | [] => s
      | f :: rest =>
        (s.setLadle l { x with intake := if rest = [] then smDel x.intake (flowKey tr) else smSet x.intake (flowKey tr) rest }).setLchan l k
          { c with stage := c.stage ++ [f] }
    else
      let a := s.nextSource l k tr
      let r := if tr.d.skind = 0 then (s.serveBanks a 64 0).devCheck a 64 false else (s, [])
      let bs := if tr.d.skind = 0 then r.1.dvRead a 64 else r.1.hostRead a 64
      let p := decide (r.2 ≠ [])
      r.1.setLchan l k { c with stage := c.stage ++ [(bytesFlit (bs.take 32), p)], half := some (bytesFlit (bs.drop 32), p) }

def anyChannel (s : State) (l : Nat) (f : Nat → Transfer → Bool) : Bool := (s.ladleBest l f).isSome

/-- The source path of a Ladle in one cycle. -/
def State.ladleFill (s : State) (l : Nat) : State :=
  let s1 := if anyChannel s l (s.sourceHeld l) then s.refStall l else s
  match s1.ladleBest l (s1.sourceReady l) with
  | some k => match (s1.lchan l k).tr with
    | some tr => s1.stageFlit l k tr
    | none => s1
  | none => s1

/-! ### Read requests to LPDDR6 (R176) -/

/-- INLINE of a read request, of a write response: internal to the device. (DESIGN CHOICE, assumption 35) -/
def askInline (id : Nat) : Nat := 0xC0 + id % 2 ^ 64 * 2 ^ 8
def respInline (status order units : Nat) : Nat := 0xC1 + status % 256 * 2 ^ 8 + order % 2 ^ 64 * 2 ^ 16 + units % 256 * 2 ^ 80

/-- A channel has units still to ask for, not more than two packets ahead, and its request a credit. (DESIGN CHOICE, assumption 35) -/
def State.askReady (s : State) (l : Nat) (tr : Transfer) : Bool :=
  let e := ladleEntry l none (0x41 + lpHalf tr.d.src) tr.d.flow
  tr.d.skind = 0 && decide (lpxBase ≤ tr.d.src) && decide (tr.asked < tr.d.len) && decide (tr.asked < tr.done + 16) &&
    (tr.cmd.isSome || decide (0 < s.roomAt e.1 e.2 2))

/-- A Ladle asks LPDDR6 for the next units of a transfer, up to the end of a 256-byte block: a CTRL packet to the half, or Ermond's own way for a
transfer of Ermond. -/
def State.ladleAsk (s : State) (l : Nat) : State :=
  match s.ladleBest l (fun _ => s.askReady l) with
  | none => s
  | some k => match (s.lchan l k).tr with
    | none => s
    | some tr =>
      let d := tr.d
      let a := srcAddr d tr.asked
      let n := if d.sfix then 1 else min (d.len - tr.asked) ((256 - a % 256) / 64)
      let x := s.ladle l
      let s1 := (s.setLadle l { x with
        asks := x.asks ++ [{ id := x.nextAsk, k := k, order := tr.order, a := a, n := n, fin := decide (tr.asked + n = d.len) }]
        nextAsk := x.nextAsk + 1 })
      let s2 := s1.setLchan l k { s1.lchan l k with tr := some { tr with asked := tr.asked + n } }
      if tr.cmd.isSome then { s2 with lpReqs := s2.lpReqs ++ [(l, x.nextAsk)] }
      else
        let u := 0x41 + lpHalf a
        let e := ladleEntry l none u d.flow
        s2.enterMesh e.1 e.2 (mkHdr (ladleSrc l
          { cls := 2, kind := 3, epoch := s.ladleEpoch l, unit := u, inl := askInline x.nextAsk })) []

/-! ### Where packets go -/

/-- The path of a transfer's packets: 0 the mesh, 1 the vault beside the Ladle, 2 host memory, 3 the Skillet's intake, 4 Ermond's own transfers to
another Ladle or to LPDDR6, which no plan gives windows on the mesh. (DESIGN CHOICE, assumption 55) -/
def ladlePath (tr : Transfer) : Nat :=
  if tr.d.dkind = 0 then (if tr.d.dst < lpxBase then 1 else if tr.cmd.isSome then 4 else 0)
  else if tr.d.dkind = 2 then 2
  else if tr.d.dkind = 4 then 3
  else if tr.d.dkind = 3 ∧ tr.cmd.isSome then 4
  else 0

/-- 64-byte units of staged flits, each with its poison mark. -/
def stagedUnits (fs : List (FlitWord × Bool)) : List (List Byte × Bool) :=
  (chunksOf 2 fs.length fs).map (fun u => (u.flatMap (fun f => flitBytes f.1), u.any (fun f => f.2)))

/-- A packet of a transfer has left the engine: counted, and poison it carried shown (R184). -/
def State.ladleLeft (s : State) (l k n : Nat) : State :=
  let c := s.lchan l k
  match c.tr with
  | none => s
  | some tr => (s.setLchan l k { c with tr := some { tr with done := tr.done + n, lastBeat := s.beat.toNat } }).setReg
      (ldlReg l (0x104 + 0x10 * k)) (BitVec.ofNat 32 (tr.done + n))

/-- The staging buffer of a channel is emptied into a packet. -/
def State.takeStage (s : State) (l k : Nat) : State × List (FlitWord × Bool) :=
  let c := s.lchan l k
  let s1 := s.setLchan l k { c with stage := [], gone := 0 }
  (if c.stage.any (fun f => f.2) then s1.setBit (ldlReg l (0x100 + 0x10 * k)) 23 else s1, c.stage)

/-- Header of a data packet of a transfer (R125, R176, R183). -/
def ladleHdr (s : State) (l : Nat) (tr : Transfer) (n : Nat) (fin : Bool) : FlitWord :=
  let d := tr.d
  let base : HdrF := ladleSrc l { cls := 0, epoch := s.ladleEpoch l, len := 2 * n, last := fin, flow := d.flow }
  let td := tileDst (dstAddr d tr.done)
  let sig := fin && d.evkind = 1 && d.dkind = 1 && d.evtile = (tileDst d.dst).1
  if d.dkind = 1 then
    mkHdr { base with kind := 0, dest := td.1, dmem := td.2.1, daddr := td.2.2, hsig := sig,
                      htally := if sig then d.evtally else 0, hinc := if sig then d.evinc else 0 }
  else mkHdr { base with kind := 3, unit := if d.dkind = 0 then 0x41 + lpHalf d.dst else d.dst % 256 }

/-- Channels of LPDDR6 that n units from address a lie in. -/
def lpChans (a n : Nat) : List Nat := ((fromTo 0 n).map (fun i => lpChan (a + 64 * i))).eraseDups

/-- A channel that Ermond has parked keeps its requests waiting; one out of service for another reason answers them with errors (R166, R171). -/
def State.lpParked (s : State) (c : Nat) : Bool := decide ((s.lpch c).st = .selfref) && decide (s.domain 4 c = .run)

/-- A channel takes a request: it leaves power-down, and is at work from its first request on (R171, R265). -/
def State.lpWake (s : State) (c : Nat) : State := (s.setLpch c { s.lpch c with powerDown := false }).startUnit (lpUnit c)

/-- The first of several channels in service whose start the Kettle holds, the starts of those before it counted (R265 to R267). -/
def State.lpHeld (s : State) : List Nat → Option Nat
  | [] => none
  | c :: r =>
    if (s.lpch c).st ≠ .up then s.lpHeld r
    else if !s.mayStart (lpUnit c) then some c
    else (s.startUnit (lpUnit c)).lpHeld r

/-- Units written to LPDDR6: those of channels in service; the status of the error response for the others, 0 for none (R166, R343). -/
def State.lpWriteUnits (s : State) (a : Nat) (us : List (List Byte × Bool)) : State × Nat :=
  let cs := lpChans a us.length
  let up (q : State) (c : Nat) : Bool := (q.lpch c).st = .up
  let s1 := (cs.filter (up s)).foldl State.lpWake s
  let s2 := (us.zipIdx).foldl (fun q u => if up q (lpChan (a + 64 * u.2)) then q.devStoreUnit (a + 64 * u.2) u.1.1 u.1.2 else q) s1
  (s2, match cs.find? (fun c => !up s c) with
    | some c => if s.domain 4 c = .run then 7 else 8
    | none => 0)

/-- The unit of a staged packet whose second flit goes next on a path beside the mesh. -/
def State.unitNext (s : State) (l k : Nat) : Option Nat :=
  let c := s.lchan l k
  if c.gone % 2 = 1 then some (c.gone / 2) else none

/-- A channel's next flit on a path beside the mesh completes a unit for LPDDR6 that its channel does not take now: parked, or held by the Kettle. -/
def State.lpBlocked (s : State) (l k : Nat) (tr : Transfer) : Option Nat :=
  match s.unitNext l k with
  | some u =>
    let c := lpChan (dstAddr tr.d (tr.done + u))
    if ladlePath tr = 4 ∧ tr.d.dkind = 0 ∧ s.stageWhole l k tr ∧ (s.lpParked c ∨ (s.lpHeld [c]).isSome) then some c else none
  | none => none

/-- A path beside the Ladle is ready for the next flit of a channel's packet (R179). -/
def State.pathReady (s : State) (l p : Nat) (k : Nat) (tr : Transfer) : Bool :=
  let d := tr.d
  ladlePath tr = p && s.stageWhole l k tr &&
    (if p = 1 then s.vaultServes l && (match s.unitNext l k with
        | some u => !s.bankHeld (dstAddr d (tr.done + u)) 64
        | none => true)
     else if p = 2 then s.domain 6 (l - 64) = .run
     else if p = 3 then decide (0 < (s.lchan l k).gone) || s.portVerdict (.skillet (BitVec.ofNat 6 l)) d.flow ≠ .wait
     else (s.lpBlocked l k tr).isNone)

/-- A channel's next unit for the vault beside the Ladle meets a bank under refresh (R146). -/
def State.pathHeld (s : State) (l k : Nat) (tr : Transfer) : Bool :=
  ladlePath tr = 1 && s.stageWhole l k tr && (match s.unitNext l k with
    | some u => s.bankHeld (dstAddr tr.d (tr.done + u)) 64
    | none => false)

/-- A unit has gone whole on a path beside the mesh: into the vault, host memory or LPDDR6, where its write is answered at once (R176, R182). -/
def State.pathUnit (s : State) (l k : Nat) (tr : Transfer) (u : Nat) (d : List Byte × Bool) : State :=
  let a := dstAddr tr.d (tr.done + u)
  let p := ladlePath tr
  if p = 1 then (((s.serveBanks a 64 0).devStoreUnit a d.1 d.2).onward l tr 1).setReg (ldlReg l (0x104 + 0x10 * k)) (BitVec.ofNat 32 (tr.done + u + 1))
  else if p = 2 then
    ((if d.2 then s.hostFree a 64 else s.hostWrite a d.1).onward l tr 1).setReg (ldlReg l (0x104 + 0x10 * k)) (BitVec.ofNat 32 (tr.done + u + 1))
  else if p = 4 ∧ tr.d.dkind = 0 then
    let w := s.lpWriteUnits a [d]
    if w.2 = 0 then w.1.onward l tr 1 else w.1.ladleFault l k 4 tr.d.flow w.2
  else s

/-- The router that stands for the one which carries a packet to the Skillet beside its Ladle, where none does: R403 and R26 are silent on it. (DESIGN
CHOICE, assumptions 25 and 91) -/
def besideTile (l : Nat) (d : LDesc) : Nat := tileAt l (d.flow % 64)

/-- The last flit of a staged packet has gone: into the Skillet's intake as a packet of its flow (R176, R403), into another Ladle's intake for Ermond's
own transfers, or as units before (R180). -/
def State.pathEnd (s : State) (l k : Nat) (tr : Transfer) : State :=
  let d := tr.d
  let n := nextUnits tr
  let fin := decide (tr.done + n = d.len)
  let q := s.takeStage l k
  let p := ladlePath tr
  if p = 3 then
    let port := OwnPort.skillet (BitVec.ofNat 6 l)
    let w := q.1.windowOf port
    let s1 := (q.1.placeWindow port (besideTile l d)).putIntake port { hdr := ladleHdr q.1 l tr n fin, data := q.2, seg := w.1, gate := w.2 }
    ((if fin then s1.endPacketLeft port (besideTile l d) else s1).onward l tr n).ladleLeft l k n
  else if d.dkind = 3 then
    let f := if d.dst % 256 < 64 then d.dst % 256 else 64 + (d.dst % 256 - 0x43)
    let s1 := q.1.setLchan l k { q.1.lchan l k with tr := some { tr with unanswered := tr.unanswered + n } }
    let x := s1.ladle f
    (s1.setLadle f { x with intake := smSet x.intake (flowKey tr) (smGet x.intake (flowKey tr) [] ++ q.2) }).ladleLeft l k n
  else q.1.ladleLeft l k n

/-- A packet for the Skillet beside the Ladle whose flow has no window left there: discarded, and the tile of its router halts (R26). -/
def State.pathConflict (s : State) (l k : Nat) (tr : Transfer) : State :=
  (((s.takeStage l k).1.halt (besideTile l tr.d) 5 rsnRouteConflict 0 (6 * 2 ^ 24 + 6 * 2 ^ 20 + tr.d.flow))).ladleLeft l k (nextUnits tr)

/-- One flit of channel k's staged packet goes on its path beside the mesh (R179). -/
def State.pathSend (s : State) (l k : Nat) (tr : Transfer) : State :=
  let c := s.lchan l k
  if ladlePath tr = 3 ∧ c.gone = 0 ∧ s.portVerdict (.skillet (BitVec.ofNat 6 l)) tr.d.flow = .conflict then s.pathConflict l k tr
  else
    let s1 := s.setLchan l k { c with gone := c.gone + 1 }
    let s2 := match s.unitNext l k with
      | some u => s1.pathUnit l k tr u ((stagedUnits c.stage).getD u ([], false))
      | none => s1
    if c.gone + 1 = c.stage.length ∧ (s2.lchan l k).st = .active then s2.pathEnd l k tr else s2

/-- One path beside the mesh in one cycle. -/
def State.ladleBeside (s : State) (l p : Nat) : State :=
  let s0 := if p = 1 ∧ anyChannel s l (s.pathHeld l) then s.refStall l else s
  let s1 := match s0.ladleBest l (fun k tr => decide (p = 4) && (s0.lpBlocked l k tr).any (fun c => !s0.lpParked c)) with
    | some k => match (s0.lchan l k).tr.bind (s0.lpBlocked l k) with
      | some c => s0.holdUnit (lpUnit c)
      | none => s0
    | none => s0
  match s1.ladleBest l (s1.pathReady l p) with
  | some k => match (s1.lchan l k).tr with
    | some tr => s1.pathSend l k tr
    | none => s1
  | none => s1

/-- A packet of channel k begins on the mesh: its header goes. With DFIX a tile or LPDDR6 keeps only the last unit written (R175). -/
def State.beginSend (s : State) (l k : Nat) (tr : Transfer) : State :=
  let d := tr.d
  let n := nextUnits tr
  let fin := decide (tr.done + n = d.len)
  let e := dataEntry l d
  let q := s.takeStage l k
  let fs := if d.dfix then q.2.drop (q.2.length - 2) else q.2
  let h := ladleHdr q.1 l tr (fs.length / 2) fin
  let s1 := q.1.arriveIn e.1 e.2 0 ⟨h, true, false, e.1⟩
  let s2 := s1.setLadle l { s1.ladle l with sending := some { k := k, t := e.1, inp := e.2, hdr := h, left := fs, units := n, live := true } }
  let more := if d.dkind = 0 then 1 else if d.dkind = 1 then bit fin else if d.dkind = 3 then n else 0
  let s3 := s2.setLchan l k { s2.lchan l k with tr := some { tr with unanswered := tr.unanswered + more } }
  if d.dkind = 0 then { s3 with lpWrites := s3.lpWrites ++ [(l, d.flow, dstAddr d tr.done, tr.order)] } else s3

/-- The mesh path in one cycle: a flit of the packet under way, which nothing splits, else the header of a packet whole in staging, where the router
has a credit (R179, R180). -/
def State.ladlePush (s : State) (l : Nat) : State :=
  match (s.ladle l).sending with
  | some w =>
    if s.roomAt w.t w.inp 0 = 0 then s
    else match w.left with
      | [] => s.setLadle l { s.ladle l with sending := none }
      | f :: rest =>
        let s1 := s.arriveIn w.t w.inp 0 ⟨f.1, false, f.2, w.t⟩
        let s2 := s1.setLadle l { s1.ladle l with sending := if rest = [] then none else some { w with left := rest } }
        if rest = [] ∧ w.live then s2.ladleLeft l w.k w.units else s2
  | none =>
    let ready (k : Nat) (tr : Transfer) : Bool :=
      let e := dataEntry l tr.d
      ladlePath tr = 0 && s.stageWhole l k tr && decide (0 < s.roomAt e.1 e.2 0) && s.inputFree e.1 e.2
    match s.ladleBest l ready with
    | some k => match (s.lchan l k).tr with
      | some tr => s.beginSend l k tr
      | none => s
    | none => s

/-- A channel whose next access is to the vault or the Skillet beside it, behind an isolation wrapper: its source, or the destination of its staged
packet (R343). -/
def State.wrapped (s : State) (l k : Nat) (tr : Transfer) : Bool :=
  let hidden := decide (l < 64) && ((s.vault l).selfref || (s.cluster l).isolated)
  hidden && ((tr.d.skind = 0 && !viaIntake tr.d && s.stageRoom l k tr && (s.lchan l k).half.isNone) ||
    (s.stageWhole l k tr && (ladlePath tr = 1 || ladlePath tr = 3)))

/-- The wrapper answers with an error response: the transfer faults, its command ends with ABORTED_RESET (R184, R343). -/
def State.wrapperAnswers (s : State) (l : Nat) : State :=
  match s.ladleBest l (s.wrapped l) with
  | some k => s.ladleFault l k 4 (s.lchan l k).flow 8
  | none => s

/-- One cycle of a Ladle: on each path, the ready channel of highest priority moves (R179). Behind its own wrapper only the rest of a packet begun on
the mesh goes, as poison (R343). -/
def State.ladleCycle (s : State) (l : Nat) : State :=
  if !s.ladleServes l then (if (s.ladle l).sending.isSome then s.ladlePush l else s)
  else
    let s1 := (((s.wrapperAnswers l).ladleFill l).ladleAsk l).ladlePush l
    (((s1.ladleBeside l 1).ladleBeside l 2).ladleBeside l 3).ladleBeside l 4

def State.ladleCycles (s : State) (l : Nat) : Nat → State
  | 0 => s
  | n + 1 => (s.ladleCycle l).ladleCycles l n

/-- A Ladle works for a number of cycles, within which nothing else happens; as many as it takes bring a packet whole onto its path. (DESIGN CHOICE,
assumption 25) -/
def execLadlePacketSend (l : BitVec 7) (cycles : BitVec 8) (s : State) : Res :=
  if s.ladleOk l.toNat 0 then .next (s.ladleCycles l.toNat cycles.toNat) else .next s

/-! ## Intakes (R176, R177) -/

/-- A packet of an intake's queue is taken. -/
def State.popIntake (s : State) (p : OwnPort) (pk : Packet) : State :=
  { s with intakeQ := smSet s.intakeQ (ownKey p) ((smGet s.intakeQ (ownKey p) []).erase pk) }

/-- A channel that waits for units of a flow at its Ladle's intake: it takes LEN units and no more (R177). -/
def State.wantsFlow (s : State) (l flow : Nat) : Bool :=
  anyChannel s l (fun k tr => viaIntake tr.d && flowKey tr = flow &&
    decide ((s.lchan l k).stage.length + (smGet (s.ladle l).intake flow []).length < 2 * (tr.d.len - tr.done)))

/-- A packet of PLAN data at a Ladle's intake: lost where it was in flight at a DISABLE (R186), else for the channel that waits for its flow. -/
def State.takeAtLadle (s : State) (l : Nat) (p : OwnPort) (pk : Packet) : State :=
  let flow := hFlow pk.hdr
  let lost := smGet (s.ladle l).lost flow 0
  if 0 < lost then
    let s1 := s.popIntake p pk
    s1.setLadle l { s1.ladle l with lost := if lost = 1 then smDel (s1.ladle l).lost flow else smSet (s1.ladle l).lost flow (lost - 1) }
  else if s.wantsFlow l flow then
    let s1 := s.popIntake p pk
    let x := s1.ladle l
    s1.setLadle l { x with intake := smSet x.intake flow (smGet x.intake flow [] ++ pk.data) }
  else s

/-- The Ladle that sent a packet. -/
def senderOf (h : FlitWord) : Nat := if hSrck h = 3 then hSrc h else 64 + hSrc h

/-- Writes of a packet at an LPX intake, at the address its Ladle named, and the response, a CTRL packet (R176). A channel out of service takes none
and answers with an error response (R166, R343); one whose start the Kettle holds keeps the packet waiting (R267). (DESIGN CHOICE, assumption 35) -/
def State.takeAtLpx (s : State) (p : OwnPort) (half : Nat) (pk : Packet) : State :=
  let l := senderOf pk.hdr
  match s.lpWrites.find? (fun w => w.1 = l ∧ w.2.1 = hFlow pk.hdr) with
  | none => s.popIntake p pk
  | some w =>
    let a := w.2.2.1
    let us := stagedUnits pk.data
    let e := lpEntry half (unitCode l) (hFlow pk.hdr)
    if (lpChans a us.length).any s.lpParked then s
    else match s.lpHeld (lpChans a us.length) with
    | some c => s.holdUnit (lpUnit c)
    | none =>
      if s.roomAt e.1 e.2 2 = 0 then s
      else
        let r := ({ s.popIntake p pk with lpWrites := s.lpWrites.erase w } : State).lpWriteUnits a us
        r.1.enterMesh e.1 e.2 (mkHdr
          { cls := 2, kind := 3, epoch := s.ladleEpoch 64, srck := 7, src := 0x41 + half, unit := unitCode l
            inl := respInline r.2 w.2.2.2 us.length }) []

/-- A write response at its Ladle: the transfer counts it, or faults with RESP_ERROR (R182, R184). -/
def State.takeResponse (s : State) (l : Nat) (h : FlitWord) : State :=
  let status := fieldOf (hInline h) 8 8
  let order := fieldOf (hInline h) 16 64
  if hInline h % 256 ≠ 0xC1 then s
  else match (fromTo 0 16).find? (fun k => (s.lchan l k).tr.any (fun tr => tr.order % 2 ^ 64 = order)) with
    | none => s
    | some k => match (s.lchan l k).tr with
      | none => s
      | some tr =>
        if status = 0 then
          (s.setLchan l k { s.lchan l k with tr := some { tr with unanswered := tr.unanswered - 1 } }).onward l tr (fieldOf (hInline h) 80 8)
        else s.ladleFault l k 4 tr.d.flow status

/-- An error response to the transfer of a Ladle whose packet reaches an isolation wrapper (R343). -/
def State.refusePacket (s : State) (h : FlitWord) : State :=
  if hSrck h = 3 ∨ hSrck h = 6 then
    let l := senderOf h
    match (fromTo 0 16).find? (fun k => (s.lchan l k).tr.any (fun tr => tr.d.flow = hFlow h)) with
    | some k => s.ladleFault l k 4 (hFlow h) 8
    | none => s
  else s

/-- The unit behind an intake is behind its isolation wrapper (R13, R343). -/
def State.intakeIsolated (s : State) (p : OwnPort) : Bool :=
  match p with
  | .skillet v => (s.cluster v.toNat).isolated || s.domain 2 v.toNat ≠ .run
  | .ladle c => (s.cluster c.toNat).isolated
  | .hostLadle n => s.domain 6 n.toNat ≠ .run
  | _ => false

/-- The next packet of an intake: behind a wrapper it is discarded and answered with an error response; a CTRL packet is a request or a response;
of the PLAN packets the oldest goes to a channel of the Ladle that waits for its flow, and else is held, or is written to LPDDR6. What stands in
the queue was accepted in its owner's window as it left the mesh (R26, R176, R177). -/
def execIntakePacket (p : OwnPort) (s : State) : Res :=
  let q := smGet s.intakeQ (ownKey p) []
  let pick := match q.find? (fun k => hClass k.hdr = 2) with
    | some k => some k
    | none => q.head?
  match pick with
  | none => .next s
  | some pk =>
    if s.intakeIsolated p then .next ((s.popIntake p pk).refusePacket pk.hdr)
    else if hClass pk.hdr = 2 then
      .next (match p with
        | .ladle c => (s.popIntake p pk).takeResponse c.toNat pk.hdr
        | .hostLadle n => (s.popIntake p pk).takeResponse (64 + n.toNat) pk.hdr
        | .lpx _ =>
          let s1 := s.popIntake p pk
          if hInline pk.hdr % 256 = 0xC0 then { s1 with lpReqs := s1.lpReqs ++ [(senderOf pk.hdr, fieldOf (hInline pk.hdr) 8 64)] } else s1
        | _ => s.popIntake p pk)
    else match p with
      | .ladle c => .next (s.takeAtLadle c.toNat p pk)
      | .hostLadle n => .next (s.takeAtLadle (64 + n.toNat) p pk)
      | .lpx h => .next (s.takeAtLpx p h.toNat pk)
      | _ => .next s

/-! ## Completion (R181 to R183) and faults -/

/-- The tally completion that a transfer sends as a packet of its own: none where the last data packet carries it (R183). -/
def pulseTile (d : LDesc) : Option Nat :=
  if d.evkind = 1 ∧ ¬(d.dkind = 1 ∧ d.evtile = (tileDst d.dst).1) then some d.evtile else none

/-- The mesh has a credit for the completion pulse of a transfer (R129). -/
def State.pulseRoom (s : State) (l : Nat) (d : LDesc) : Bool :=
  match pulseTile d with
  | none => true
  | some t => let e := ladleEntry l (some t) 0 0; decide (0 < s.roomAt e.1 e.2 1)

/-- The completion pulse of a transfer. -/
def State.ladlePulse (s : State) (l : Nat) (d : LDesc) : State :=
  match pulseTile d with
  | some t =>
    let e := ladleEntry l (some t) 0 0
    s.enterMesh e.1 e.2 (mkHdr (ladleSrc l
      { cls := 1, epoch := s.ladleEpoch l, hsig := true, htally := d.evtally, hinc := d.evinc, dest := t })) []
  | none => if d.evkind = 3 then { s with bfPulses := s.bfPulses ++ [d.evtile] } else s

/-- A transfer completes: pulse, slot freed, counted (R185). -/
def State.ladleDone (s : State) (l k : Nat) (tr : Transfer) : State :=
  let c := s.lchan l k
  let s0 := (s.setLchan l k { c with st := .idle, slots := c.slots.drop 1, tr := none }).noteSlots l k (4 - c.slots.length) (4 - (c.slots.drop 1).length)
  let s1 := s0.bump (ldlReg l (0x108 + 0x10 * k)) 1
  (s1.ladlePulse l tr.d).cmdPart tr.cmd

/-- Every write of a transfer has been answered (R182): one to the vault beside the Ladle is at once, a host write by the completion that comes with
this step, one to a tile when its last packet is, one to LPDDR6 when its packet is, one to another Ladle when that one's onward write is; data lost on
the way never are. (DEDUCED, assumption 36) -/
def State.answered (_ : State) (tr : Transfer) : Bool := decide (tr.unanswered = 0)

def execLadleLastUnit (l : BitVec 7) (k : BitVec 4) (s : State) : Res :=
  let c := s.lchan l.toNat k.toNat
  match c.st, c.tr with
  | .active, some tr =>
    if tr.done < tr.d.len then .next s
    else if ladlePriv l.toNat k.toNat then .next (s.setLchan l.toNat k.toNat { c with st := .waitResp })
    else if s.pulseRoom l.toNat tr.d then .next (s.ladleDone l.toNat k.toNat tr)
    else .next s
  | _, _ => .next s

def execLadleResponseComplete (l : BitVec 7) (k : BitVec 4) (s : State) : Res :=
  let c := s.lchan l.toNat k.toNat
  match c.st, c.tr with
  | .waitResp, some tr => .next (if s.answered tr ∧ s.pulseRoom l.toNat tr.d then s.ladleDone l.toNat k.toNat tr else s)
  | _, _ => .next s

/-- RESP_LIMIT beats after its last write a transfer still lacks a response; one that has come counts (R35, R184). -/
def execRespTimeout (l : BitVec 7) (k : BitVec 4) (s : State) : Res :=
  let c := s.lchan l.toNat k.toNat
  match c.st, c.tr with
  | .waitResp, some tr =>
    if s.answered tr ∨ s.beat.toNat < tr.lastBeat + max 1 (s.fld (ldlReg l.toNat 4) 0 16) then .next s
    else .next (s.ladleFault l.toNat k.toNat 5 tr.d.flow 7)
  | _, _ => .next s

/-- Status of a command whose transfer an error response ends: DEVICE_ERROR, HOST_ERROR, ABORTED_RESET (R276, R289, R343). -/
def errStatus : ErrFrom → Nat
  | .unit => 7 | .host => 6 | .wrapper => 8

/-- An error response, from a channel out of service, the host or an isolation wrapper (R184). -/
def execRespError (l : BitVec 7) (k : BitVec 4) (src : ErrFrom) (s : State) : Res :=
  let c := s.lchan l.toNat k.toNat
  match c.st, c.tr with
  | .active, some tr => .next (s.ladleFault l.toNat k.toNat 4 tr.d.flow (errStatus src))
  | .waitResp, some tr => .next (s.ladleFault l.toNat k.toNat 4 tr.d.flow (errStatus src))
  | _, _ => .next s

/-- The destination of a transfer that DISABLE cuts off is undefined (R186). (DESIGN CHOICE, assumption 8; DEDUCED, assumption 37) -/
def State.freeTransfer (s : State) (d : LDesc) : State :=
  let n := spanBytes d d.dfix
  if d.dkind = 0 then s.devFree d.dst n
  else if d.dkind = 2 then s.hostFree d.dst n
  else if d.dkind = 1 then
    let t := tileDst d.dst
    let w := s.taskWin t.1 (s.tile t.1).task.toNat t.2.1
    if t.2.2 + n ≤ w.2 then s.tmFree t.1 t.2.1 (w.1 + t.2.2) n else s
  else s

/-- The intake of a Ladle. -/
def ladlePort (l : Nat) : OwnPort := if l < 64 then .ladle (BitVec.ofNat 6 l) else .hostLadle (BitVec.ofNat 1 (l - 64))

/-- Data in flight to a Ladle are lost: what its intake holds, taken or waiting (R186). -/
def State.dropIntake (s : State) (p : OwnPort) : State :=
  { s with intakeQ := smSet s.intakeQ (ownKey p) ((smGet s.intakeQ (ownKey p) []).filter (fun k => hClass k.hdr = 2)) }

/-- A packet to a unit's intakes goes to its Ladle, and not to the Skillet beside it (R176). -/
def State.intakeIsLadle (s : State) (l : Nat) (h : FlitWord) : Bool :=
  decide (64 ≤ l) || s.clusterIntake l (hFlow h) = some (.ladle (BitVec.ofNat 6 l))

/-- PLAN packets on their way to Ladle l, in routers or part-way at its intake, by flow. -/
def State.comingTo (s : State) (l : Nat) : SMap Nat :=
  let mine (h : FlitWord) : Bool := hClass h = 0 && hKind h = 3 && hUnit h = unitCode l && s.intakeIsLadle l h
  let heads := s.routers.flatMap (fun r => r.2.q.flatMap (fun q => (q.2.filter (fun f => f.head && mine f.bits)).map (fun f => hFlow f.bits)))
  let parts := (s.termPart.filter (fun p => mine p.2.hdr)).map (fun p => hFlow p.2.hdr)
  (heads ++ parts).foldl (fun m f => smSet m f (smGet m f 0 + 1)) (s.ladle l).lost

/-- DISABLE := 1 (R186). (DEDUCED, assumption 37) -/
def State.ladleDisable (s : State) (l : Nat) : State :=
  let s1 := (s.setBit (ldlReg l 0) 31).dropIntake (ladlePort l)
  let s2 := s1.setLadle l { (s1.ladle l).cut (fun _ => true) with intake := [], lost := s1.comingTo l }
  (fromTo 0 (if l < 64 then 8 else 16)).foldl (fun q k =>
    let c := q.lchan l k
    let q1 := match c.tr with
      | some tr =>
        let q2 := q.freeTransfer tr.d
        { q2.setReg (ldlReg l (0x104 + 0x10 * k)) (Config.undefWord q2.freeCtr &&& 0x1FFFFFF) with freeCtr := q2.freeCtr + 1 }
      | none => q
    let q3 := (q1.setLchan l k { c with st := .idle, slots := [], tr := none, stage := [], half := none, gone := 0 }).noteSlots l k
      (4 - c.slots.length) 4
    c.slots.foldl (fun w d => w.endCmd d.2 7) q3) s2

/-- Writes of a Ladle's registers take effect: its cluster's domain, or its own, is in RUN (R381). -/
def State.ladleWritable (s : State) (l : Nat) : Bool := if l < 64 then s.writable 1 l else s.writable 6 (l - 64)

/-- DEDUCED, assumption 37. -/
def execLadleDisable (l : BitVec 7) (s : State) : Res :=
  if s.ladleOk l.toNat 0 ∧ s.ladleWritable l.toNat then .next (s.ladleDisable l.toNat) else .next s

/-- DEDUCED, assumption 37. -/
def State.ladleClr (s : State) (l k : Nat) : State :=
  let c := s.lchan l k
  if c.st = .fault then s.setLchan l k { c with st := .idle, drops := 0 } else s.setLchan l k { c with drops := 0 }

def execLadleClr (l : BitVec 7) (k : BitVec 4) (s : State) : Res :=
  if s.ladleOk l.toNat k.toNat ∧ s.ladleWritable l.toNat then .next (s.ladleClr l.toNat k.toNat) else .next s

/-! ## LPDDR6 (R166 to R171) -/

/-- Training at the highest rate not above RATE_MAX at which the channel passes; at none, DOWN and LP_CHANNEL_DOWN (R166). Rate codes
rise as rates fall. -/
def execLpTraining (c : BitVec 5) (passes : List (BitVec 2)) (s : State) : Res :=
  let n := c.toNat
  if !s.full ∨ s.domain 4 n ≠ .run then .next s
  else
    let x := s.lpch n
    let rmax := s.fld (lpxReg 4) 24 2
    match (fromTo rmax (3 - rmax)).find? (fun r => passes.any (fun p => p.toNat = r)) with
    | some r => .next (s.setLpch n { x with st := .up, rate := r })
    | none => .next ((((s.setLpch n { x with st := .down }).stopUnit (lpUnit n)).raise 0x14 (n + x.temp * 2 ^ 8)).health (partLp n) 2)

/-- The drift check: beyond the controller's limit the channel retrains (R171). (DESIGN CHOICE, assumption 82) -/
def execLpDriftCheck (c : BitVec 5) (drift : Bool) (s : State) : Res :=
  let n := c.toNat
  if !s.full ∨ (s.lpch n).st ≠ .up ∨ !drift then .next s
  else .next ((s.bump (lpxReg (0x10C + 0x10 * n)) 1).health (partLp n) 1)

def execLpRefresh (c : BitVec 5) (bank : BitVec 6) (s : State) : Res :=
  let x := s.lpch c.toNat
  if !s.full ∨ x.st ≠ .up then .next s else .next (s.setLpch c.toNat { x with refreshing := [bank.toNat] })

/-- 1 µs without requests: idle power-down. `park`: Ermond parks the tier, whose channels enter self-refresh, in which requests wait; a parked channel
leaves it with the next of this row that does not park it (R28, R171). What makes Ermond park the tier, and end it, the spec does not say. (DESIGN CHOICE, assumption 82) -/
def execLpPowerDown (c : BitVec 5) (park : Bool) (s : State) : Res :=
  let x := s.lpch c.toNat
  if s.full ∧ s.lpParked c.toNat ∧ !park then .next (s.setLpch c.toNat { x with st := .up })
  else if !s.full ∨ x.st ≠ .up then .next s
  else .next ((s.setLpch c.toNat { x with powerDown := true, st := if park then .selfref else .up }).stopUnit (lpUnit c.toNat))

/-- The oldest read request of a Ladle that has not returned, if it has come to channel c. -/
def State.lpAskAt (s : State) (c l : Nat) : Option LpAsk :=
  match (s.ladle l).asks with
  | a :: _ => if s.lpReqs.contains (l, a.id) ∧ lpChan a.a = c then some a else none
  | [] => none

/-- A read request is answered: it leaves the list, and older ones of the Ladle that nothing waits for any more. -/
def State.dropAsk (s : State) (l : Nat) (a : LpAsk) : State :=
  let x := s.ladle l
  { s.setLadle l { x with asks := x.asks.drop 1 } with lpReqs := s.lpReqs.filter (fun r => r.1 ≠ l || decide (a.id < r.2)) }

/-- A read request that channel c serves: its data return on the transfer's flow as a packet that enters the mesh at the half's edge, in the order of
the Ladle's requests, once the router has room for it (R168, R176). (DESIGN CHOICE, assumption 35) -/
def State.lpLadleRead (s : State) (l : Nat) (a : LpAsk) : State :=
  match (s.lchan l a.k).tr with
  | none => s.dropAsk l a
  | some tr =>
    let half := lpHalf a.a
    let e := lpEntry half (unitCode l) tr.d.flow
    if tr.order ≠ a.order then s.dropAsk l a
    else if tr.cmd.isNone ∧ (s.roomAt e.1 e.2 0 < 2 * a.n + 1 ∨ !s.inputFree e.1 e.2) then s
    else
      let chk := (s.dropAsk l a).devCheck a.a (64 * a.n) false
      let fs := (fromTo 0 a.n).flatMap (fun i =>
        let bs := chk.1.dvRead (a.a + 64 * i) 64
        let p := chk.2.contains (a.a / 64 + i)
        [(bytesFlit (bs.take 32), p), (bytesFlit (bs.drop 32), p)])
      if tr.cmd.isSome then
        let x := chk.1.ladle l
        chk.1.setLadle l { x with intake := smSet x.intake (flowKey tr) (smGet x.intake (flowKey tr) [] ++ fs) }
      else chk.1.enterMesh e.1 e.2 (mkHdr
        { cls := 0, kind := 3, epoch := s.ladleEpoch 64, len := 2 * a.n, last := a.fin, srck := 7, src := 0x41 + half
          unit := unitCode l, flow := tr.d.flow }) fs

/-- A channel serves a request: it leaves power-down; a DOWN or untrained channel answers with an error response (R166, R169). The
first request after idle is a heavy start, which the Kettle may hold (R265, R267). (DESIGN CHOICE, assumption 35) -/
def execLpRequest (c : BitVec 5) (req : LpReq) (s : State) : Res :=
  let n := c.toNat
  let x := s.lpch n
  if !s.full then .next s
  else match req with
    | .mem r =>
      if !(s.isLpx (memReqAddr r) && lpChan (memReqAddr r) = n) then .next s
      else if s.lpParked n then .next s
      else if x.st ≠ .up then .next (s.out (.errorResponse (memReqAddr r)))
      else if !s.mayStart (lpUnit n) then .next (s.holdUnit (lpUnit n))
      else .next ((s.lpWake n).serveMem r false)
    | .ladleRead l => match s.lpAskAt n l.toNat with
      | none => .next s
      | some a =>
        if s.lpParked n then .next s
        else if x.st ≠ .up then
          .next ((s.dropAsk l.toNat a).ladleFault l.toNat a.k 4 (s.lchan l.toNat a.k).flow (if s.domain 4 n = .run then 7 else 8))
        else if !s.mayStart (lpUnit n) then .next (s.holdUnit (lpUnit n))
        else .next ((s.lpWake n).lpLadleRead l.toNat a)

/-- Patrol scrub of a channel, SCRUB_RATE codewords every 1,000 beats; its read is a request like any other (R170, R265). (DESIGN CHOICE, assumption
82) -/
def execLpScrubRead (c : BitVec 5) (s : State) : Res :=
  let n := c.toNat
  let x := s.lpch n
  let done := s.scrubsIn x.scrubSpan x.scrubDone
  if !s.full ∨ x.st ≠ .up ∨ s.fld (lpxReg 4) 31 1 = 0 ∨ s.fld (lpxReg 4) 0 16 ≤ done then .next s
  else if !s.mayStart (lpUnit n) then .next (s.holdUnit (lpUnit n))
  else
    let s1 := s.lpWake n
    let x1 := { s1.lpch n with
      scrubPos := if x.scrubPos + 1 = 268435456 then 0 else x.scrubPos + 1, scrubSpan := s.tm.beats / 1000, scrubDone := done + 1 }
    .next ((s1.setLpch n x1).devCheck (lpAddr n x.scrubPos) 64 true).1

/-- The device of a channel reports its refresh multiplier, in quarters of the 1× rate: above 2× HOT and LP_THERM; the rule does not say whether each
such report raises it, and here the first of a row of them does (R171). (DEDUCED, assumption 35) -/
def execRefreshMultiplierChange (c : BitVec 5) (mult : BitVec 8) (temp : BitVec 8) (s : State) : Res :=
  let n := c.toNat
  let x := s.lpch n
  if !s.full then .next s
  else
    let hot := decide (8 < mult.toNat)
    let s1 := s.setLpch n { x with refmult := min 15 mult.toNat, hot := hot, temp := temp.toNat }
    .next (if hot ∧ !x.hot then s1.raise 0x15 (n + temp.toNat * 2 ^ 8) else s1)

end Sys2Proof.Machine
end

