-- ==== Sys2Proof/Machine/Power.lean ====
section
/-!
DEFINITION. The Kettle's own steps: the level at each beat, the grant of a held start, the cap check (R266 to R273); and the ladder of
each clock region (R236 to R239).
-/

namespace Sys2Proof.Machine

open Sys2Proof

/-! ## Regions (R237) -/

def State.region (s : State) (r : Nat) : Region := smGet s.regions r Region.reset
def State.setRegion (s : State) (r : Nat) (x : Region) : State := { s with regions := smSet s.regions r x }

def State.meso (s : State) : Bool := s.fld (clkReg 0) 31 1 = 1

/-- Ceiling of a cluster region (R237). (DEDUCED, assumption 44) -/
def State.ceiling (s : State) (r : Nat) : Nat :=
  let c := min (min (min 4 (s.fld (clkReg 4) 29 3)) (s.fld (clkReg (0x104 + 0x10 * r)) 0 3)) s.power.k
  if s.meso then min c 2 else c

/-! ## The level (R266) -/

def State.slew (s : State) : Nat := s.fld (pwrReg 0) 24 8 * 100
def State.floorLevel (s : State) : Nat := s.fld (pwrReg 0) 0 16 * 10000

/-- The level at the first instant of n beats that begin together: a start held in the beat before raises it once; the others let it
fall (R266, R258). (DEDUCED, assumption 38) -/
def State.nextLevel (s : State) (n : Nat) : Nat :=
  let cap := s.lcap
  let first := if s.power.heldThisBeat ∨ s.power.held ≠ [] ∨ s.power.heldSteps ≠ [] then min (s.power.level + s.slew) cap
    else min (max (max s.demand s.floorLevel) (s.power.level - s.slew)) cap
  if n ≤ 1 then first else min (max (max s.demand s.floorLevel) (first - (n - 1) * s.slew)) cap

/-- KETTLE_LEVEL_UPDATE at the first instant of n beats; `last` is the input power averaged over the last beat. A held LPDDR6 request that was not
seen waiting in the beat before has gone. (DEDUCED, assumption 38) -/
def State.kettleBeat (s : State) (n last : Nat) : State :=
  let s0 : State := { s with power := { s.power with
    held := s.power.held.filter (fun u => s.liveStart u && (decide (u < 4160) || s.power.noted.contains u))
    heldSteps := s.power.heldSteps.filter (fun r => decide ((s.region r).steps.head? = some true) && decide (s.point r < s.ceiling r))
    granted := s.power.granted.filter s.liveStart } }
  let p := s0.power
  let any_ := p.heldThisBeat || p.held ≠ [] || p.heldSteps ≠ []
  let s1 := if any_ then s0.bump (pwrReg 0x20) 1 else s0
  (({ s1 with power := { p with
    level := s0.nextLevel n
    heldThisBeat := false
    heldLast := min 0xFFFF ((p.noted ++ p.held.filter (fun u => !p.noted.contains u)).length + p.heldSteps.length)
    noted := []
    last := last } } : State)).rebalance

/-! ## Held starts (R267) -/

/-- One held start is granted: its weight counts in D from now on, and the unit's own next step issues it. (DEDUCED, assumption 38) -/
def execHeldStartGrant (s : State) : Res :=
  match s.nextHeld with
  | none => .next s
  | some u => .next (({ s with power := { s.power with
      held := s.power.held.erase u
      granted := s.power.granted ++ [u]
      lastCluster := unitCluster u } } : State)).rebalance

/-! ## Caps (R272, R273) -/

def capDetail (power therm : Bool) (k avg : Nat) : Nat := bit power + bit therm * 2 + k * 2 ^ 8 + avg * 2 ^ 16

/-- The check of every 100 µs, with the average input power in W, the hottest power-stage and stack readings in °C and the input
voltage in units of 10 mV. (DEDUCED, assumption 38) -/
def execKettleCapCheck (avg : BitVec 16) (stage stack : BitVec 8) (vin : BitVec 16) (s : State) : Res :=
  let a := avg.toNat
  let cap := s.fld (pwrReg 4) 0 16
  let hyst := s.fld (pwrReg 4) 16 16
  let ts := s.fld (pwrReg 8) 24 8
  let tk := s.fld (pwrReg 8) 16 8
  let above := decide (cap < a)
  let hot := decide (ts ≤ stage.toNat) || decide (tk ≤ stack.toNat)
  let cool := decide (stage.toNat + 5 < ts) && decide (stack.toNat + 5 < tk)
  let p := { s.power with avg := a, tStage := stage.toNat, tStack := stack.toNat, vin := vin.toNat }
  let s0 : State := { s with power := p }
  let s1 : State :=
    if above ∨ hot then
      let k := p.k - 1
      let capped := p.capped || above
      let therm := p.therm || hot
      let q : State := { s0 with power := { p with k := k, capped := capped, therm := therm } }
      let q1 := if p.k = 0 then q else q.bump (pwrReg 0x24) 1
      if p.k = 4 then q1.raise 0x50 (capDetail above hot k a) else q1
    else if a + hyst < cap ∧ cool then
      if p.k < 3 then { s0 with power := { p with k := p.k + 1 } }
      else if p.k = 3 then
        (({ s0 with power := { p with k := 4, capped := false, therm := false } } : State)).raise 0x51 (capDetail p.capped p.therm 4 a)
      else s0
    else s0
  if above ∧ p.k = 0 then .next ((s1.rise (pwrReg 0xC) 26).raise 0x52 (capDetail above hot 0 a)) else .next s1

/-! ## The ladder (R237, R238) -/

def State.tthr (s : State) : Nat := s.fld (clkReg 4) 16 8

/-- Increase in the weights of region r's active and ballast units for a step up (R268). -/
def State.stepWeight (s : State) (r : Nat) : Nat :=
  let us := (s.power.active ++ s.power.ballast).filter (fun u => unitCluster u = r)
  let p := s.point r
  us.foldl (fun a u => a + (if u < 4096 then teWeight (p + 1) - teWeight p else sklWeight (p + 1) - sklWeight p)) 0

def State.setPoint (s : State) (r p : Nat) : State := ({ s with points := smSet s.points r p } : State).rebalance

/-- The point a region comes to by the steps decided (R238). -/
def afterSteps (p : Nat) (l : List Bool) : Nat := l.foldl (fun a up => if up then a + 1 else a - 1) p

/-- One more down step is decided, as far as point 0; it waits for a change in progress (R237, R238). -/
def Region.decideDown (x : Region) (p : Nat) : Region := if 0 < afterSteps p x.steps then { x with steps := x.steps ++ [false] } else x

/-- The hottest sensor of a region is read: once it reaches the threshold, a down step is decided. -/
def State.readTemp (s : State) (r temp : Nat) : Region :=
  let x := s.region r
  let hot := decide (s.tthr ≤ temp)
  let y : Region := { x with temp := temp, hot := hot }
  if hot ∧ !x.hot then { y.decideDown (s.point r) with thermFrom := s.tm.run } else y

/-- An up step that the Kettle holds has not begun to change the point: a down step or a lower ceiling ends it (R268). -/
def State.cancelUp (s : State) (r : Nat) : State :=
  let x := s.region r
  let y := if x.steps.head? = some true then x.steps.drop 1 else x.steps
  { s.setRegion r { x with steps := y } with power := { s.power with heldSteps := s.power.heldSteps.erase r } }

/-- What a grid boundary decides: a down step for a report of too little slack, and one for a ceiling below the point where none waits. -/
def Region.decide (x : Region) (slack : Bool) (ceiling p now : Nat) : Region :=
  let y := if slack then { x.decideDown p with quietFrom := now } else x
  if ceiling < p ∧ !y.steps.contains false then y.decideDown p else y

/-- The first decided step takes effect: a down step; an up step where the ceiling allows it and L has room (R266, R268). One that has no room is
held, unless a down step waits behind it. -/
def State.ladder (s : State) (n : Nat) : State :=
  let x := s.region n
  let p := s.point n
  let s1 := s.setRegion n { x with steps := x.steps.drop 1 }
  match x.steps with
  | [] => s
  | false :: _ =>
    let s2 := s1.setRegion n { x with steps := x.steps.drop 1, quietFrom := s.tm.beats }
    if p = 0 then s2 else (s2.bumpF (clkReg (0x10C + 0x10 * n)) 16 16 1).setPoint n (p - 1)
  | true :: r =>
    if p < s.ceiling n ∧ s.demand + s.stepWeight n ≤ s.power.level then
      ((s.cancelUp n).bumpF (clkReg (0x10C + 0x10 * n)) 0 16 1).setPoint n (p + 1)
    else if s.ceiling n ≤ p ∨ r ≠ [] then s.cancelUp n
    else { s with power := { s.power with
      heldThisBeat := true
      heldSteps := if s.power.heldSteps.contains n then s.power.heldSteps else s.power.heldSteps ++ [n] } }

/-- A grid boundary of a cluster region: what it decides joins the decided steps, of which the first takes effect. `slack` is the report of the
replicas, `temp` the hottest sensor. (DEDUCED, assumption 44) -/
def execLadderStep (r : BitVec 7) (slack : Bool) (temp : BitVec 8) (s : State) : Res :=
  let n := r.toNat
  if s.nClusters ≤ n then .next s
  else .next ((s.setRegion n ((s.readTemp n temp.toNat).decide slack (s.ceiling n) (s.point n) s.tm.beats)).ladder n)

/-- UP_DWELL beats of good slack have passed, with no droop and no down step in them (R237). (DEDUCED, assumption 44) -/
def execUpDwellExpiry (r : BitVec 7) (temp : BitVec 8) (s : State) : Res :=
  let n := r.toNat
  let x := s.readTemp n temp.toNat
  if s.nClusters ≤ n then .next s
  else if s.point n < s.ceiling n ∧ x.quietFrom + s.fld (clkReg 4) 0 16 ≤ s.tm.beats ∧ temp.toNat + 5 < s.tthr ∧ !x.stretch ∧ x.steps = [] then
    .next (s.setRegion n { x with steps := [true] })
  else .next (s.setRegion n x)

/-- With the hottest sensor at the threshold or more, a further down step is decided every 100 µs, as far as point 0 (R237). -/
def execThermalStep (r : BitVec 7) (temp : BitVec 8) (s : State) : Res :=
  let n := r.toNat
  let x := s.readTemp n temp.toNat
  if s.nClusters ≤ n then .next s
  else if (s.region n).hot ∧ x.hot ∧ s.passed x.thermFrom (100 * usU) then
    .next (s.setRegion n { x.decideDown (s.point n) with thermFrom := s.tm.run })
  else .next (s.setRegion n x)

/-- The point that a region is being changed to (R238). -/
def State.target (s : State) (r : Nat) : Nat := afterSteps (s.point r) ((s.region r).steps.take 1)

/-! ## Droops (R239) -/

/-- Regions of the part: the clusters' and the eight of the uncore (R235). -/
def State.regionOk (s : State) (r : Nat) : Bool := decide (r < s.nClusters) || (decide (64 ≤ r) && decide (r < 72))

def execDroopTrip (r : BitVec 7) (s : State) : Res :=
  let n := r.toNat
  let x := s.region n
  if s.regionOk n then
    .next ((s.setRegion n { x with
      stretch := true, quietFrom := s.tm.beats, droopFrom := if x.stretch then x.droopFrom else some s.tm.run }).bump (clkReg (0x108 + 0x10 * n)) 1)
  else .next s

def execDroopClear (r : BitVec 7) (s : State) : Res :=
  let n := r.toNat
  if s.regionOk n then .next (s.setRegion n { s.region n with stretch := false, quietFrom := s.tm.beats, droopFrom := none }) else .next s

/-- The droop has lasted longer than 1 µs: one down step of a cluster region, a MAJOR event of its health (R239, R363). -/
def execDroopLong (r : BitVec 7) (s : State) : Res :=
  let n := r.toNat
  let x := s.region n
  match x.droopFrom with
  | none => .next s
  | some t =>
    if !s.regionOk n ∨ !x.stretch ∨ !s.passed t usU then .next s
    else
      let y : Region := { x with droopFrom := none }
      if n < 64 then .next ((s.setRegion n (y.decideDown (s.point n))).health (partCluster n) 1) else .next (s.setRegion n y)

/-! ## The reference (R243) -/

/-- The pins FAULT_N and THERMTRIP_N, where they change (R391). -/
def State.setFault (s : State) (low : Bool) : State :=
  if s.module.faultPin = low then s
  else ({ s with module := { s.module with faultPin := low } } : State).out (.pins s.module.thermtrip low)

/-- No edge of REFCLK for 1 µs: recorded, and FAULT_N driven, by a module that is powered (R243, R389). -/
def execRefLoss (s : State) : Res :=
  if s.module.rails ≠ .on then .next s
  else .next (({ s.setBit (clkReg 8) 31 with tm := { s.tm with refLost := true, refFrom := s.tm.run } } : State).setFault true)

end Sys2Proof.Machine
end

