-- ==== Sys2Proof/Machine/Router.lean ====
section
/-!
DEFINITION. What happens at routers, ports and Colanders (02, 07): ownership, forwarding, credits, delivery, fences, route
tables.
-/

namespace Sys2Proof.Machine

open Sys2Proof

/-! ## Ports (R25, R26) -/

/-- The PLAN header at the head of an input, if the router routes it to this output and the output has not taken it yet (R128). -/
def State.planHead (s : State) (t : Nat) (inp out : RPort) : Option Flit :=
  match (s.router t).queue inp 0 with
  | f :: _ =>
    match s.routeAt t f.bits f.entry with
    | .outs ps =>
      if f.head ∧ ps.contains out ∧ !(smGet (s.router t).taken (4 * rportCode inp) []).contains (rportCode out) then some f else none
    | .bad _ => none
  | [] => none

def execOwnershipPass (p : OwnPort) (s : State) : Res := .next (s.passOwnership p)

/-- The orders of a run come to a port in their sequence. (DEDUCED, assumption 29) -/
def execReplayOrderAtPort (p : OwnPort) (seg : BitVec 16) (count : BitVec 64) (s : State) : Res :=
  match s.findReplay seg count with
  | none => .next s
  | some (q, k) =>
    if smGet q.next (4096 + ownKey p) 0 ≠ k then .next s
    else .next ((s.setRun { q with next := smSet q.next (4096 + ownKey p) (k + 1) }).orderAtPort p { seg := seg, slot := q.slot, count := count, base := q.baseOf k })

/-! ## Forwarding (R126, R129, R130, R138) -/

def allPorts : List RPort := [.north, .east, .south, .west, .loc, .cluster]

/-- The inputs in the rotation North, East, South, West, Local, Cluster, after the one served last (R130). -/
def rotation (last : Nat) : List RPort := (allPorts.drop last) ++ (allPorts.take last)

/-- A packet at the head of an input that this router cannot route: toward an absent row, or through an invalid bank or entry. -/
def State.unroutable (s : State) (t : Nat) : Option (RPort × Nat × Nat × Nat) :=
  allPorts.findSome? (fun i => (fromTo 0 3).findSome? (fun c =>
    match (s.router t).queue i c with
    | f :: _ => if f.head then (match s.routeAt t f.bits f.entry with
        | .bad p => some (i, c, p, hFlow f.bits)
        | .outs _ => none) else none
    | [] => none))

/-- The input and class that an output serves next. -/
def State.served (s : State) (t : Nat) (out : RPort) : Option (RPort × Nat) :=
  let r := s.router t
  let pick (c : Nat) : Option (RPort × Nat) :=
    ((rotation (smGet r.last (4 * rportCode out + c) 6)).find? (fun i => s.canLeave t out i c)).map (fun i => (i, c))
  let plan := pick 0
  let small := match pick 1 with
    | some x => some x
    | none => pick 2
  if r.lastSmall.contains (rportCode out) ∧ plan.isSome then plan
  else match small with
    | some x => some x
    | none => plan

/-- The flit at the head of an input is checked where an injector sent it, and goes (R129, R133). -/
def State.takeFlit (s : State) (t : Nat) (out inp : RPort) (cls : Nat) (link came : LinkErr) : State :=
  let r := s.checkInput t inp cls came
  if r.2 then r.1.moveFlit t out inp cls link else r.1

/-- A PLAN packet at the head of a queue: forwarded for the current owner where the output serves it now, held for a later owner, else a
route conflict (R26, R130). `came`: how it came over the link of the tile or the unit that injected it (R133). -/
def execPlanPacketAtPort (tid : TileId) (inp out : RPort) (link came : LinkErr) (s : State) : Res :=
  let t := tid.toNat
  match s.planHead t inp out with
  | none => .next s
  | some f => match s.outVerdict t out f.bits with
    | .conflict => .next (s.routeConflict t inp 0 (rportCode out) (hFlow f.bits))
    | .wait => .next s
    | .forward => .next (if s.served t out = some (inp, 0) then s.takeFlit t out inp 0 link came else s)

/-- One flit. A packet that cannot be routed is discarded first and halts the router's tile (R126, R138). An output that has nothing to
send in this cycle lets a PLAN flit wait no longer than one flit of another class. (DESIGN CHOICE, assumption 26) -/
def execFlitForward (tid : TileId) (out : RPort) (link came : LinkErr) (s : State) : Res :=
  let t := tid.toNat
  match s.unroutable t with
  | some (i, c, p, flow) => .next (s.routeConflict t i c p flow)
  | none => match s.served t out with
    | some (i, c) => .next ((s.takeFlit t out i c link came).refill (clusterOf t) ((s.skillet (clusterOf t)).sending.length + 1))
    | none => .next (s.modRouter t (fun r => { r with lastSmall := r.lastSmall.erase (rportCode out) }))

/-- Flits of a tile's local output that its receive side still holds: packets under way and waiting, and data flits that wait for the narrow port
(R116, R122). -/
def TileState.flitsHeld (x : TileState) (cls : Nat) : Nat :=
  let size (p : Packet) : Nat := p.data.length + 1
  ((x.rx.filter (fun p => hClass p.hdr = cls)).map size).sum + ((smFind x.rxPart cls).toList.map size).sum +
    (if cls = 0 then (x.narrow.filter (fun r => r.src = 0)).length else 0)

/-- Flits from an output that the terminal behind it still holds, whose credits come back once they have gone on: at the receive side of the tile, in
the egress of a Novbo port, at an intake (R116, R122, R129, R177, R202). -/
def State.heldAtEdge (s : State) (t : Nat) (out : RPort) (cls : Nat) : Nat :=
  if out = .loc then (s.tile t).flitsHeld cls
  else if !leavesMesh t out then 0
  else
    let mine := s.intakeQ.flatMap (fun q => q.2.filter (fun p =>
      p.via = t && hClass p.hdr = cls && (s.intakeFor t out p.hdr).map ownKey = some q.1))
    let part := smFind s.termPart ((t * 8 + rportCode out) * 4 + cls)
    ((mine ++ part.toList).map (fun p => p.data.length + 1)).sum

/-- A credit comes back. One above the allotment halts the tile with CREDIT_OVERFLOW and is not applied (R129). -/
def execCreditReturn (tid : TileId) (site : CreditSite) (cls : MClass) (s : State) : Res :=
  let t := tid.toNat
  let c := mclassCode cls
  let tooMany (q : State) (port : Nat) : State := q.halt t 5 rsnCreditOverflow 0 ((4 * port + c) * 2 ^ 16)
  let paid (m : SMap Nat) (k : Nat) : SMap Nat := let v := smGet m k 0; if v ≤ 1 then smDel m k else smSet m k (v - 1)
  match site with
  | .output p =>
    let key := 4 * rportCode p + c
    let u := smGet (s.router t).used key 0
    if u = 0 then .next (tooMany s (rportCode p))
    else if u ≤ s.heldAtEdge t p c then .next s
    else
      let s1 := s.modRouter t (fun r => { r with used := paid r.used key })
      .next (match neighbour t p with
        | some n => s1.modRouter n (fun r => { r with owed := paid r.owed (4 * rportCode (opposite p) + c) })
        | none => s1)
  | .inject =>
    if allotment c ≤ s.injCredit t c then .next (tooMany s 5)
    else
      let v := s.injCredit t c
      let s1 := s.modTile t (fun x => ({ x with injCredit := x.injCredit.mapIdx (fun i v => if i = c then v + 1 else v) } : TileState).noteFire
        ⟨s.beatAt (clusterOf t), 1, 20 + c, v, v + 1⟩)
      .next (s1.modRouter t (fun r => { r with owed := paid r.owed (4 * 5 + c) }))

/-! ## Delivery (R111, R132, R402) -/

/-- The oldest packet of a class at the receive side and the tile without it, where it is of a kind: packets of one class are taken in the order
they came (R126). -/
def TileState.takeRx (x : TileState) (cls : Nat) (want : Packet → Bool) : Option (Packet × TileState) :=
  match x.rx.find? (fun p => hClass p.hdr = cls) with
  | some p => if want p then some (p, { x with rx := x.rx.erase p }) else none
  | none => none

/-- A dropped delivery is counted in TIL_STATUS.DROPS (R52). -/
def State.countDrop (s : State) (t : Nat) : State := s.modTile t (fun x => { x with drops := satAdd 16 x.drops 1 })

/-- An INLINE operation that R402 lets a tile take, by code, source kind, LEN and reserved bits. -/
def ctrlAccepted (h : FlitWord) : Bool :=
  let op := hInline h % 256
  let k := hSrck h
  if op = 1 then (k = 1 || k = 2 || k = 7) && hLen h = 0 && (fieldOf (hInline h) 14 18 = 0 && hInline h / 2 ^ 64 = 0)
  else if op = 2 then (k = 1 || k = 2 || k = 7) && hLen h = 0 && hInline h / 256 = 0
  else decide (0x10 ≤ op) && decide (op ≤ 0x1F) && (k = 2 || k = 7) && decide (hLen h ≤ 4)

/-- CTRL_REFUSED: a RUNNING tile halts, another counts the packet (R402). -/
def State.refuseCtrl (s : State) (t : Nat) (h : FlitWord) : State :=
  if (s.tile t).st = .running then
    s.halt t 6 rsnCtrlRefused 0 (hSrck h * 2 ^ 29 + hSrc h * 2 ^ 16 + hInline h % 256 * 2 ^ 8 + hLen h)
  else s.countDrop t

/-- The data flits of a packet become narrow requests of the receive side, one whole word each, the last with the packet's header signal (R113,
R116, R132). Where the narrow port takes them at once they are written in this step. -/
def State.deliverPlan (s : State) (t : Nat) (p : Packet) (busy : Bool) : State :=
  let x := s.tile t
  let task := x.task.toNat
  let mem := hDmem p.hdr
  let a := hDaddr p.hdr
  let n := 32 * hLen p.hdr
  let bad : Option Nat := if mem = 3 then some (boundInfo 3 task a) else s.boundCheck t task [(mem, a, n)]
  match bad with
  | some i => if x.st = .running then s.halt t 5 rsnBound 0 i else s.countDrop t
  | none =>
    let base := (s.taskWin t task mem).1 + a
    if p.data = [] ∨ (!busy ∧ narrowFree x mem 0) then
      ((p.data.zipIdx).foldl (fun (q : State) (d : (FlitWord × Bool) × Nat) => q.writeFlit t (hFlow p.hdr) mem (base + 32 * d.2) d.1) s).headerSignal t p.hdr
    else
      let reqs : List NarrowReq := (p.data.zipIdx).map (fun d =>
        ⟨0, mem, base + 32 * d.2, s.beatAt (clusterOf t), false, false, false, some d.1,
          if d.2 + 1 = p.data.length then some p.hdr else none, hFlow p.hdr⟩)
      s.setTile t { x with narrow := x.narrow ++ reqs }

/-- The receive side takes the oldest PLAN packet, or a CTRL packet that the tile refuses where it is the oldest of its class. `busy`: wide
accesses keep the narrow port from the banks of its words, so its flits wait as requests. A delivery waits while a zero fill runs (R122) and while
flits of an earlier one wait (R116); an ISOLATED tile's are discarded (R135). (DESIGN CHOICE, assumption 23) -/
def execPacketDelivery (tid : TileId) (busy : Bool) (s : State) : Res :=
  let t := tid.toNat
  let x := s.tile t
  let plan := match x.takeRx 0 (fun _ => true) with
    | some w => some w
    | none => match x.takeRx 3 (fun _ => true) with
      | some w => some w
      | none => x.takeRx 2 (fun p => !ctrlAccepted p.hdr)
  match plan with
  | none => .next s
  | some (p, x1) =>
    let s1 := s.setTile t x1
    if x.st = .isolated then .next (s1.bump (rtrReg t 8) 1)
    else if x.zbusy ∨ (hClass p.hdr = 0 ∧ x.narrow.any (fun r => r.src = 0)) then .next s
    else if hClass p.hdr = 0 then .next (s1.deliverPlan t p busy)
    else if hClass p.hdr = 2 then .next (s1.refuseCtrl t p.hdr)
    else .next (s1.countDrop t)

/-- A TALLY packet adds to its tally; through it every write at the tile that has been completed becomes visible (R41, R45, R132). (DESIGN CHOICE,
assumption 7) -/
def execTallyPacketArrival (tid : TileId) (s : State) : Res :=
  let t := tid.toNat
  match (s.tile t).takeRx 1 (fun _ => true) with
  | none => .next s
  | some (p, x1) =>
    let s1 := s.setTile t x1
    if x1.st = .isolated then .next (s1.bump (rtrReg t 8) 1)
    else if x1.zbusy then .next s
    else .next ((s1.modTile t (fun x => x.shown (hHtally p.hdr) (fun _ => true))).addTally t (BitVec.ofNat 5 (hHtally p.hdr)) (hHinc p.hdr)
      (signaller t p.hdr))

def isCtrl (op : Nat) (p : Packet) : Bool := hClass p.hdr = 2 && ctrlAccepted p.hdr && hInline p.hdr % 256 = op

/-- A CTRL packet of a kind is handed to its operation (R132, R402): none during a zero fill, where deliveries wait (R122). -/
def State.takeCtrl (s : State) (t : Nat) (want : Packet → Bool) : Option (Packet × TileState) :=
  if (s.tile t).zbusy then none else (s.tile t).takeRx 2 want

/-- A CTRL packet at an ISOLATED tile is discarded and counted, as every delivery is (R13, R135); at another it has its effect. -/
def State.ifDelivered (s : State) (t : Nat) (rest : TileState) (done : TileState) : State :=
  if rest.st = .isolated then (s.setTile t rest).bump (rtrReg t 8) 1 else s.setTile t done

/-- PARAM_WRITE: SHADOW entry := value (R43, R402). (DESIGN CHOICE, assumption 15) -/
def execParamWrite (tid : TileId) (s : State) : Res :=
  let t := tid.toNat
  match s.takeCtrl t (isCtrl 1) with
  | none => .next s
  | some (p, x1) => .next (s.ifDelivered t x1
    { x1 with shadow := x1.shadow.setIfInBounds (fieldOf (hInline p.hdr) 8 6) (BitVec.ofNat 32 (fieldOf (hInline p.hdr) 32 32)) })

/-- PARAM_COMMIT: SHADOW is copied into PENDING and a commit is pending (R20). -/
def execParamCommit (tid : TileId) (s : State) : Res :=
  let t := tid.toNat
  match s.takeCtrl t (isCtrl 2) with
  | none => .next s
  | some (_, x1) => .next (s.ifDelivered t x1 { x1 with pending := x1.shadow, commitPending := true })

/-- The header of an order that a tile's cluster controller, or Ermond, forms for it: the current epoch, its own source kind and number
(R125, R140, R402). -/
def State.orderHdr (s : State) (t : Nat) (ermond : Bool) (op len : Nat) : FlitWord :=
  mkHdr { cls := 2, epoch := (s.cluster (clusterOf t)).epoch.toNat, len := len, srck := if ermond then 7 else 2
          src := if ermond then 0x45 else clusterOf t, dest := t, inl := op }

/-- A loader's order is refused in a state that takes none: the tile stays as it was, and the loader receives an error completion (R42). -/
def State.orderRefused (s : State) (t : Nat) : State :=
  s.modCluster (clusterOf t) (fun c => { c with loadErrors := c.loadErrors ++ [t] })

/-- An order of the loader or the control tree takes effect at a tile. Loads are accepted only in IDLE and HALTED (R42, R112). -/
def State.doOrder (s : State) (t : Nat) (order : LoaderOrder) : State :=
  let x := s.tile t
  let load (q : State) : State := if x.st = .idle ∨ x.st = .halted then q else s.orderRefused t
  let setSlot (i : BitVec 3) (v : Option SlotInfo) : State := s.setTile t { x with slots := x.slots.set i.toNat v i.isLt }
  match order with
  | .task k a b => (s.writeTask t k.toNat false a).writeTask t k.toNat true b
  | .imem e a ws =>
    let off := 8 * a.toNat
    load (s.tmStore t (4 + engCode e) off ((ws.flatMap (fun w => leBytes 8 w.toNat)).take (memCap (4 + engCode e) - off)))
  | .slot i seg streams => load (setSlot i (some { seg := seg, streams := streams.map (fun w => (w.1.toNat, w.2.toNat)), descs := [] }))
  | .desc i fd d => load (match x.slots[i.toNat]'i.isLt with
    | some v => setSlot i (some { v with descs := smSet v.descs fd.toNat d })
    | none => s)
  | .clearSlot i => load (setSlot i none)

/-- A CTRL order comes to a tile: one already delivered to the receive side, whose INLINE layout is internal to the device so that the command says
what it means, or one that the cluster controller or Ermond forms and sends here. A closed Colander lets only its own controller's through
(R135); a tile refuses one that R402 does not let it take; during a zero fill it waits (R122). (DESIGN CHOICE, assumption 93) -/
def execLoaderOrder (tid : TileId) (via : OrderVia) (order : LoaderOrder) (s : State) : Res :=
  let t := tid.toNat
  let x := s.tile t
  let isOrder (p : Packet) : Bool := ctrlAccepted p.hdr && decide (0x10 ≤ hInline p.hdr % 256)
  let sent (ermond : Bool) (op : BitVec 4) (len : BitVec 5) : State :=
    let h := s.orderHdr t ermond (0x10 + op.toNat) len.toNat
    if !s.colanderPasses t h ∨ x.st = .isolated then s.bump (rtrReg t 8) 1
    else if !ctrlAccepted h then s.refuseCtrl t h
    else s.doOrder t order
  if x.zbusy ∨ !s.tileOk t then .next s
  else match via with
    | .delivered => match x.takeRx 2 isOrder with
      | none => .next s
      | some (_, x1) => .next (if x.st = .isolated then (s.setTile t x1).bump (rtrReg t 8) 1 else (s.setTile t x1).doOrder t order)
    | .controller op len => .next (sent false op len)
    | .ermond op len => .next (sent true op len)

/-! ## Fences (R134, R137) -/

/-- At the beat of a fence order the Colander closes, ZEROED clears, and the fence maps mark the tile. A packet part-way through is
discarded (R135). (DEDUCED, assumption 27) -/
def State.closeColander (s : State) (t : Nat) : State :=
  let r := s.router t
  let x := s.tile t
  let own (h : FlitWord) : Bool := hClass h = 2 && hSrck h = 2 && decide (hSrc h = clusterOf t)
  let parts := x.rxPart.filter (fun p => !own p.2.hdr)
  let s1 := s.setRouter t { r with col := .fenced, zeroed := match r.col with | .opened => false | _ => r.zeroed }
  let s2 := s1.setTile t { x with rxPart := x.rxPart.filter (fun p => own p.2.hdr) }
  { s2.bump (rtrReg t 8) parts.length with fenceMap := if s2.fenceMap.contains t then s2.fenceMap else t :: s2.fenceMap }

/-- A pending reinstatement of a tile ends with REINSTATE_FAILED (R137). -/
def State.failReinstate (s : State) (t : Nat) : State :=
  match smFind s.host.reinstates t with
  | some c =>
    let q := s.complete c 0x000A 0
    { q with host := { q.host with reinstates := smDel q.host.reinstates t } }
  | none => s

/-- DESIGN CHOICE, assumption 15; DEDUCED, assumption 27. -/
def execFenceTakesEffect (tid : TileId) (s : State) : Res :=
  let t := tid.toNat
  match s.host.fences.find? (fun f => f.tile = t ∧ f.beat ≤ s.beat.toNat) with
  | none => .next s
  | some f =>
    let s1 : State := { s with host := { s.host with fences := s.host.fences.erase f } }
    .next (((s1.closeColander t).complete f.seq 0 0).failReinstate t)

/-- At beat B a pending reinstatement opens the Colander if ZEROED is 1 and the tile is IDLE, else fails (R137). A fence order due in that beat comes
first (R9). (DEDUCED, assumption 27) -/
def execReinstateAtBeat (tid : TileId) (s : State) : Res :=
  let t := tid.toNat
  let r := s.router t
  match r.col with
  | .pendingTo b =>
    if s.beat.toNat < b.toNat ∨ s.host.fences.any (fun f => decide (f.tile = t) && decide (f.beat ≤ s.beat.toNat)) then .next s
    else
      let idle := decide ((s.tile t).st = .idle)
      let fin (q : State) (status : Nat) : State := match smFind q.host.reinstates t with
        | some c => let q1 := q.complete c status 0; { q1 with host := { q1.host with reinstates := smDel q1.host.reinstates t } }
        | none => q
      if r.zeroed ∧ idle then
        .next (fin { s.setRouter t { r with col := .opened } with fenceMap := s.fenceMap.filter (fun u => u ≠ t) } 0)
      else
        .next (fin ((s.setRouter t { r with col := .fenced }).raise 0x32 (t + bit r.zeroed * 2 ^ 12 + bit idle * 2 ^ 13)) 0x000A)
  | _ => .next s

/-! ## Route tables (R138, R141) -/

def RouterState.setBank (r : RouterState) (b : Nat) (x : RouteBank) : RouterState := if b = 0 then { r with bank0 := x } else { r with bank1 := x }

/-- The interval has passed since a packet of the epoch last entered. -/
def State.drainElapsed (s : State) (t e : Nat) : Bool :=
  match smFind (s.router t).seen e with
  | none => true
  | some b => decide (b + max 1 (s.fld (mshReg (clusterOf t) 4) 0 16) < s.tm.beats)

/-- DRAINED of a bank at a router: the bit, or the count that had already elapsed when the bank's tag stopped being the current epoch (R141). -/
def State.bankDrained (s : State) (t : Nat) (k : RouteBank) : Bool :=
  let c := s.cluster (clusterOf t)
  let before : Bool := match smFind (s.router t).seen k.tag.toNat with
    | none => true
    | some b => decide (b + max 1 (s.fld (mshReg (clusterOf t) 4) 0 16) < c.epochAt)
  !k.valid || k.drained || (decide (k.tag ≠ c.epoch) && before)

/-- DRAINED of a router's bank sets once its tag is not the current epoch and the interval has passed. -/
def State.drainRouter (s : State) (t b : Nat) : State :=
  let r := s.router t
  let k := r.bank b
  if k.valid ∧ k.tag ≠ (s.cluster (clusterOf t)).epoch ∧ s.drainElapsed t k.tag.toNat then s.setRouter t (r.setBank b { k with drained := true })
  else s

/-- A write of RTR_EPOCH, judged for each bank on its own. -/
def State.writeRtrEpoch (s : State) (t v : Nat) : State :=
  (fromTo 0 2).foldl (fun q b =>
    let r := q.router t
    let k := r.bank b
    let valid := fieldOf v (if b = 0 then 6 else 14) 1 = 1
    let tag := BitVec.ofNat 2 (fieldOf v (if b = 0 then 4 else 12) 2)
    if q.bankDrained t k then
      let cur := (q.cluster (clusterOf t)).epoch
      q.setRouter t (r.setBank b { k with valid := valid, tag := tag, drained := decide (tag ≠ cur) && q.drainElapsed t tag.toNat })
    else if k.valid = decide valid ∧ k.tag = tag then q
    else q.setBit (rtrReg t 0) 28) s

/-- A route table entry as stored: bits 14:9 read zero, and an entry of a code that names no unit (0x46 to 0x4F, 0x62, 0x63) holds VALID = 0 (R8,
R138). -/
def entryWord (i v : Nat) : BitVec 16 :=
  BitVec.ofNat 16 (v % 2 ^ 9 + (if (6 ≤ i ∧ i < 16) ∨ 34 ≤ i then 0 else fieldOf v 15 1 * 2 ^ 15))

/-- A write of RTR_TBLb_k: two entries of bank b. -/
def State.writeRtrTable (s : State) (t b k v : Nat) : State :=
  let r := s.router t
  let bank := r.bank b
  let e1 := (bank.entries.setIfInBounds (2 * k) (entryWord (2 * k) v)).setIfInBounds (2 * k + 1) (entryWord (2 * k + 1) (v / 65536))
  if s.bankDrained t bank then s.setRouter t (r.setBank b { bank with entries := e1 })
  else if e1 = bank.entries then s
  else s.setBit (rtrReg t 0) 28

/-- A write to RTR_EPOCH (offset 0x04) or a route table entry (0x70 to 0xFC). -/
def State.writeRtr (s : State) (t off v : Nat) : State :=
  if off = 4 then s.writeRtrEpoch t v
  else if 0x70 ≤ off ∧ off < 0xB8 then s.writeRtrTable t 0 ((off - 0x70) / 4) v
  else if 0xB8 ≤ off ∧ off < 0x100 then s.writeRtrTable t 1 ((off - 0xB8) / 4) v
  else s

def execRouteTableWrite (tid : TileId) (off : BitVec 8) (value : Word) (s : State) : Res :=
  .next (if s.tileOk tid.toNat ∧ s.reaches then s.writeRtr tid.toNat off.toNat value.toNat else s)

end Sys2Proof.Machine
end

