-- ==== Sys2Proof/Machine/Hash.lean ====
section
/-!
DEFINITION. SHAKE256 and SHA3-512 (R78, R296, R354): the Keccak sponge. PRESUMED from FIPS 202, which the manual names by the
functions only (assumption 30).
-/

namespace Sys2Proof.Machine

open Sys2Proof

/-- Rotation offsets of the rho step, for lane x + 5 y. -/
def keccakRot : List Nat :=
  [0, 1, 62, 28, 27, 36, 44, 6, 55, 20, 3, 10, 43, 25, 39, 41, 45, 15, 21, 8, 18, 2, 61, 56, 14]

/-- Round constants of the iota step. -/
def keccakRc : List (BitVec 64) :=
  [0x0000000000000001, 0x0000000000008082, 0x800000000000808A, 0x8000000080008000, 0x000000000000808B, 0x0000000080000001,
   0x8000000080008081, 0x8000000000008009, 0x000000000000008A, 0x0000000000000088, 0x0000000080008009, 0x000000008000000A] ++
  [0x000000008000808B, 0x800000000000008B, 0x8000000000008089, 0x8000000000008003, 0x8000000000008002, 0x8000000000000080,
   0x000000000000800A, 0x800000008000000A, 0x8000000080008081, 0x8000000000008080, 0x0000000080000001, 0x8000000080008008]

/-- One round over the 25 lanes, lane x + 5 y at that index. -/
def keccakRound (a : List (BitVec 64)) (rc : BitVec 64) : List (BitVec 64) :=
  let at_ (l : List (BitVec 64)) (x y : Nat) : BitVec 64 := l.getD (x % 5 + 5 * (y % 5)) 0
  let c := (fromTo 0 5).map (fun x => at_ a x 0 ^^^ at_ a x 1 ^^^ at_ a x 2 ^^^ at_ a x 3 ^^^ at_ a x 4)
  let d := (fromTo 0 5).map (fun x => c.getD ((x + 4) % 5) 0 ^^^ (c.getD ((x + 1) % 5) 0).rotateLeft 1)
  let t := (fromTo 0 25).map (fun i => ((a.getD i 0) ^^^ d.getD (i % 5) 0).rotateLeft (keccakRot.getD i 0))
  let b := (fromTo 0 25).map (fun i => t.getD ((i % 5 + 3 * (i / 5)) % 5 + 5 * (i % 5)) 0)
  let e := (fromTo 0 25).map (fun i => at_ b i (i / 5) ^^^ (~~~ (at_ b (i % 5 + 1) (i / 5)) &&& at_ b (i % 5 + 2) (i / 5)))
  match e with
  | [] => []
  | h :: r => (h ^^^ rc) :: r

/-- PRESUMED, assumption 30. -/
def keccakF (a : List (BitVec 64)) : List (BitVec 64) := keccakRc.foldl keccakRound a

/-- A block XORed into the state, eight bytes a lane. -/
def keccakAbsorb (a : List (BitVec 64)) (blk : List Byte) : List (BitVec 64) :=
  (fromTo 0 25).map (fun i => a.getD i 0 ^^^ BitVec.ofNat 64 (leNat ((blk.drop (8 * i)).take 8)))

/-- The padded message: the domain suffix, zeros, and the last bit of the block. -/
def keccakPad (rate suffix : Nat) (m : List Byte) : List Byte :=
  let gap := rate - m.length % rate
  if gap = 1 then m ++ [BitVec.ofNat 8 (suffix + 0x80)]
  else m ++ [BitVec.ofNat 8 suffix] ++ List.replicate (gap - 2) 0 ++ [0x80]

def keccakSqueeze (rate : Nat) : Nat → List (BitVec 64) → List Byte
  | 0, _ => []
  | n + 1, a => (a.flatMap (fun w => leBytes 8 w.toNat)).take rate ++ keccakSqueeze rate n (keccakF a)

/-- The sponge: rate in bytes, domain suffix, output length in bytes. -/
def keccak (rate suffix out : Nat) (m : List Byte) : List Byte :=
  let p := keccakPad rate suffix m
  let a := (chunksOf rate (p.length / rate) p).foldl (fun a blk => keccakF (keccakAbsorb a blk)) (List.replicate 25 0)
  (keccakSqueeze rate (out / rate + 1) a).take out

/-- PRESUMED, assumption 30. -/
def shake256 (out : Nat) (m : List Byte) : List Byte := keccak 136 0x1F out m

/-- PRESUMED, assumption 30. -/
def sha3512 (m : List Byte) : List Byte := keccak 72 0x06 64 m

end Sys2Proof.Machine
end

