-- ==== Sys2Proof/Machine/Ed448.lean ====
section
/-!
DEFINITION. Ed448 in its pure form with an empty context (R320, R350, R353), as RFC 8032 defines it: the manual names the scheme and that
document only (PRESUMED, assumption 31).
-/

namespace Sys2Proof.Machine

open Sys2Proof

/-- The field's prime, the order of the base point, and the curve's constant d = −39081. -/
def edP : Nat := 2 ^ 448 - 2 ^ 224 - 1
def edL : Nat := 2 ^ 446 - 13818066809895115352007386748515426880336692474882178609894547503885
def edD : Nat := edP - 39081

def edSub (a b : Nat) : Nat := (a + edP - b % edP) % edP

/-- a to the power k in the field, k below 2^n. -/
def edPow (a : Nat) : Nat → Nat → Nat
  | 0, _ => 1
  | n + 1, k =>
    let q := edPow a n (k / 2)
    if k % 2 = 1 then q * q % edP * a % edP else q * q % edP

/-- A point in projective coordinates. -/
structure EdPoint where
  x : Nat
  y : Nat
  z : Nat
deriving DecidableEq, Repr

def EdPoint.neutral : EdPoint := ⟨0, 1, 1⟩

def EdPoint.base : EdPoint :=
  ⟨224580040295924300187604334099896036246789641632564134246125461686950415467406032909029192869357953282578032075146446173674602635247710,
   298819210078481492676017930443930673437544040154080242095928241372331506189835876003536878655418784733982303233503462500531545062832660, 1⟩

def EdPoint.add (a b : EdPoint) : EdPoint :=
  let zz := a.z * b.z % edP
  let b2 := zz * zz % edP
  let xx := a.x * b.x % edP
  let yy := a.y * b.y % edP
  let e := edD * xx % edP * yy % edP
  let f := edSub b2 e
  let g := (b2 + e) % edP
  let h := (a.x + a.y) * (b.x + b.y) % edP
  ⟨zz * f % edP * edSub h (xx + yy) % edP, zz * g % edP * edSub yy xx % edP, f * g % edP⟩

/-- The k-fold of a point, k below 2^n. -/
def EdPoint.mul (p : EdPoint) : Nat → Nat → EdPoint
  | 0, _ => EdPoint.neutral
  | n + 1, k =>
    let q := p.mul n (k / 2)
    if k % 2 = 1 then (q.add q).add p else q.add q

def EdPoint.same (a b : EdPoint) : Bool := a.x * b.z % edP = b.x * a.z % edP && a.y * b.z % edP = b.y * a.z % edP

/-- 57 bytes: y, and the low bit of x in the last bit. -/
def EdPoint.encode (a : EdPoint) : List Byte :=
  let i := edPow a.z 448 (edP - 2)
  leBytes 57 (a.y * i % edP + a.x * i % edP % 2 * 2 ^ 455)

def edDecode (bs : List Byte) : Option EdPoint :=
  let v := leNat bs
  let y := v % 2 ^ 455
  let sign := v / 2 ^ 455
  let u := edSub (y * y % edP) 1
  let w := edSub (edD * (y * y % edP) % edP) 1
  let x := edPow u 2 3 * w % edP * edPow (edPow u 3 5 * edPow w 2 3 % edP) 448 ((edP - 3) / 4) % edP
  if bs.length ≠ 57 ∨ edP ≤ y ∨ w * (x * x % edP) % edP ≠ u ∨ (x = 0 ∧ sign = 1) then none
  else some ⟨if x % 2 = sign then x else edP - x, y, 1⟩

/-- The hash of Ed448 over the parts of a message. -/
def edHash (m : List Byte) : Nat := leNat (shake256 114 ([0x53, 0x69, 0x67, 0x45, 0x64, 0x34, 0x34, 0x38, 0, 0] ++ m))

/-- The secret scalar of a private key, and its prefix for signing. -/
def edScalar (key : List Byte) : Nat :=
  let v := leNat ((shake256 114 key).take 56)
  v % 2 ^ 447 / 4 * 4 + 2 ^ 447
def edPrefix (key : List Byte) : List Byte := (shake256 114 key).drop 57

/-- PRESUMED, assumption 31. -/
def ed448Public (key : List Byte) : List Byte := (EdPoint.base.mul 448 (edScalar key)).encode

/-- The signature of a message with a private key: R and S. (PRESUMED, assumption 31) -/
def ed448Sign (key msg : List Byte) : List Byte :=
  let r := edHash (edPrefix key ++ msg) % edL
  let rs := (EdPoint.base.mul 448 r).encode
  let k := edHash (rs ++ ed448Public key ++ msg) % edL
  rs ++ leBytes 57 ((r + k * edScalar key) % edL)

/-- The signature of a message verifies with a public key: 4 S B = 4 R + 4 k A. (PRESUMED, assumption 31) -/
def ed448Verify (key msg sig : List Byte) : Bool :=
  let s := leNat (sig.drop 57)
  match edDecode key, edDecode (sig.take 57) with
  | some a, some r =>
    let k := edHash (sig.take 57 ++ key ++ msg) % edL
    sig.length = 114 && decide (s < edL) && ((EdPoint.base.mul 448 s).mul 3 4).same ((r.add (a.mul 448 k)).mul 3 4)
  | _, _ => false

end Sys2Proof.Machine
end

