-- ==== Sys2Proof/Machine/Time.lean ====
section
/-!
DEFINITION. Varuni time: stamps, the servo, the states of the VTM, beats and time pulses (R245 to R260).
-/

namespace Sys2Proof.Machine

open Sys2Proof

/-- The instant `sub` quarter-nanoseconds after the last slow edge (R246). -/
def State.stamp (s : State) (sub : BitVec 8) : Nat := s.tm.now + sub.toNat * 16384

/-- A quotient whose rounding the manual does not state. (DESIGN CHOICE, assumption 39) -/
def divFree (site : Nat) (num : Int) (den : Nat) : Int :=
  num / (den : Int) + (if num % (den : Int) = 0 then 0 else if Config.roundUp site num den then 1 else 0)

/-- A quotient rounded to the nearest whole number; a tie goes either way. (DESIGN CHOICE, assumption 39) -/
def divNearest (site : Nat) (num : Int) (den : Nat) : Int :=
  let r := num % (den : Int)
  if 2 * r < den then num / (den : Int)
  else if (den : Int) < 2 * r then num / (den : Int) + 1
  else num / (den : Int) + (if Config.roundUp site num den then 1 else 0)

/-- A number held in n bits of two's complement, saturating, as a register value. -/
def satWord (x : Int) : Word := BitVec.ofInt 32 (max (-2147483648) (min 2147483647 x))

/-! ## Beats (R256, R258) -/

/-- Start of beat n, in units of time. (DEDUCED, assumption 40) -/
def State.beatStart (s : State) (n : Nat) : Nat := s.tm.origin * nsU + n * usU

/-- Varuni time reaches the start of beat n within the slow-edge interval that now runs. A LOCAL origin lies behind the time even where a step back
has wrapped both, or either, modulo 2^64 s. (DEDUCED, assumption 40) -/
def State.beatDue (s : State) (n : Nat) : Bool :=
  let all := 2 ^ 64 * secU
  let t := s.tm.now + s.slowStep
  if s.tm.isLocal then
    let d := (t + all - s.beatStart n % all) % all
    decide (0 < d) && decide (d < all / 2)
  else decide (s.beatStart n < t)

/-- n beats begin together, the last of them beat b: the Kettle's level, the servo in HOLDOVER, the probation counts of ports, refreshes
that have ended. (DESIGN CHOICE, assumption 32) -/
def State.beginBeats (s : State) (n b last : Nat) : State :=
  let s1 := s.kettleBeat n last
  { s1 with
    beat := BitVec.ofNat 48 (min b (2 ^ 48 - 1))
    lagging := []
    tm := { s1.tm with
      pre := false
      sat := decide (2 ^ 48 - 1 ≤ b)
      beats := s1.tm.beats + n
      rate := if s1.tm.st = .holdover then s1.tm.freq else s1.tm.rate }
    nports := s1.nports.map (fun q => if q.2.st = .probation then (q.1, { q.2 with prob := q.2.prob - n }) else q)
    vaults := s1.vaults.map (fun q => (q.1, { q.2 with refreshing := [] }))
    lp := s1.lp.map (fun q => (q.1, { q.2 with refreshing := [] })) }

/-- A beat begins once Varuni time reaches its start, within the slow-edge interval that now runs. `last` is the input power averaged
over the beat before. (DEDUCED, assumption 40) -/
def execBeatBoundary (last : BitVec 16) (late : List (BitVec 6)) (s : State) : Res :=
  let n := if s.tm.pre then 0 else s.beat.toNat + 1
  if s.lagging ≠ [] then .next { s with lagging := [] }
  else if s.tm.sat ∨ !s.beatDue n then .next s
  else .next { s.beginBeats 1 n last.toNat with lagging := late.map (fun c => c.toNat) }

/-- The beat of the origin in force at the present time: none before it. -/
def State.beatNow (s : State) : Option Nat :=
  if s.tm.now < s.tm.origin * nsU then none else some ((s.tm.now - s.tm.origin * nsU) / usU)

/-- A new origin: the beat takes its value at once, and BEAT_SAT clears if that is below the maximum (R256). -/
def State.newOrigin (s : State) (ns : Nat) : State :=
  let s1 : State := { s with tm := { s.tm with origin := ns, isLocal := false } }
  match s1.beatNow with
  | none => { s1 with beat := 0, tm := { s1.tm with pre := true, sat := false } }
  | some b => { s1 with beat := BitVec.ofNat 48 (min b (2 ^ 48 - 1)), tm := { s1.tm with pre := false, sat := decide (2 ^ 48 - 1 ≤ b) } }

/-! ## Time pulses (R259, R260) -/

def tpReg (k o : Nat) : Nat := vtmReg (0x80 + 0x20 * k + o)

def State.pulseAt (s : State) (k j : Nat) : Nat :=
  (((s.reg (tpReg k 0)).toNat + (s.reg (tpReg k 4)).toNat * 2 ^ 32) * 1000000000 + s.fld (tpReg k 8) 0 30) * nsU +
    j * (s.reg (tpReg k 0xC)).toNat * nsU

def State.pulse (s : State) (k : Nat) : Pulse := if h : k < 4 then s.tm.pulses[k] else { on := false, j := 0, till := none }
def State.setPulse (s : State) (k : Nat) (p : Pulse) : State :=
  { s with tm := { s.tm with pulses := s.tm.pulses.setIfInBounds k p } }

/-- The level of TPk while it is asserted, or not: POL 0 is active high. -/
def State.pulseLevel (s : State) (k : Nat) (asserted : Bool) : Bool := asserted != decide (s.fld (tpReg k 0x14) 30 1 = 1)

/-- One pulse fires, `late` after the last slow edge, and lasts for WIDTH; a single pulse is then done. -/
def State.firePulse (s : State) (k j late : Nat) : State :=
  let single := (s.reg (tpReg k 0xC)).toNat = 0
  let s1 := ((s.bumpF (tpReg k 0x14) 0 16 1).out (.pulse k (s.pulseLevel k true))).setPulse k
    { on := decide (¬single), j := j, till := some (s.tm.run + late + (s.reg (tpReg k 0x10)).toNat * nsU) }
  if single then s1.setBit (tpReg k 0x14) 29 else s1

/-- The pulse in progress ends. The ball of TP3 goes back to UART_TX once ENABLE is 0 (R260). -/
def State.endPulse (s : State) (k : Nat) : State :=
  let s1 := (s.out (.pulse k (s.pulseLevel k false))).setPulse k { s.pulse k with till := none }
  if k = 3 ∧ s.fld (tpReg k 0x14) 31 1 = 0 then s1.setFld (clkReg 0xC) 31 1 0 else s1

/-- First j with START + j × PERIOD at or after an instant. -/
def State.firstPulse (s : State) (k t : Nat) : Nat :=
  let p := (s.reg (tpReg k 0xC)).toNat * nsU
  let t0 := s.pulseAt k 0
  if t ≤ t0 ∨ p = 0 then 0 else (t - t0 + p - 1) / p

/-- Pulse times that a forward step skips: one pulse at the step, MISSED, and the later ones as programmed. -/
def State.skipPulses (s : State) (t : Nat) : State :=
  (fromTo 0 4).foldl (fun q k =>
    let p := q.pulse k
    if p.on ∧ q.pulseAt k p.j < t then (q.firePulse k (q.firstPulse k t) 0).rise (tpReg k 0x14) 28 else q) s

/-- What an output does next within the slow-edge interval that now runs: the pulse in progress ends, or one begins. -/
def State.pulseNext (s : State) (k : Nat) : Option State :=
  let p := s.pulse k
  let ends := match p.till with | some e => s.passed e 0 | none => false
  if ends then some (s.endPulse k)
  else if p.on ∧ s.pulseAt k p.j < s.tm.now + s.slowStep then some (s.firePulse k (p.j + 1) (s.pulseAt k p.j - s.tm.now))
  else none

def execTimePulse (k : BitVec 2) (s : State) : Res := .next (if s.awake then (s.pulseNext k.toNat).getD s else s)

/-- All that an output does in the interval: at most a pulse each nanosecond. -/
def State.runPulse (k : Nat) : Nat → State → State
  | 0, s => s
  | n + 1, s => match s.pulseNext k with
    | some q => State.runPulse k n q
    | none => s

def State.runPulses (s : State) : State := (fromTo 0 4).foldl (fun q k => State.runPulse k 84 q) s

/-- ENABLE of a time-pulse output takes effect; a pulse in progress goes on to its end. TP3 takes the ball it shares with UART_TX, or gives it back
(R260). (DEDUCED, assumption 43) -/
def State.pulseEnable (s : State) (k : Nat) (en : Bool) : State :=
  let p := s.pulse k
  let on := s.fld (tpReg k 0x14) 31 1 = 1
  if en ∧ !on then
    let s1 := ((s.setFld (tpReg k 0x14) 31 1 1).setFld (tpReg k 0x14) 0 16 0).setFld (tpReg k 0x14) 29 1 0
    let late := (s1.reg (tpReg k 0xC)).toNat = 0 ∧ s1.pulseAt k 0 < s1.tm.now
    let s2 := if late then (s1.rise (tpReg k 0x14) 28).setPulse k { p with on := false, j := 0 }
      else s1.setPulse k { p with on := true, j := s1.firstPulse k s1.tm.now }
    if k = 3 then (s2.setBit (clkReg 0xC) 31).setBit (clkReg 0xC) 0 else s2
  else if !en ∧ on then
    let s1 := (s.setFld (tpReg k 0x14) 31 1 0).setPulse k { p with on := false }
    if k = 3 ∧ p.till = none then s1.setFld (clkReg 0xC) 31 1 0 else s1
  else s

def execTimePulseEnable (k : BitVec 2) (en : Bool) (s : State) : Res := .next (if s.reaches then s.pulseEnable k.toNat en else s)

/-! ## Steps of time (R246, R256, R258) -/

/-- The time steps by θ, given in units of 2^-17 ns. With LOCAL the origin moves with it; otherwise a forward step begins every beat it
skips. (DEDUCED, assumption 40) -/
def State.stepTime (s : State) (theta2 : Int) : State :=
  let now := (((s.tm.now : Int) + divFree 0 theta2 2) % ((2 ^ 64 * secU : Nat) : Int)).toNat
  let s0 : State := { s with tm := { s.tm with now := now } }
  let s1 := s0.skipPulses now
  if s.tm.isLocal then
    { s1 with tm := { s1.tm with origin := (((s.tm.origin : Int) + divNearest 1 theta2 (2 * nsU)) % ((2 ^ 64 * 1000000000 : Nat) : Int)).toNat } }
  else match s1.beatNow with
    | none => s1
    | some b =>
      let n := if s.tm.pre then b + 1 else b - s.beat.toNat
      if n = 0 ∨ s.tm.sat then s1 else s1.beginBeats n b s.power.last

/-! ## The servo (R249, R250) -/

def rateLimit : Int := 1759218604
def clampRate (x : Int) : Int := max (-rateLimit) (min rateLimit x)

/-- One accepted measurement within the step limit: θ in units of 2^-17 ns, I in units of 2^-16 ns. -/
def State.servo (s : State) (theta2 : Int) (ival : Nat) : State :=
  let f := clampRate (s.tm.freq + divFree 2 (theta2 * 2 ^ 35) (max 1 ival))
  let r := clampRate (f + divFree 3 (theta2 * 2 ^ 39) (max 1 ival))
  { s with tm := { s.tm with freq := f, rate := r } }

def thetaWord (theta2 : Int) : Word := satWord (divFree 4 theta2 8192)

/-- Interval of the source in units of time, for a first measurement, and the longest I (R249). -/
def State.srcInterval (s : State) : Nat :=
  let src := s.fld (vtmReg 4) 30 2
  if src = 0 then 125 * usU else if src = 1 then secU else 1000 * usU * s.fld (vtmReg 4) 0 8

def State.measInterval (s : State) : Nat :=
  match s.tm.lastMeas with
  | none => s.srcInterval
  | some t =>
    let i := s.tm.now - t
    if s.fld (vtmReg 4) 30 2 = 0 then min i (s.fld (vtmReg 4) 8 8 * 125 * usU) else i

/-- VTM_STATUS.STATE code. -/
def timeStCode : TimeSt → Nat
  | .free => 0 | .acquire => 1 | .locked => 2 | .holdover => 3

/-- A measurement is accepted: counted, and the run of losses ends. -/
def State.accepted (s : State) : State :=
  { s.bump (vtmReg 0x64) 1 with tm := { s.tm with lastMeas := some s.tm.now, lossRun := 0, lossFrom := s.tm.run } }

/-- TIME_MEASUREMENT: the VTM takes a measurement from a source at a depth, applies it and moves between its states. (DEDUCED, assumption 40) -/
def State.measure (s : State) (theta2 : Int) (depth : Nat) : State :=
  let s0 : State := { s.setReg (vtmReg 0x28) (thetaWord theta2) with tm := { s.tm with depth := depth } }
  let within := decide (theta2.natAbs ≤ s.fld (vtmReg 8) 0 16 * (2 * nsU))
  let near := decide (theta2.natAbs ≤ 20 * (2 * nsU))
  let det := (thetaWord theta2).toNat
  match s.tm.st with
  | .free =>
    let s1 := (s0.stepTime theta2).accepted
    { s1 with tm := { s1.tm with st := .acquire, freq := 0, stepped := true, streak := 0 } }
  | .acquire | .locked =>
    if within then
      let s1 := (s0.servo theta2 s.measInterval).accepted
      let n := if near then s.tm.streak + 1 else 0
      if s.tm.st = .acquire ∧ 16 ≤ n then
        ({ s1 with tm := { s1.tm with st := .locked, streak := 0 } } : State).raise 0x40 0
      else { s1 with tm := { s1.tm with streak := if s.tm.st = .acquire then n else 0 } }
    else
      let s1 := (s0.rise (vtmReg 0xC) 28).bump (vtmReg 0x68) 1
      ({ s1 with tm := { s1.tm with st := .holdover, holdCause := 2, streak := 0 } } : State).raise 0x41 det
  | .holdover =>
    if within then
      let s1 := (s0.servo theta2 s.measInterval).accepted
      ({ s1 with tm := { s1.tm with st := .locked, armed := false, holdCause := 0 } } : State).raise 0x40 0
    else if s.tm.armed then
      let s1 := (s0.stepTime theta2).accepted
      ({ s1 with tm := { s1.tm with st := .acquire, armed := false, holdCause := 0, streak := 0, stepped := true } } : State).raise 0x43 det
    else s0.bump (vtmReg 0x68) 1

/-! ## Beacons (R247, R248) -/

/-- Short form of a stamp (R247). -/
def shortStamp (t : Nat) : Nat := t / secU % 65536 * 2 ^ 46 + t % secU

/-- A stamp in full from its short form and the upper seconds. -/
def fullStamp (hi short : Nat) : Nat := (hi * 65536 + fieldOf short 46 16) * secU + short % 2 ^ 46

/-- Payload of a TIME packet. -/
def timePayload (op flags depth id sechi t2 t3 : Nat) : FlitWord :=
  BitVec.ofNat 256 (op + flags * 2 ^ 8 + depth * 2 ^ 16 + id * 2 ^ 32 + sechi * 2 ^ 64 + t2 * 2 ^ 128 + t3 * 2 ^ 192)

def timePacket (f : FlitWord) : NPkt :=
  { drank := 0, job := 0, flow := 0, path := 0, cls := 2, data := [(f, false)] }

def pktOp (p : NPkt) : Nat := match p.data with | [f] => f.1.toNat % 256 | _ => 0
def pktField (p : NPkt) (lo w : Nat) : Nat := match p.data with | f :: _ => fieldOf f.1.toNat lo w | [] => 0

def State.nport (s : State) (n : Nat) : NPort := smGet s.nports n NPort.reset
def State.setNport (s : State) (n : Nat) (x : NPort) : State := { s with nports := smSet s.nports n x }
def State.modNport (s : State) (n : Nat) (f : NPort → NPort) : State := s.setNport n (f (s.nport n))

/-- A lost REQ is counted; one that has not left its port is withdrawn. -/
def State.dropReq (s : State) (q : BeaconReq) : State :=
  let s1 : State := { s.bump (vtmReg 0x68) 1 with tm := { s.tm with reqs := s.tm.reqs.erase q } }
  if q.t1.isSome then s1
  else s1.modNport q.port (fun x => { x with ctl := x.ctl.filter (fun p => !(p.cls = 2 && pktOp p = 1 && pktField p 32 32 = q.id)) })

/-- Every REQ outstanding is lost: no RESP to it is accepted any more. -/
def State.dropReqs (s : State) : State := s.tm.reqs.foldl State.dropReq s

/-- An interval without an accepted measurement. After LOSS_LIMIT of them a beacon-fed module changes to UPPORT2 where that port is UP;
else the VTM enters HOLDOVER (R250, R252, R253). (DEDUCED, assumption 41) -/
def State.lostInterval (s : State) : State :=
  let n := s.tm.lossRun + 1
  let s1 : State := { s with tm := { s.tm with lossRun := n, lossFrom := s.tm.run } }
  let up2 := s.fld (vtmReg 4) 19 5
  let usable := s.fld (vtmReg 4) 30 2 = 0 ∧ up2 ≠ 31 ∧ s.tm.active ≠ up2 ∧ (smGet s.nports up2 NPort.reset).st = .up
  if n < s.fld (vtmReg 4) 8 8 then s1
  else match s.tm.st with
    | .acquire | .locked =>
      if usable then
        let s2 := s1.dropReqs
        { s2 with tm := { s2.tm with active := up2, lossRun := 0, reqs := [] } }
      else ({ s1 with tm := { s1.tm with st := .holdover, holdCause := 1, streak := 0 } } : State).raise 0x42 1
    | _ => s1

/-- A beacon-fed module sends a REQ on its active upstream port, 125 µs after the one before; t1 is taken as the REQ leaves (R247). -/
def execBeaconReq (s : State) : Res :=
  let n := s.tm.active
  let due := match s.tm.reqFrom with | some t => s.passed t (125 * usU) | none => true
  if s.fld (vtmReg 4) 30 2 ≠ 0 ∨ s.nPorts ≤ n ∨ !due then .next s
  else
    let id := (Config.undefWord s.freeCtr).toNat
    let p := timePacket (timePayload 1 (timeStCode s.tm.st) s.tm.depth id 0 0 0)
    let s1 := (s.modNport n (fun x => { x with ctl := x.ctl ++ [p] })).bump (vtmReg 0x60) 1
    .next { s1 with
      freeCtr := s.freeCtr + 1
      tm := { s1.tm with reqFrom := some s.tm.run, reqs := s.tm.reqs ++ [{ id := id, port := n, formed := s.tm.run, t1 := none }] } }

/-- The TIME packet at the head of a port is a REQ, which is answered with a RESP in a later control slot, or has no use and goes. -/
def execBeaconReqReceive (n : BitVec 5) (sub : BitVec 8) (s : State) : Res :=
  match (s.nport n.toNat).times with
  | [] => .next s
  | p :: r =>
    if pktOp p = 2 then .next s
    else if pktOp p = 1 ∧ s.fld (vtmReg 4) 29 1 = 1 then
      let a := timePacket (timePayload 2 (timeStCode s.tm.st) s.tm.depth (pktField p 32 32) 0 (shortStamp (s.stamp sub)) 0)
      .next (s.modNport n.toNat (fun x => { x with times := r, ctl := x.ctl ++ [a] }))
    else .next (s.modNport n.toNat (fun x => { x with times := r }))

/-- A RESP at the head of a port, with t4 of its arrival: accepted and applied, or rejected and counted (R248). (DEDUCED, assumption 41) -/
def execBeaconRespReceive (n : BitVec 5) (sub : BitVec 8) (s : State) : Res :=
  match (s.nport n.toNat).times with
  | [] => .next s
  | p :: r =>
    if pktOp p ≠ 2 then .next s
    else
      let s1 := s.modNport n.toNat (fun x => { x with times := r })
      let lost (q : State) : State := q.bump (vtmReg 0x68) 1
      match s.tm.reqs.find? (fun q => q.id = pktField p 32 32) with
      | none => .next (lost s1)
      | some q =>
        match (if s.fld (vtmReg 4) 30 2 = 0 then q.t1 else none) with
        | none => .next (lost s1)
        | some t1 =>
          let t4 := s.stamp sub
          let st := pktField p 8 3
          let s2 : State := { s1 with tm := { s1.tm with reqs := s1.tm.reqs.erase q } }
          if t1 + 125 * usU < t4 ∨ (st ≠ 2 ∧ st ≠ 3) ∨ 31 ≤ pktField p 16 8 then .next (lost s2).lostInterval
          else
            let hi := pktField p 64 48
            let t3 := fullStamp hi (pktField p 192 62)
            let lo2 := pktField p 128 62
            let t2 := fullStamp (if fieldOf (pktField p 192 62) 46 16 < fieldOf lo2 46 16 then hi - 1 else hi) lo2
            let asym : Int := (BitVec.ofNat 16 (s.fld (vtmReg (0x100 + 4 * n.toNat)) 0 16)).toInt * nsU
            let there : Int := (t2 : Int) - t1
            let back : Int := (t4 : Int) - t3
            let s3 := s2.setReg (vtmReg 0x30) (BitVec.ofInt 32 (divFree 5 (there + back) (2 * nsU)))
            .next (({ s3 with tm := { s3.tm with upHold := decide (st = 3) } } : State).measure (there - back - asym) (pktField p 16 8 + 1))

/-- No RESP has come within 125 µs of t1, or the REQ has not left 125 µs after it was formed. (DESIGN CHOICE, assumption 41) -/
def State.reqLost (s : State) (q : BeaconReq) : Bool :=
  match q.t1 with
  | some t1 => decide (t1 + 125 * usU < s.tm.now + s.slowStep)
  | none => s.passed q.formed (125 * usU)

/-- REQs without a RESP are lost, each with its interval. Where none is outstanding, an interval passes without a measurement too: the first when two
of them have passed since the last accepted one, as R253 counts them. (DESIGN CHOICE, assumption 41) -/
def execBeaconTimeout (s : State) : Res :=
  match s.tm.reqs.filter s.reqLost with
  | [] =>
    let due := s.passed s.tm.lossFrom ((if s.tm.lossRun = 0 then 250 else 125) * usU)
    .next (if s.fld (vtmReg 4) 30 2 = 0 ∧ s.tm.reqs = [] ∧ due then s.lostInterval else s)
  | q :: r => .next ((q :: r).foldl (fun w x => if w.tm.reqs.contains x then (w.dropReq x).lostInterval else w) s)

/-! ## PPS and PTM (R253, R254) -/

/-- A rising edge of PPS_IN is captured, and with SRC = 1 gives a measurement of the second held in VTM_PPS_SEC. -/
def execPpsEdge (sub : BitVec 8) (s : State) : Res :=
  let t := s.stamp sub
  let s0 := (s.setReg (mgtReg 0xC058) (BitVec.ofNat 32 (t % secU / nsU))).setReg (mgtReg 0xC05C) (BitVec.ofNat 32 (t / secU))
  if s.fld (vtmReg 4) 30 2 ≠ 1 then .next s0
  else
    let sec := (s.reg (vtmReg 0x40)).toNat + (s.reg (vtmReg 0x44)).toNat * 2 ^ 32
    let nxt := (sec + 1) % 2 ^ 64
    let s1 := (s0.setReg (vtmReg 0x40) (BitVec.ofNat 32 nxt)).setReg (vtmReg 0x44) (BitVec.ofNat 32 (nxt / 2 ^ 32))
    .next (s1.measure (2 * ((sec * secU : Nat) : Int) - 2 * (t : Int)) 0)

/-- An interval without an accepted edge: the first ends 2 s after the last one, each further one a second later. -/
def execPpsLossInterval (s : State) : Res :=
  let due := s.passed s.tm.lossFrom ((if s.tm.lossRun = 0 then 2 else 1) * secU)
  if s.fld (vtmReg 4) 30 2 = 1 ∧ due then .next s.lostInterval else .next s

/-- The PTM relation of one instant, and with SRC = 2 a measurement. -/
def State.ptmAnswer (s : State) (h : Dword) (t : Nat) : State :=
  let v := t / nsU
  let s1 := (((s.setReg (vtmReg 0x50) (h.setWidth 32)).setReg (vtmReg 0x54) (BitVec.ofNat 32 (h.toNat / 2 ^ 32))).setReg
    (vtmReg 0x58) (BitVec.ofNat 32 v)).setReg (vtmReg 0x5C) (BitVec.ofNat 32 (v / 2 ^ 32))
  if s.fld (vtmReg 4) 30 2 = 2 then
    let ofs : Int := (BitVec.ofNat 64 ((s.reg (vtmReg 0x48)).toNat + (s.reg (vtmReg 0x4C)).toNat * 2 ^ 32)).toInt
    s1.measure (2 * (((h.toNat : Int) + ofs) * nsU) - 2 * (t : Int)) 0
  else s1

/-- A PTM dialog, PTM_INT after the one before and while PTM Enable is set: the host's PTM Master Time in ns at the device's request, none where the host
does not answer. With SRC = 2 an interval without an answer is one without a measurement. -/
def execPtmDialog (host : Option Dword) (sub : BitVec 8) (s : State) : Res :=
  if !s.passed s.tm.ptmFrom (s.fld (vtmReg 4) 0 8 * (1000 * usU)) then .next s
  else
    let s1 : State := { s with tm := { s.tm with ptmFrom := s.tm.run } }
    match (if s.host.pcie.ptm then host else none) with
    | none => .next (if s.fld (vtmReg 4) 30 2 = 2 then s1.lostInterval else s1)
    | some h => .next (s1.ptmAnswer h (s.stamp sub))

/-! ## Writes (R250, R251) -/

/-- VTM_CFG.SRC is written, with its old value or another (R250). (DEDUCED, assumption 42) -/
def State.sourceChange (s : State) (src : Nat) : State :=
  let s1 := s.dropReqs.setFld (vtmReg 4) 30 2 src
  let tm := { s1.tm with reqs := [], lossRun := 0, lossFrom := s1.tm.run, streak := 0, active := if src = 0 then s.fld (vtmReg 4) 24 5 else 31 }
  if s.tm.stepped then { s1 with tm := { tm with st := .holdover, holdCause := 3 } }
  else { s1 with tm := { tm with st := .free, depth := 0xFF } }

/-- DEDUCED, assumption 42. -/
def execSourceChange (src : BitVec 2) (s : State) : Res := .next (if s.reaches then s.sourceChange src.toNat else s)

def execTimeRestep (s : State) : Res := .next (if s.reaches then { s with tm := { s.tm with armed := true } } else s)

/-- The snapshot registers, in offset order (R375). -/
def State.snap (s : State) : State :=
  let t := s.tm.now
  let w (i v : Nat) (q : State) : State := q.setReg (vtmReg (0x10 + 4 * i)) (BitVec.ofNat 32 v)
  (w 5 (s.beat.toNat / 2 ^ 32) (w 4 s.beat.toNat (w 3 (t % nsU) (w 2 (t % secU / nsU) (w 1 (t / secU / 2 ^ 32) (w 0 (t / secU) s)))))).setFld
    (vtmReg 0) 31 1 0

def execSnap (s : State) : Res := .next (if s.reaches then s.snap else s)

end Sys2Proof.Machine
end

