-- ==== Sys2Proof/Machine/Novbo.lean ====
section
/-!
DEFINITION. Novbo ports: packets and link control words, sequence and replay, credits, the transmit order, states and failover (R187 to
R213).
-/

namespace Sys2Proof.Machine

open Sys2Proof

/-! ## Packets on the link (R190, R191) -/

/-- One bit of a reflected CRC register. -/
def crcStep (poly c : Nat) : Nat := if c % 2 = 1 then (c / 2) ^^^ poly else c / 2

def crcByte (poly c : Nat) (b : Byte) : Nat := (fromTo 0 8).foldl (fun x _ => crcStep poly x) (c ^^^ b.toNat)

/-- CRC-32C: polynomial 0x1EDC6F41 in reflected form, initial value and final XOR of all ones. -/
def crc32c (bs : List Byte) : Nat := bs.foldl (crcByte 0x82F63B78) 0xFFFFFFFF ^^^ 0xFFFFFFFF

/-- CRC-16 with polynomial 0x1021, most significant bit first, initial value 0xFFFF (R192). -/
def crc16Byte (c : Nat) (b : Byte) : Nat :=
  (fromTo 0 8).foldl (fun x _ => if 32768 ≤ x then (x * 2 % 65536) ^^^ 0x1021 else x * 2) (c ^^^ (b.toNat * 256))

def crc16 (bs : List Byte) : Nat := bs.foldl crc16Byte 0xFFFF

/-- The 128 header bits of a packet. -/
def NPkt.hdrNat (p : NPkt) : Nat :=
  0xFB + p.cls * 2 ^ 17 + p.epoch * 2 ^ 20 + bit p.sig * 2 ^ 22 + bit p.last * 2 ^ 23 + p.data.length * 2 ^ 24 + p.off * 2 ^ 29 +
    p.path * 2 ^ 48 + p.seq * 2 ^ 64 + p.flow * 2 ^ 76 + p.job * 2 ^ 92 + p.drank * 2 ^ 108

def NPkt.bytes (p : NPkt) : List Byte := leBytes 16 p.hdrNat ++ p.data.flatMap (fun d => flitBytes d.1)

/-- The link words of a packet: header, payload, CRC-32C and four zero bytes. -/
def NPkt.words (p : NPkt) : List Dword :=
  let b := p.bytes
  ((chunksOf 8 72 b).map (fun c => BitVec.ofNat 64 (leNat c))) ++ [BitVec.ofNat 64 (crc32c b)]

/-- A packet read from link words; none where the CRC fails or the header holds a reserved value. -/
def readPacket (ws : List Dword) (poison : List Nat) : Option NPkt :=
  let bs := ws.flatMap (fun w => leBytes 8 w.toNat)
  let h := leNat (bs.take 16)
  let len := fieldOf h 24 5
  let body := 16 + 32 * len
  let pay := (chunksOf 32 17 ((bs.drop 16).take (32 * len))).map bytesFlit
  let ok := decide (ws.length = 3 + 4 * len) && decide (leNat ((bs.drop body).take 4) = crc32c (bs.take body)) &&
    decide (h % 256 = 0xFB) && decide (fieldOf h 8 9 = 0) && decide (fieldOf h 41 7 = 0) && decide (fieldOf h 17 3 ≤ 4) &&
    decide (len ≤ 16) && decide (fieldOf h 62 2 ≠ 3)
  if ok then
    some { drank := fieldOf h 108 20, job := fieldOf h 92 16, flow := fieldOf h 76 16, seq := fieldOf h 64 12, path := fieldOf h 48 16
           off := fieldOf h 29 12, last := decide (fieldOf h 23 1 = 1), sig := decide (fieldOf h 22 1 = 1), epoch := fieldOf h 20 2
           cls := fieldOf h 17 3, data := pay.zipIdx.map (fun d => (d.1, poison.contains d.2)) }
  else none

/-- Credit units of a packet (R198), and its length on the link in bytes. -/
def NPkt.units (p : NPkt) : Nat := p.data.length + 1
def NPkt.linkLen (p : NPkt) : Nat := 24 + 32 * p.data.length

/-! ## Link control words (R192) -/

def lcwWord (body : Nat) : Dword := BitVec.ofNat 64 (body + crc16 (leBytes 6 body) * 2 ^ 48)

def lcwBody (kind ackseq cls freed : Nat) : Nat := 0x9C + kind * 2 ^ 8 + ackseq * 2 ^ 12 + cls * 2 ^ 24 + freed * 2 ^ 32

/-- A word begins an LCW; its CRC-16 checks. -/
def startsLcw (w : Dword) : Bool := decide (w.toNat % 256 = 0x9C)
def lcwGood (w : Dword) : Bool := startsLcw w && decide (w.toNat / 2 ^ 48 = crc16 (leBytes 6 (w.toNat % 2 ^ 48)))

/-- A received LCW: its KIND, none where its CRC fails or its KIND is reserved. -/
def readLcw (w : Dword) : Option Nat :=
  let k := fieldOf w.toNat 8 4
  if lcwGood w ∧ 1 ≤ k ∧ k ≤ 5 then some k else none

/-! ## Ports -/

/-- NBP_TX_PKTS and the counts after it, by index. -/
def nbpCnt (n i : Nat) : Nat := nbpReg n (0x30 + 4 * i)

/-- DESIGN CHOICE, assumption 88. -/
def State.portOk (s : State) (n : Nat) : Bool := decide (n < s.nPorts)

/-- The buddy of a port: named by it and naming it in return (R207). -/
def State.buddy (s : State) (n : Nat) : Option Nat :=
  let b := s.fld (nbpReg n 4) 20 5
  if b < s.nPorts ∧ b ≠ n ∧ s.fld (nbpReg b 4) 20 5 = n then some b else none

def State.failoverOn (s : State) (n : Nat) : Bool := s.fld (nbpReg n 4) 31 1 = 1

/-- The port carries traffic of the classes other than TIME. -/
def carries (x : NPort) : Bool := x.st = .up || x.st = .lockloss || x.st = .handback

/-- Depth at which a port in LOOP turns data: 1 to 3 its own, 4 the serial data of its peer, 5 the packets it accepts; 0 for any other port (R212). -/
def State.loopDepth (s : State) (n : Nat) : Nat := if (s.nport n).st = .loop then s.fld (nbpReg n 0) 26 3 else 0

/-- What the port sends turns within it, before it leaves, and is what it receives (depths L1 to L3). -/
def State.selfFed (s : State) (n : Nat) : Bool := decide (1 ≤ s.loopDepth n) && decide (s.loopDepth n ≤ 3)

/-- DEDUCED, assumption 45. -/
def ackSeq (x : NPort) : Nat := (x.exp + 4095) % 4096

/-! ## Retirement and replay (R195, R196) -/

/-- Packets of a buffer that an ACKSEQ retires, 0 where it is stale; none where it is newer than the last packet sent. `next` is the SEQ after
that packet's. (DEDUCED, assumption 45) -/
def retiresFrom (buf : List NPkt) (next a : Nat) : Option Nat :=
  let newer := decide ((a + 4096 - next) % 4096 < 2048)
  match buf with
  | p :: _ =>
    let d := (a + 4096 - p.seq) % 4096
    if d < buf.length then some (d + 1) else if newer then none else some 0
  | [] => if newer then none else some 0

def retires (x : NPort) (a : Nat) : Option Nat := retiresFrom x.buf x.txNext a

/-- k packets are retired at an instant, from which the replay timer then runs anew. (DEDUCED, assumption 46) -/
def dropRetired (now : Nat) (x : NPort) (k : Nat) : NPort :=
  let buf := x.buf.drop k
  let y : NPort := { x with buf := buf, replaying := x.replaying.filter (fun p => buf.contains p) }
  if k = 0 then y else { y with expiries := 0, timerFrom := now }

/-- DEDUCED, assumption 45. -/
def startReplay (now : Nat) (x : NPort) (nak : Option Nat) : NPort := { x with replaying := x.buf, replayNak := nak, timerFrom := now }

/-- An LCW that is discarded, or whose ACKSEQ is newer than the last packet sent (R192, R195, R363). -/
def State.lcwErr (s : State) (n : Nat) : State := (s.bump (nbpCnt n 3) 1).health (partPort n) 0

def State.countReplay (s : State) (n : Nat) : State := (s.bump (nbpCnt n 6) 1).health (partPort n) 1

/-- Credits returned for a class (R198). -/
def takeFreed (x : NPort) (w : Nat) : NPort :=
  let c := fieldOf w 24 3
  if c = 0 ∨ c = 1 ∨ c = 3 ∨ c = 4 then { x with peerFreed := smSet x.peerFreed c (fieldOf w 32 16) } else x

def State.ackWord (s : State) (n w : Nat) : State :=
  let x := takeFreed (s.nport n) w
  match retires x (fieldOf w 12 12) with
  | none => (s.setNport n x).lcwErr n
  | some k => s.setNport n (dropRetired s.tm.run x k)

/-- A NAK retires, and starts a replay from ACKSEQ + 1 unless one begun by the same ACKSEQ is in progress. -/
def State.nakWord (s : State) (n w : Nat) : State :=
  let a := fieldOf w 12 12
  let x := takeFreed (s.nport n) w
  match retires x a with
  | none => (s.setNport n x).lcwErr n
  | some k =>
    let y := dropRetired s.tm.run x k
    let next : Bool := match y.buf with | p :: _ => decide (p.seq = (a + 1) % 4096) | [] => false
    if next ∧ !(y.replaying ≠ [] && y.replayNak = some a) then (s.setNport n (startReplay s.tm.run y (some a))).countReplay n
    else s.setNport n y

/-! ## Acknowledging (R193, R194, R198) -/

/-- The next class in the rotation PLAN, SYNC, MGMT, BULK (R198). -/
def nextFreed (c : Nat) : Nat := if c = 0 then 1 else if c = 1 then 3 else if c = 3 then 4 else 0

/-- Sends an ACK (1) or a NAK (2) with the freed units of the next class. In LOOP at L1 to L3 the word turns and the port itself takes it. -/
def State.sendAck (s : State) (n kind : Nat) : State :=
  let x := s.nport n
  let c := nextFreed x.freedLast
  let w := lcwWord (lcwBody kind (ackSeq x) c (smGet x.freed c 0 % 65536))
  let s1 := s.setNport n { x with freedLast := c, unacked := 0, ackNext := false }
  if s.selfFed n then
    let s2 := s1.modNport n (fun y => { y with deaf := false })
    if kind = 1 then s2.ackWord n w.toNat else s2.nakWord n w.toNat
  else s1.out (.lcw n w)

/-- One NAK for each EXP (R193), also where 4,096 packets accepted since have brought EXP back to its value. (DESIGN CHOICE, assumption 45) -/
def State.sendNak (s : State) (n : Nat) : State :=
  let x := s.nport n
  if x.nakFor = some x.exp then s
  else ((s.setNport n { x with nakFor := some x.exp }).bump (nbpCnt n 5) 1).sendAck n 2

/-- A packet leaves the pool: its units are freed, unless it was accepted before the last training (marked by SEQ 4,096). -/
def State.freePkt (s : State) (n : Nat) (p : NPkt) : State :=
  s.modNport n (fun x => { x with
    pool := x.pool.erase p
    freed := if p.seq < 4096 then smSet x.freed p.cls (smGet x.freed p.cls 0 + p.units) else x.freed })

/-- A CRC error or an uncorrectable codeword restarts the probation count (R208). -/
def State.restartProbation (s : State) (n : Nat) : State :=
  s.modNport n (fun x => if x.st = .probation then { x with prob := 1000000 } else x)

/-! ## Declared down, adoption (R204, R205, R209) -/

/-- A formed PLAN packet that has not been sent goes back to the head of the queue it came from. -/
def State.unformPlan (s : State) (n : Nat) : State :=
  match (s.nport n).plan with
  | none => s
  | some (_, pk, src) =>
    let key := ownKey (.novbo (BitVec.ofNat 5 src))
    let s1 := s.modNport n (fun x => { x with plan := none })
    { s1 with intakeQ := smSet s1.intakeQ key (pk :: smGet s1.intakeQ key []) }

/-- Port b adopts its buddy n: it serves the flows of both, and waits for no marker of a buddy that is down. -/
def State.adopt (s : State) (b n : Nat) : State :=
  (s.modNport b (fun x => { x with adopting := true, exch := Exchange.reset, waitMarker := false })).modNport n (fun x => { x with waitMarker := true })

/-- A port that carried traffic goes to DOWN, OFF or LOOP. What its link had outstanding stays for the TAKEOVER exchange. -/
def fallen (now : Nat) (x : NPort) (next : NSt) : NPort :=
  { x with
    st := next, lanes := if next = .down then x.lanes else 0, replaying := [], replayNak := none, switched := none, adopting := false
    failBuf := x.failBuf ++ x.buf, failExp := x.exp, failNext := x.txNext, buf := [], fallen := true, downFrom := now }

/-- A port is declared down: counted, reported, adopted by its buddy where that is UP or HANDBACK. The fall of an adopting buddy stops the
traffic of both, and is reported as such. -/
def State.declareDown (s : State) (n cause : Nat) (next : NSt) : State :=
  let s1 := (s.unformPlan n).modNport n (fun x => fallen s.tm.run x next)
  let s2 := ((s1.bump (nbpCnt n 10) 1).health (partPort n) 2).raise 0x20 (n + cause * 2 ^ 8)
  match s.buddy n with
  | none => s2
  | some b =>
    let s3 := if (s.nport n).adopting then s2.raise 0x22 (n + b * 2 ^ 8) else s2
    if ((s.nport b).st = .up ∨ (s.nport b).st = .handback) ∧ s.failoverOn n ∧ s.failoverOn b then s3.adopt b n else s3

/-- The port's own failed link has packets outstanding of which the peer has accepted an unknown number: those go, and the rest goes ahead of new
packets. (DESIGN CHOICE, assumption 46) -/
def State.resumeFailed (s : State) (n : Nat) : State :=
  let x := s.nport n
  if x.failBuf = [] then s
  else
    let k := (Config.undefWord s.freeCtr).toNat % (x.failBuf.length + 1)
    { s.setNport n { x with resend := x.failBuf.drop k ++ x.resend, failBuf := [] } with freeCtr := s.freeCtr + 1 }

/-! ## Training (R188, R198, R207, R211) -/

def State.ownReserves (s : State) (n : Nat) : List Nat :=
  let a := nbpReg n 0xC
  [s.fld a 24 7, s.fld a 16 7, s.fld a 8 7, s.fld a 0 7, s.fld (nbpReg n 0x10) 0 7]

def poolBody (rs : List Nat) : Nat :=
  0x9C + 5 * 2 ^ 8 + (rs.zipIdx).foldl (fun a r => a + r.1 * 2 ^ (12 + 7 * r.2)) 0

def identBody (id n : Nat) : Nat := 0x9C + 4 * 2 ^ 8 + n * 2 ^ 12 + id * 2 ^ 24

/-- The link layer's numbering starts anew, with nothing outstanding. (DEDUCED, assumption 46) -/
def relink (x : NPort) : NPort :=
  { x with
    deaf := false, exp := 0, nakFor := none, unacked := 0, ackNext := false
    pool := x.pool.map (fun p => { p with seq := 4096 }), freed := [], txNext := 0, sent := [], peerFreed := []
    buf := [], replaying := [], replayNak := none, expiries := 0, echo := [], switched := none }

/-- Training ends: with a rate (true: the fallback rate), or in failure. Reserves that do not fit give way to the reset ones. (DEDUCED, assumption 46) -/
def execPortTraining (n : BitVec 5) (result : Option Bool) (s : State) : Res :=
  let k := n.toNat
  let x := s.nport k
  if !s.portOk k ∨ x.st ≠ .train then .next s
  else match result with
    | none => .next (s.setNport k { x with st := .down, lanes := 0, downFrom := s.tm.run })
    | some slow =>
      let want := s.ownReserves k
      let fits := decide (want.sum ≤ 192)
      let own := if fits then want else resetReserves
      let rate := slow || s.fld (nbpReg k 4) 30 1 = 1
      let y := { relink x with
        st := if x.trained then .probation else .up
        prob := if x.trained then 1000000 else 0
        trained := true, rate := rate, lanes := 0xF, ownPool := own }
      let s1 := ((s.setNport k y).setFld (nbpReg k 8) 21 1 (bit (!fits))).setFld (nbpReg k 0x18) 31 1 0
      let s2 := (s1.out (.lcw k (lcwWord (identBody (s.fld (nbpReg k 0x14) 0 24) k)))).out (.lcw k (lcwWord (poolBody own)))
      .next (if rate then s2.health (partPort k) 2 else s2)

/-- A port in DOWN whose domain is in RUN or RESTORE starts training (R345). (DEDUCED, assumption 46) -/
def State.startTraining (s : State) (n : Nat) : State :=
  if s.portOk n ∧ (s.nport n).st = .down ∧ (s.domain 3 n = .run ∨ s.domain 3 n = .restore) then s.modNport n (fun x => { x with st := .train }) else s

/-- 100 ms of DOWN have passed. -/
def execPortRetry (n : BitVec 5) (s : State) : Res :=
  .next (if s.passed (s.nport n.toNat).downFrom (100000 * usU) then s.startTraining n.toNat else s)

def execRetrain (n : BitVec 5) (s : State) : Res := .next (if s.writable 3 n.toNat then s.startTraining n.toNat else s)

/-! ## Receiving (R189, R193, R194, R197, R367) -/

/-- The port takes link words. -/
def listens (x : NPort) : Bool := x.st = .up || (x.st = .handback && x.lanes = 0xF) || x.st = .probation || x.st = .loop

/-- Payload of the generator's packet of an index. (DESIGN CHOICE, assumption 80) -/
def lbgData (idx len : Nat) : List (FlitWord × Bool) := (fromTo 0 len).map (fun i => (Config.lbgFlit idx i, false))

/-- A packet of the loopback generator: counted good against its index, or bad, and delivered no further (R367). Packets come back in the order in
which they left, so that those before one that is intact are missing. (DEDUCED, assumption 80) -/
def State.lbgCheck (s : State) (n : Nat) (p : NPkt) : State :=
  if s.fld (mgtReg 0xC034) 31 1 = 1 ∧ s.fld (mgtReg 0xC034) 26 5 = n then
    match s.boot.lbgOut.dropWhile (fun i => p.data ≠ lbgData i (s.fld (mgtReg 0xC034) 21 5)) with
    | _ :: rest => { s.bump (mgtReg 0xC03C) 1 with boot := { s.boot with lbgOut := rest } }
    | [] => { s.bump (mgtReg 0xC040) 1 with boot := { s.boot with lbgOut := s.boot.lbgOut.drop 1 } }
  else s

/-- Acceptance of the packet whose turn it is. A port in LOOP at L5 returns it. (DESIGN CHOICE, assumption 47) -/
def State.acceptPkt (s : State) (n : Nat) (p : NPkt) : State :=
  let x := s.nport n
  let q := { p with acc := s.beat.toNat }
  let s1 := (s.setNport n { x with
    exp := (x.exp + 1) % 4096, unacked := x.unacked + 1, ackFrom := if x.unacked = 0 then s.tm.run else x.ackFrom
    pool := x.pool ++ [q] }).bump (nbpCnt n 1) 1
  if s.loopDepth n = 5 then (s1.modNport n (fun y => { y with echo := y.echo ++ [p] })).freePkt n q
  else if p.cls = 4 ∧ p.flow = 0xFFFE then (s1.lbgCheck n p).freePkt n q
  else s1

/-- A packet that arrives on the link. (DESIGN CHOICE, assumption 47) -/
def State.receivePkt (s : State) (n : Nat) (p : NPkt) : State :=
  let x := s.nport n
  if p.cls = 2 then
    if (x.ownPool.getD 2 2) * 128 < (x.times.map NPkt.units).sum + p.units then s.bump (nbpCnt n 7) 1
    else if s.loopDepth n = 5 then (s.setNport n { x with echo := x.echo ++ [p] }).bump (nbpCnt n 1) 1
    else (s.setNport n { x with times := x.times ++ [p] }).bump (nbpCnt n 1) 1
  else
    let d := (p.seq + 4096 - x.exp) % 4096
    if d = 0 then s.acceptPkt n p
    else if 3072 ≤ d then (s.setNport n { x with ackNext := true }).bump (nbpCnt n 7) 1
    else s.sendNak n

/-- A framing error: words are discarded until the next good LCW. -/
def State.frameErr (s : State) (n : Nat) : State := (s.modNport n (fun y => { y with deaf := true })).bump (nbpCnt n 4) 1

/-- 16 µs have passed since the replay timer last started. The fourth expiry in a row without a retirement declares the port down (R204); a port in
LOOP goes on replaying. -/
def execReplayTimer (n : BitVec 5) (s : State) : Res :=
  let k := n.toNat
  let x := s.nport k
  if !s.portOk k ∨ !(carries x || x.st = .loop) ∨ x.buf = [] ∨ !s.passed x.timerFrom (16 * usU) then .next s
  else if x.expiries = 3 ∧ carries x then .next ((s.setNport k { x with expiries := 0 }).declareDown k 2 .down)
  else .next ((s.setNport k { startReplay s.tm.run x none with expiries := min 3 (x.expiries + 1) }).countReplay k)

/-- The port sends a test pattern in place of link words (R366). -/
def State.prbsOn (s : State) (n : Nat) : Bool :=
  s.fld (mgtReg 0xC020) 31 1 = 1 && s.fld (mgtReg 0xC020) 16 5 = n && s.fld (mgtReg 0xC020) 0 4 ≠ 0

/-- 64 packets have been accepted since the last ACK or NAK, or 2 µs have passed since the first of them (R194). -/
def execAckDue (n : BitVec 5) (s : State) : Res :=
  let k := n.toNat
  let x := s.nport k
  let due := decide (64 ≤ x.unacked) || s.passed x.ackFrom (2 * usU)
  if !s.portOk k ∨ !listens x ∨ s.loopDepth k = 4 ∨ x.unacked = 0 ∨ !due ∨ s.prbsOn k then .next s else .next (s.sendAck k 1)

/-- An LCW falls due after 2 µs: an ACK, which also returns freed units. -/
def execLcwDue (n : BitVec 5) (s : State) : Res :=
  let k := n.toNat
  let x := s.nport k
  if !s.portOk k ∨ !(listens x || x.st = .lockloss) ∨ s.loopDepth k = 4 ∨ s.prbsOn k then .next s else .next (s.sendAck k 1)

/-! ## Identity and reserves (R198, R207) -/

/-- A port whose peer differs from its buddy's. -/
def State.mismatch (s : State) (n id : Nat) : State := (s.setBit (nbpReg n 8) 22).raise 0x23 (n + id * 2 ^ 32)

/-- IDENT: the peer is recorded; where the two ports of a pair now know different peers, both say so. -/
def State.identWord (s : State) (n w : Nat) : State :=
  let id := fieldOf w 24 24
  let s1 := s.setReg (nbpReg n 0x18) (BitVec.ofNat 32 (2 ^ 31 + fieldOf w 12 5 * 2 ^ 24 + id))
  match s.buddy n with
  | none => s1
  | some b =>
    let other := s.fld (nbpReg b 0x18) 0 24
    if s.fld (nbpReg b 0x18) 31 1 = 1 ∧ other ≠ id then (s1.mismatch n id).mismatch b other else s1

/-- POOL: the peer's class reserves. -/
def State.poolWord (s : State) (n w : Nat) : State :=
  s.modNport n (fun x => { x with peerPool := (fromTo 0 5).map (fun i => fieldOf w (12 + 7 * i) 7) })

/-! ## Taking over (R205, R206) -/

def takeoverWord (b : NPort) (seen : Bool) : Dword := lcwWord (0x9C + 3 * 2 ^ 8 + (b.failExp + 4095) % 4096 * 2 ^ 12 + bit seen * 2 ^ 24)

/-- The first TAKEOVER at port n retires the failed buffer of its buddy b and hands the rest to n, behind what n's own failed link left (R206,
R209). An ACKSEQ newer than the last packet sent is counted. -/
def State.handOver (s : State) (n b a : Nat) : State :=
  let y := s.nport b
  let k := retiresFrom y.failBuf y.failNext a
  let s0 := match k with | none => s.lcwErr n | some _ => s
  let s1 := s0.resumeFailed n
  (s1.modNport n (fun z => { z with resend := z.resend ++ y.failBuf.drop (k.getD 0) ++ y.resend })).modNport b
    (fun z => { z with failBuf := [], resend := [] })

/-- A TAKEOVER at port n concerns its buddy b, which it declares down. (DESIGN CHOICE, assumption 47) -/
def State.takeover (s : State) (n w : Nat) : State :=
  match s.buddy n with
  | none => s
  | some b =>
    let s1 := if carries (s.nport b) then s.declareDown b 3 .down else s
    if !(s1.nport n).adopting then s1
    else
      let e := (s1.nport n).exch
      let word := takeoverWord (s1.nport b) true
      let s2 := if e.got then s1 else s1.handOver n b (fieldOf w 12 12)
      let seen := decide (fieldOf w 24 1 = 1)
      let e1 : Exchange := { e with got := true, gotSeen := e.gotSeen || seen }
      if e.stopped then (s2.modNport n (fun z => { z with exch := e1 })).out (.lcw n word)
      else if seen ∧ !e.sentSeen then
        (s2.modNport n (fun z => { z with exch := { e1 with sentSeen := true, stopped := true } })).out (.lcw n word)
      else s2.modNport n (fun z => { z with exch := { e1 with stopped := seen && e.sentSeen } })

/-- Every 2 µs the adopting buddy sends a TAKEOVER until the exchange has ended. -/
def execTakeoverSend (n : BitVec 5) (s : State) : Res :=
  let x := s.nport n.toNat
  match s.buddy n.toNat with
  | none => .next s
  | some b =>
    let e := x.exch
    let due := match e.sentAt with | some t => s.passed t (2 * usU) | none => true
    if !x.adopting ∨ e.stopped ∨ !due then .next s
    else
      let s1 := s.out (.lcw n.toNat (takeoverWord (s.nport b) e.got))
      .next (s1.modNport n.toNat (fun z => { z with exch := { e with sentSeen := e.sentSeen || e.got, stopped := e.got && e.gotSeen, sentAt := some s.tm.run } }))

/-! ## Words that arrive (R189, R191, R192, R212) -/

/-- An LCW: where its CRC checks it ends the discarding of words, and has its effect or, with a reserved KIND, is counted; a CRC error is counted
and restarts a probation (R208). (DESIGN CHOICE, assumption 47) -/
def State.lcwIn (s : State) (n : Nat) (w : Dword) : State :=
  let v := w.toNat
  if lcwGood w then
    let s1 := s.modNport n (fun y => { y with deaf := false })
    match fieldOf v 8 4 with
    | 1 => s1.ackWord n v
    | 2 => s1.nakWord n v
    | 3 => s1.takeover n v
    | 4 => s1.identWord n v
    | 5 => s1.poolWord n v
    | _ => s1.lcwErr n
  else if (s.nport n).deaf then s
  else (s.lcwErr n).restartProbation n

/-- Link words from a unit boundary on: LCWs and IDLE words, eight bytes of 0x07, then a packet where the byte is 0xFB; any other byte is a framing
error. -/
def State.takeWords (s : State) (n : Nat) (poison : List Nat) : List Dword → State
  | [] => s
  | w :: r =>
    if startsLcw w then (s.lcwIn n w).takeWords n poison r
    else if (s.nport n).deaf ∨ w = 0x0707070707070707 then s.takeWords n poison r
    else if w.toNat % 256 ≠ 0xFB then (s.frameErr n).takeWords n poison r
    else match readPacket (w :: r) poison with
      | some p => s.receivePkt n p
      | none =>
        let s1 := ((s.bump (nbpCnt n 2) 1).health (partPort n) 0).restartProbation n
        if fieldOf w.toNat 17 3 = 2 then s1 else s1.sendNak n

/-- What arrives at a unit boundary; `corr` codewords of it were corrected. A port in LOOP receives at L1 to L3 what it sends, and at L4 returns
the symbols as they come. (DESIGN CHOICE, assumption 47) -/
def execNovboPacketReceive (n : BitVec 5) (corr : BitVec 8) (rx : NovboRx) (s : State) : Res :=
  let k := n.toNat
  let x := s.nport k
  if !s.portOk k ∨ !listens x then .next s
  else if s.loopDepth k = 4 then
    .next (match rx with | .packet ws _ | .badBoundary ws | .fecUncorrectable ws => s.out (.serial k ws))
  else
    let s0 := s.bump (nbpCnt k 8) corr.toNat
    match rx with
    | .badBoundary _ => .next (if x.deaf then s0 else s0.frameErr k)
    | .fecUncorrectable _ => .next ((((s0.frameErr k).bump (nbpCnt k 9) 1).health (partPort k) 1).restartProbation k)
    | .packet ws poison => .next (if s.selfFed k then s0 else s0.takeWords k poison ws)

/-- The one word of a command for an LCW of a KIND. Nothing is done for a good LCW of another KIND: that is another command. -/
def State.takeLcw (s : State) (n : Nat) (w : Dword) (kind : Nat) : Res :=
  let x := s.nport n
  if !s.portOk n ∨ !listens x ∨ s.selfFed n then .next s
  else if s.loopDepth n = 4 then .next (s.out (.serial n [w]))
  else match readLcw w with
    | some k => if k = kind then .next (s.lcwIn n w) else .next s
    | none => .next (if startsLcw w then s.lcwIn n w else if x.deaf then s else s.frameErr n)

def execNovboAck (n : BitVec 5) (w : Dword) (s : State) : Res := s.takeLcw n.toNat w 1
def execNovboNak (n : BitVec 5) (w : Dword) (s : State) : Res := s.takeLcw n.toNat w 2
def execTakeover (n : BitVec 5) (w : Dword) (s : State) : Res := s.takeLcw n.toNat w 3
def execIdent (n : BitVec 5) (w : Dword) (s : State) : Res := s.takeLcw n.toNat w 4
def execPool (n : BitVec 5) (w : Dword) (s : State) : Res := s.takeLcw n.toNat w 5

/-! ## Sending (R195, R198, R199) -/

/-- A packet of class c and s units may be charged against the peer's pool (R198). -/
def mayCharge (x : NPort) (c s : Nat) : Bool :=
  let r (k : Nat) : Nat := x.peerPool.getD k 0 * 128
  let used (k : Nat) : Nat := (smGet x.sent k 0 + 65536 - smGet x.peerFreed k 0 % 65536) % 65536
  let extra (k : Nat) : Nat := used k - r k
  let shared := extra 0 + extra 1 + extra 3 + extra 4
  decide (used c + s ≤ r c) || decide (shared - extra c + (used c + s - r c) ≤ 24576 - (r 0 + r 1 + r 2 + r 3 + r 4))

/-- What the replay buffer holds: packets of the failed link that wait for the exchange, then those outstanding. -/
def outstanding (x : NPort) : List NPkt := x.failBuf ++ x.buf

/-- A new numbered packet may be sent: within the replay buffer and the credits. -/
def maySend (x : NPort) (p : NPkt) : Bool :=
  decide ((outstanding x).length < 1024) && decide (((outstanding x).foldl (fun a q => a + q.linkLen) 0) + p.linkLen ≤ 524288) && mayCharge x p.cls p.units

/-- A packet goes out. In LOOP at L1 to L3 it turns within the port and is received there, unless words are being discarded. -/
def State.emit (s : State) (n : Nat) (p : NPkt) : State :=
  if s.selfFed n then (if (s.nport n).deaf then s else s.receivePkt n p) else s.out (.link n p)

/-- A new packet takes the next SEQ and goes out. The replay timer starts with the first outstanding packet. -/
def State.sendNew (s : State) (n : Nat) (p : NPkt) : State :=
  let x := s.nport n
  let q := { p with seq := x.txNext }
  ((s.setNport n { x with
    txNext := (x.txNext + 1) % 4096, buf := x.buf ++ [q], timerFrom := if x.buf = [] then s.tm.run else x.timerFrom
    sent := smSet x.sent p.cls ((smGet x.sent p.cls 0 + p.units) % 65536) }).bump (nbpCnt n 0) 1).emit n q

/-- The classes of the control slot after the one served last: TIME, SYNC, MGMT, BULK in rotation. -/
def ctlOrder (last : Nat) : List Nat :=
  if last = 2 then [1, 3, 4, 2] else if last = 1 then [3, 4, 2, 1] else if last = 3 then [4, 2, 1, 3] else [2, 1, 3, 4]

/-- A TIME packet leaves: t1 of a REQ is taken, t3 and the upper seconds are written into a RESP. -/
def State.sendTime (s : State) (n : Nat) (p : NPkt) (t : Nat) : State :=
  let q : NPkt :=
    if pktOp p = 2 then
      match p.data with
      | f :: _ => { p with data := [(BitVec.ofNat 256 (withField (withField f.1.toNat 64 48 (t / secU / 65536)) 192 62 (shortStamp t)), false)] }
      | [] => p
    else p
  let s1 := (s.bump (nbpCnt n 0) 1).out (.link n q)
  if pktOp p = 1 then
    { s1 with tm := { s1.tm with reqs := s1.tm.reqs.map (fun r => if r.id = pktField p 32 32 then { r with t1 := some t } else r) } }
  else s1

/-- The loopback generator's packet of an index (R367). (DESIGN CHOICE, assumption 80) -/
def State.lbgPkt (s : State) (idx : Nat) : NPkt :=
  { drank := s.fld (mgtReg 0xA000) 0 20, job := 0, flow := 0xFFFE, path := 0, cls := 4
    data := lbgData idx (s.fld (mgtReg 0xC034) 21 5) }

/-- DESIGN CHOICE, assumption 80. -/
def isLbg (p : NPkt) : Bool := p.cls = 4 && p.flow = 0xFFFE

/-- The generator's packet has left port n: it is counted, and the next one waits for its slot (R367). -/
def State.lbgSent (s : State) (n : Nat) : State :=
  if s.fld (mgtReg 0xC034) 31 1 = 1 ∧ s.fld (mgtReg 0xC034) 26 5 = n then
    let s1 := s.bump (mgtReg 0xC038) 1
    let s2 : State := { s1 with boot := { s1.boot with lbgLast := s1.tm.run } }
    let idx := s2.fld (mgtReg 0xC038) 0 32
    if idx < s2.fld (mgtReg 0xC034) 0 16 then s2.modNport n (fun x => { x with ctl := x.ctl ++ [s2.lbgPkt idx] }) else s2
  else s

def isMarker (p : NPkt) : Bool := p.cls = 3 && p.flow = 0xFFFF && p.data = []

/-- The packets of other classes that a port sends: its own, then SYNC, MGMT and BULK packets of a buddy that it has adopted and that carries nothing
(R218, R219). -/
def State.ctlQueue (s : State) (n : Nat) : List NPkt :=
  let x := s.nport n
  x.ctl ++ (match s.buddy n with
    | some b => if x.adopting ∧ !carries (s.nport b) then (s.nport b).ctl.filter (fun p => p.cls ≠ 2 && !isMarker p && !isLbg p) else []
    | none => [])

/-- The generator's packets come back: the port is in LOOP at L3, or carries traffic to a peer set to L5 (R367). -/
def State.lbgFed (s : State) (n : Nat) : Bool := s.loopDepth n = 3 || (carries (s.nport n) && s.boot.lbgPeer)

/-- The packet of another class that is ready next. PROBATION carries TIME only, a port in LOOP the generator's packets only. -/
def State.ctlReady (s : State) (n : Nat) : Option NPkt :=
  let x := s.nport n
  (ctlOrder x.ctlLast).findSome? (fun c =>
    match (s.ctlQueue n).find? (fun p => p.cls = c) with
    | none => none
    | some p =>
      let allowed := if isLbg p then s.lbgFed n else carries x || (x.st = .probation && c = 2)
      if allowed ∧ (c = 2 ∨ maySend x p) then some p else none)

def State.sendCtl (s : State) (n : Nat) (p : NPkt) (t : Nat) : State :=
  let s0 := match s.buddy n with
    | some b => if (s.nport n).ctl.contains p then s else s.modNport b (fun y => { y with ctl := y.ctl.erase p })
    | none => s
  let s1 := s0.modNport n (fun x => { x with ctl := x.ctl.erase p, ctlLast := p.cls })
  if p.cls = 2 then s1.sendTime n p t
  else if isLbg p then
    (({ s1 with boot := { s1.boot with lbgOut := s1.boot.lbgOut ++ [s1.fld (mgtReg 0xC038) 0 32] } } : State).sendNew n p).lbgSent n
  else s1.sendNew n p

/-- The packet that a port has to send again before any new one: returned at L5, or left by a failed link. In HANDBACK a port carries no PLAN
packet of its own (R206, R208, R212). -/
def resendHead (x : NPort) : Option NPkt :=
  if x.st = .loop then x.echo.head?
  else if !carries x then none
  else x.resend.find? (fun p => p.cls ≠ 0 || x.st ≠ .handback || x.adopting)

def State.sendAgain (s : State) (n : Nat) (p : NPkt) : State :=
  let x := s.nport n
  let y : NPort := if x.st = .loop then { x with echo := x.echo.drop 1 } else { x with resend := x.resend.erase p, planSince := x.planSince + bit (p.cls = 0) }
  if p.cls = 2 then ((s.setNport n y).bump (nbpCnt n 0) 1).out (.link n p) else (s.setNport n y).sendNew n p

/-- The PLAN packet that the egress has formed, where it may be sent. -/
def planReady (x : NPort) : Option NPkt :=
  match x.plan with
  | some (p, _, _) => if carries x ∧ maySend x p then some p else none
  | none => none

def State.sendPlan (s : State) (n : Nat) (p : NPkt) : State :=
  let x := s.nport n
  let src := match x.plan with | some q => q.2.2 | none => n
  let s1 := (s.setNport n { x with plan := none, planSince := x.planSince + 1 }).sendNew n p
  if p.last then s1.endPacketLeft (.novbo (BitVec.ofNat 5 src)) 0 else s1

/-- Nothing leaves in this slot; a PLAN packet that waits is counted in NBP_PLAN_STALL. -/
def State.planStall (s : State) (n : Nat) : State :=
  let x := s.nport n
  if (x.plan.isSome || x.resend.any (fun p => p.cls = 0)) ∧ carries x then s.bump (nbpCnt n 11) 1 else s

/-- One packet slot of the transmitter: replayed packets first, then those to be sent again, which let nothing new pass; then a control slot after 32
PLAN packets, then PLAN, then the other classes (R199, R206). A replayed PLAN packet does not count toward the 32, one taken over does. (DESIGN CHOICE,
assumption 47) -/
def execTransmitSlot (n : BitVec 5) (sub : BitVec 8) (s : State) : Res :=
  let k := n.toNat
  let x := s.nport k
  let t := s.stamp sub
  if !s.portOk k ∨ s.prbsOn k ∨ s.loopDepth k = 4 then .next s
  else match x.replaying, resendHead x with
    | p :: r, _ =>
      if carries x ∨ x.st = .loop then .next (((s.setNport k { x with replaying := r }).bump (nbpCnt k 0) 1).emit k p) else .next s
    | [], some p => .next (if p.cls = 2 ∨ maySend x p then s.sendAgain k p else s.planStall k)
    | [], none =>
      match (if 32 ≤ x.planSince then s.ctlReady k else none), planReady x, s.ctlReady k with
      | some p, _, _ => .next ((s.sendCtl k p t).modNport k (fun y => { y with planSince := 0 }))
      | none, some p, _ => .next (s.sendPlan k p)
      | none, none, some p => .next (s.sendCtl k p t)
      | none, none, none => .next (s.planStall k)

/-! ## Lock, states (R204, R208, R211, R212) -/

/-- Lock is lost on a lane. The lock-loss timer starts with the first lane lost. -/
def execLockLoss (n : BitVec 5) (lane : BitVec 2) (s : State) : Res :=
  let k := n.toNat
  let x := s.nport k
  let y : NPort := { x with
    lanes := x.lanes &&& ~~~(1#4 <<< lane.toNat)
    lockFrom := if x.lanes = 0xF then s.tm.run else x.lockFrom }
  if !s.portOk k then .next s
  else match x.st with
    | .up => .next (s.setNport k { y with st := .lockloss })
    | .probation => .next (s.setNport k { y with st := .down, downFrom := s.tm.run })
    | _ => .next (s.setNport k y)

def execLockRegained (n : BitVec 5) (lane : BitVec 2) (s : State) : Res :=
  let k := n.toNat
  let x := s.nport k
  let lanes := x.lanes ||| (1#4 <<< lane.toNat)
  if !s.portOk k then .next s
  else .next (s.setNport k { x with lanes := lanes, st := if x.st = .lockloss ∧ lanes = 0xF then .up else x.st })

/-- The lock-loss timer reaches LOCKLOSS_TIME with a lane still out of lock. -/
def execPortDown (n : BitVec 5) (s : State) : Res :=
  let k := n.toNat
  let x := s.nport k
  let expired := s.passed x.lockFrom (s.fld (nbpReg k 4) 0 10 * usU)
  if s.portOk k ∧ x.lanes ≠ 0xF ∧ (x.st = .lockloss ∨ x.st = .handback) ∧ expired then .next (s.declareDown k 1 .down) else .next s

/-- A write of ENABLE. (DEDUCED, assumption 43) -/
def State.portEnable (s : State) (n : Nat) (en : Bool) : State :=
  let s1 := s.setFld (nbpReg n 0) 0 1 (bit en)
  let x := s.nport n
  if !s.portOk n then s
  else if en then (if x.st = .off then s1.modNport n (fun y => { y with st := .train }) else s1)
  else if carries x then s1.declareDown n 4 .off
  else if x.st = .train ∨ x.st = .down ∨ x.st = .probation then s1.modNport n (fun y => { y with st := .off, lanes := 0 })
  else s1

def execPortEnableWrite (n : BitVec 5) (en : Bool) (s : State) : Res :=
  .next (if s.writable 3 n.toNat then s.portEnable n.toNat en else s)

/-- A port in LOOP numbers its packets anew, and at L1 to L3 its peer's pool is its own. (DESIGN CHOICE, assumption 46) -/
def enterLoop (depth : Nat) (x : NPort) : NPort :=
  { relink x with st := .loop, lanes := 0, peerPool := if depth ≤ 3 then x.ownPool else x.peerPool }

/-- A write of LOOP; 6 and 7 store 0. -/
def State.portLoop (s : State) (n depth : Nat) : State :=
  let d := if 5 < depth then 0 else depth
  let s1 := s.setFld (nbpReg n 0) 26 3 d
  let x := s.nport n
  if !s.portOk n then s
  else if x.st = .loop ∧ d = s.fld (nbpReg n 0) 26 3 then s
  else if 0 < d then (if carries x then s1.declareDown n 4 .loop else s1).modNport n (enterLoop d)
  else if x.st = .loop then s1.modNport n (fun y => { y with st := if s.fld (nbpReg n 0) 0 1 = 1 then .train else .off })
  else s1

def execLoopWrite (n : BitVec 5) (depth : BitVec 3) (s : State) : Res :=
  .next (if s.writable 3 n.toNat then s.portLoop n.toNat depth.toNat else s)

/-- Probation ends: HANDBACK. The first of two ports that were declared down adopts the other (R209); a port that nobody adopted, and whose buddy is
not down, sends again what its failed link left. -/
def execProbationEnd (n : BitVec 5) (s : State) : Res :=
  let k := n.toNat
  let x := s.nport k
  if !s.portOk k ∨ x.st ≠ .probation ∨ x.prob ≠ 0 then .next s
  else
    let s1 := s.setNport k { x with st := .handback, switched := none, before := s.fleet.actions.filter (fun a => a.kind = 1) }
    match s.buddy k with
    | none => .next (s1.resumeFailed k)
    | some b =>
      let y := s.nport b
      if y.adopting then .next s1
      else if y.fallen ∧ !carries y ∧ s.failoverOn k ∧ s.failoverOn b then .next (s1.adopt k b)
      else .next (s1.resumeFailed k)

/-- A replay has started whose SEGMENT_START gate is beat b or later. -/
def State.replaySince (s : State) (b : Nat) : Bool :=
  s.replays.any (fun q => q.live.any (fun l => decide (b ≤ q.base + l.k * q.period)))

def markerPkt : NPkt := { drank := 0, job := 0, flow := 0xFFFF, path := 0, cls := 3, data := [] }

/-- The port is UP again, with its own lists; the timer of a lane that has lost lock runs on (R204). -/
def backUp (x : NPort) : NPort := { x with st := if x.lanes = 0xF then .up else .lockloss, switched := none, fallen := false }

/-- At the first replay start in a new epoch, with the adopted list in DONE and its packets sent, the buddy sends the marker and the port
returns to UP; a port that nobody adopted returns without one (R208). -/
def execHandback (n : BitVec 5) (s : State) : Res :=
  let k := n.toNat
  let x := s.nport k
  match x.switched with
  | none => .next s
  | some b0 =>
    if x.st ≠ .handback ∨ !s.replaySince b0 ∨ !s.portOk k then .next s
    else match s.buddy k with
      | none => .next (s.setNport k (backUp x))
      | some b =>
        let y := s.nport b
        if !y.adopting then .next (s.setNport k { backUp x with waitMarker := false })
        else if (s.port (.novbo n)).st ≠ .done ∨ y.resend ≠ [] ∨ y.plan.isSome then .next s
        else .next ((s.setNport k (backUp x)).setNport b { y with adopting := false, ctl := y.ctl ++ [markerPkt] })

/-! ## The optics sideband (R213) -/

/-- A port's optics bus and the channel of its switch. -/
def opticsBus (n : Nat) : Nat := n / 3
def opticsChannel (n : Nat) : Nat := n % 3

/-- DESIGN CHOICE, assumption 82. -/
def execOpticsPoll (n : BitVec 5) (present alarm : Bool) (temp : BitVec 8) (rx : BitVec 16) (s : State) : Res :=
  let k := n.toNat
  if s.awake ∧ s.portOk k then
    .next ((s.out (.optics (opticsBus k) (.channel (opticsChannel k)))).setReg (nbpReg k 0x74)
      (BitVec.ofNat 32 (bit present * 2 ^ 31 + bit alarm * 2 ^ 30 + temp.toNat * 2 ^ 16 + rx.toNat)))
  else .next s

/-- A write of NBP_OPT_ACC: with GO at 1 an access starts. Nothing is stored while one is under way. (DESIGN CHOICE, assumption 79) -/
def State.writeOptics (s : State) (n : Nat) (v : Word) : State :=
  let a := nbpReg n 0x70
  if s.fld a 31 1 = 1 then s else s.setReg a ((v &&& 0xC0FFFFFF#32) ||| (s.reg a &&& 0x20000000#32))

/-- The ports of a group below n that have an access under way go first. -/
def State.opticsWaits (s : State) (n : Nat) : Bool :=
  (fromTo (3 * opticsBus n) (opticsChannel n)).any (fun k => s.fld (nbpReg k 0x70) 31 1 = 1)

/-- The access under way runs on the bus: the switch channel, for an address of 0x80 or more the page select byte, then the byte; and ends with
the module's answer. -/
def State.opticsAnswer (s : State) (n : Nat) (b : Option (BitVec 8)) : State :=
  let a := nbpReg n 0x70
  let w := (s.reg a).toNat
  let addr := fieldOf w 8 8
  let wr := decide (fieldOf w 30 1 = 1)
  let bus (q : State) (op : OptOp) : State := q.out (.optics (opticsBus n) op)
  let s1 := bus s (.channel (opticsChannel n))
  let s2 := if 0x80 ≤ addr then bus s1 (.page (fieldOf w 16 8)) else s1
  let s3 := bus s2 (if wr then .write addr (fieldOf w 0 8) else .read addr)
  let d := match b with | some v => if wr then fieldOf w 0 8 else v.toNat | none => fieldOf w 0 8
  s3.setReg a (BitVec.ofNat 32 (bit wr * 2 ^ 30 + bit b.isNone * 2 ^ 29 + fieldOf w 16 8 * 2 ^ 16 + addr * 2 ^ 8 + d))

def execOpticsAccess (n : BitVec 5) (x : OpticsStep) (s : State) : Res :=
  let k := n.toNat
  if !s.awake ∨ !s.portOk k then .next s
  else match x with
    | .write v => .next (if s.writable 3 k then s.writeOptics k v else s)
    | .answer b => .next (if s.fld (nbpReg k 0x70) 31 1 = 0 ∨ s.opticsWaits k then s else s.opticsAnswer k b)

end Sys2Proof.Machine
end

