-- ==== Sys2Proof/Machine/Fleet.lean ====
section
/-!
DEFINITION. The fleet: rank table and route epochs, PLAN traffic at the ports' egress and ingress, the other classes, relays, the start of a
job, fences of ranks (R200 to R202, R214 to R234).
-/

namespace Sys2Proof.Machine

open Sys2Proof

/-! ## Ranks and the rank table (R214, R216, R220) -/

def State.ownRank (s : State) : Nat := s.fld (mgtReg 0xA000) 0 20
def State.jobId (s : State) : Nat := s.fld (mgtReg 0xA004) 0 16
def State.tStart (s : State) : Nat := s.fld (mgtReg 0xA008) 0 32 + s.fld (mgtReg 0xA00C) 0 16 * 2 ^ 32

def FleetState.bank (f : FleetState) (b : Nat) : RankBank := if b % 2 = 0 then f.bank0 else f.bank1
def FleetState.setBank (f : FleetState) (b : Nat) (x : RankBank) : FleetState :=
  if b % 2 = 0 then { f with bank0 := x } else { f with bank1 := x }

def RankBank.isDrained (b : RankBank) : Bool := !b.valid || b.drained

def State.rankWord (s : State) (b i : Nat) : Word := smGet s.fleet.ranks (b % 2 * 65536 + i % 65536) 0

def State.setRankWord (s : State) (b i : Nat) (w : Word) : State :=
  let k := b % 2 * 65536 + i % 65536
  { s with fleet := { s.fleet with ranks := if w = 0 then smDel s.fleet.ranks k else smSet s.fleet.ranks k w } }

/-- An entry matches rank r (R216). -/
def matchesRank (w : Word) (r : Nat) : Bool := decide (fieldOf w.toNat 31 1 = 1) && decide (fieldOf w.toNat 21 4 = r / 65536 % 16)

/-- The route of a rank in the current epoch's bank. -/
def State.rankRoute (s : State) (r : Nat) : Option Nat :=
  let b := s.fleet.bank s.fleet.cur.toNat
  let w := s.rankWord s.fleet.cur.toNat r
  if b.valid ∧ b.tag = s.fleet.cur ∧ matchesRank w r then some w.toNat else none

def routeFenced (w : Nat) : Bool := decide (fieldOf w 30 1 = 1)
def routePort (w : Nat) : Nat := fieldOf w 25 5
/-- DEDUCED, assumption 48. -/
def routePath (w : Nat) : Nat := fieldOf w 0 16
/-- DEDUCED, assumption 48. -/
def pathHops (p : Nat) : Nat := fieldOf p 14 2

/-- A packet of an epoch is formed at an egress or relayed: that bank's drain count starts again (R220). -/
def State.noteRankUse (s : State) (e : Nat) : State :=
  let f := s.fleet
  let g (b : RankBank) : RankBank := if b.tag.toNat = e then { b with drained := false } else b
  { s with fleet := { f with bank0 := g f.bank0, bank1 := g f.bank1, used := smSet f.used e s.tm.beats } }

def State.rankElapsed (s : State) (e : Nat) : Bool :=
  match smFind s.fleet.used e with
  | none => true
  | some b => decide (b + max 1 (s.fld (mgtReg 0xA018) 0 16) < s.tm.beats)

def State.drainRanks (s : State) (b : Nat) : State :=
  let x := s.fleet.bank b
  let y : RankBank := { x with drained := true }
  if x.valid ∧ x.tag ≠ s.fleet.cur ∧ s.rankElapsed x.tag.toNat then { s with fleet := s.fleet.setBank b y } else s

/-- A bank has been without a packet of its epoch for the interval (R141, R220). -/
def execDrainIntervalExpiry (site : DrainSite) (s : State) : Res :=
  match site with
  | .router t b => .next (if s.tileOk t.toNat then s.drainRouter t.toNat b.toNat else s)
  | .rankTable b => .next (s.drainRanks b.toNat)

/-- A write of MGT_FLT_EPOCH: VALID and TAG of a drained bank. -/
def State.writeFltEpoch (s : State) (v : Nat) : State :=
  (fromTo 0 2).foldl (fun q b =>
    let x := q.fleet.bank b
    let tag := BitVec.ofNat 2 (fieldOf v (if b = 0 then 4 else 12) 2)
    if x.isDrained then
      let y : RankBank :=
        { valid := decide (fieldOf v (if b = 0 then 6 else 14) 1 = 1), tag := tag
          drained := decide (tag ≠ q.fleet.cur) && q.rankElapsed tag.toNat }
      { q with fleet := q.fleet.setBank b y }
    else q) s

/-- MGT_FLT_RT_DATA is written or read at BANK and INDEX, reserved bits as zero; INDEX advances with AINC, whether or not a write is dropped. -/
def State.rankAccess (s : State) (requester : Nat) (value : Option Word) (be : BitVec 4 := 0xF) : State :=
  let a := mgtReg 0xA01C
  let b := s.fld a 16 1
  let i := s.fld a 0 16
  let s1 := match value with
    | some v => if (s.fleet.bank b).isDrained then s.setRankWord b i (v &&& 0xFFE0FFF0#32) else s
    | none => s.out (.regData requester (mgtReg 0xA020) (enabledBytes be (s.rankWord b i)))
  if s.fld a 31 1 = 1 then s1.setFld a 0 16 (i + 1) else s1

/-! ## Sending and relaying (R218, R219) -/

/-- A packet of another class waits at the port that its route names. Where that port is down and adopted, the buddy sends it from there, so that
packets for one port keep their order (R218, R219). -/
def State.queueCtl (s : State) (n : Nat) (p : NPkt) : State := s.modNport n (fun x => { x with ctl := x.ctl ++ [p] })

def State.countDropped (s : State) : State := s.bump (mgtReg 0xA030) 1

/-- Ermond sends a packet to a rank (R218). -/
def State.sendRank (s : State) (cls r job flow off : Nat) (data : List (FlitWord × Bool)) : State :=
  match s.rankRoute r with
  | none => s.countDropped
  | some w =>
    if routeFenced w then s.countDropped
    else
      let n := routePort w
      let p : NPkt := { drank := r, job := job, flow := flow, path := routePath w, off := off, epoch := s.fleet.cur.toNat, cls := cls, data := data }
      if s.portOk n then (s.queueCtl n p).noteRankUse s.fleet.cur.toNat else s.countDropped

/-- An entry for a rank, in either bank, has FENCED set. -/
def State.rankFenced (s : State) (r : Nat) : Bool :=
  (fromTo 0 2).any (fun b => matchesRank (s.rankWord b r) r && routeFenced (s.rankWord b r).toNat)

/-- A buddy has adopted the port. -/
def State.adopted (s : State) (n : Nat) : Bool := match s.buddy n with | some b => (s.nport b).adopting | none => false

/-- A relay to a port goes: it is UP, or an adopting buddy covers it (R219). -/
def State.relays (s : State) (p : Nat) : Bool := s.portOk p && (decide ((s.nport p).st = .up) || s.adopted p)

/-- Relay of a packet for another rank (R219). (DEDUCED, assumption 48) -/
def State.relay (s : State) (p : NPkt) : State :=
  let h := pathHops p.path
  let rp1 := fieldOf p.path 9 5
  let fenced := s.rankFenced p.drank
  if !s.relays rp1 ∨ h = 0 ∨ h = 3 ∨ fenced then s.countDropped
  else
    let path := (h - 1) * 2 ^ 14 + fieldOf p.path 4 5 * 2 ^ 9
    ((s.queueCtl rp1 { p with path := path, seq := 0 }).noteRankUse p.epoch).bump (mgtReg 0xA02C) 1

/-! ## PLAN traffic at a port (R200 to R202, R217, R231, R232) -/

/-- PORT_HALT: the side stops and the conflict is recorded and reported. -/
def State.portHalt (s : State) (n : Nat) (ingress : Bool) (flow : Nat) : State :=
  let rec_ := 2 ^ 31 + bit ingress * 2 ^ 30 + 8 * 2 ^ 16 + flow
  let s1 := ((s.setReg (nbpReg n 0x20) (BitVec.ofNat 32 rec_)).setReg (nbpReg n 0x24) (BitVec.ofNat 32 s.beat.toNat)).setReg
    (nbpReg n 0x28) (BitVec.ofNat 32 (s.beat.toNat / 2 ^ 32))
  (s1.modNport n (fun x => if ingress then { x with haltIngress := true } else { x with haltEgress := true })).raise 0x21
    (n + bit ingress * 2 ^ 8 + 8 * 2 ^ 16 + flow * 2 ^ 32)

/-- Gate beat of the window that a port's list is in or comes to next. -/
def State.turnBeat (s : State) (p : OwnPort) : Option Nat :=
  let o := s.port p
  match o.next, o.cur with
  | some k, some r => ((s.curList p)[k]?).map (fun e => s.portGate p r e.gate.toNat)
  | _, _ => none

/-- A port that has adopted another serves both lists as one sequence of windows in ascending gate beat, its own first on equal beats
(R205). -/
def State.turnOf (s : State) (n src : Nat) : Bool :=
  let x := s.nport n
  if !x.adopting then src = n
  else match s.buddy n with
    | none => src = n
    | some b =>
      let own := s.turnBeat (.novbo (BitVec.ofNat 5 n))
      let other := s.turnBeat (.novbo (BitVec.ofNat 5 b))
      match own, other with
      | some g, some h => if g ≤ h then src = n else src = b
      | some _, none => src = n
      | none, _ => src = b

/-- The mesh packet at the head of an egress queue goes: its END packet counts as having left the port. -/
def State.dropEgress (s : State) (src : Nat) (pk : Packet) : State :=
  let p := OwnPort.novbo (BitVec.ofNat 5 src)
  let s1 : State := { s with intakeQ := smSet s.intakeQ (ownKey p) ((smGet s.intakeQ (ownKey p) []).drop 1) }
  if hLast pk.hdr then s1.endPacketLeft p 0 else s1

/-- The owner's entry of a port's list: its destination rank, and the job of its segment. -/
def State.ownerEntry (s : State) (p : OwnPort) : Option (Nat × Nat) :=
  let o := s.port p
  match o.st, o.cur with
  | .owned k, some r => ((s.curList p)[k]?).map (fun e => (e.drank.toNat, match s.findSeg r.seg with | some g => g.job | none => 0))
  | _, _ => none

/-- Port n carries the PLAN traffic of the egress `src`: its own while UP, in LOCKLOSS or, if it adopts, in HANDBACK; its buddy's while it adopts
it (R205, R208). -/
def State.carriesPlan (s : State) (n src : Nat) : Bool :=
  let x := s.nport n
  (src = n && (x.st = .up || x.st = .lockloss || (x.st = .handback && x.adopting))) || (x.adopting && s.buddy n = some src && carries x)

/-- It may send one now: in the turn of the egress, with none formed before, and after what a failed link left (R199, R205, R206, R209). -/
def State.servesPlan (s : State) (n src : Nat) : Bool :=
  let x := s.nport n
  s.carriesPlan n src && (if src = n then x.failBuf = [] else x.exch.got) && !x.plan.isSome && x.resend = [] && s.turnOf n src

/-- A packet that no window of the list will own goes, and counts for none. -/
def State.discardEgress (s : State) (src : Nat) : State :=
  let key := ownKey (.novbo (BitVec.ofNat 5 src))
  { s with intakeQ := smSet s.intakeQ key ((smGet s.intakeQ key []).drop 1) }

/-- The egress of port n takes the head of a mesh queue, its own or its buddy's while adopting: it forms a Novbo packet, discards a packet that a
fence stops, also where the port is halted, or carries no PLAN and nobody has adopted it, or halts on a route conflict. -/
def execEgressPlan (n src : BitVec 5) (s : State) : Res :=
  let k := n.toNat
  let x := s.nport k
  let p := OwnPort.novbo src
  let carried := s.carriesPlan k src.toNat
  let serves := s.servesPlan k src.toNat && !x.haltEgress
  let stands := src = n ∧ !carried ∧ !s.adopted k
  if !s.portOk k ∨ !(carried || decide stands) then .next s
  else match smGet s.intakeQ (ownKey p) [] with
    | [] => .next s
    | pk :: _ =>
      let flow := hFlow pk.hdr
      let fenced := s.fleet.job = .fenced
      match s.portVerdict p flow with
      | .wait => .next s
      | .conflict => .next (if fenced then s.discardEgress src.toNat else if carried ∧ !x.haltEgress then s.portHalt k false flow else s)
      | .forward =>
        match s.ownerEntry p with
        | none => .next s
        | some (dr, job) =>
          if fenced then .next (s.dropEgress src.toNat pk)
          else match s.rankRoute dr with
            | none => .next (if serves then s.portHalt k false flow else s)
            | some w =>
              if routeFenced w then .next ((s.dropEgress src.toNat pk).bump (mgtReg 0xA034) 1)
              else if !serves then .next s
              else if routePort w ≠ src.toNat ∨ pathHops (routePath w) ≠ 0 then .next (s.portHalt k false flow)
              else
                let q : NPkt :=
                  { drank := dr, job := job, flow := flow, path := routePath w, off := hDaddr pk.hdr / 32, last := hLast pk.hdr
                    sig := hHsig pk.hdr, epoch := s.fleet.cur.toNat, cls := 0, data := pk.data }
                let s1 := s.discardEgress src.toNat
                .next ((s1.setNport k { x with plan := some (q, pk, src.toNat) }).noteRankUse s.fleet.cur.toNat)

/-- The ingress entry of a flow at a port, in any loaded segment. -/
def State.ingressEntry (s : State) (n flow : Nat) : Option IngressEntry :=
  s.segs.findSome? (fun g => match g.ingress.find? (fun w => w.1 = n) with
    | some w => w.2.find? (fun e => e.flow = flow)
    | none => none)

/-- The edge router and input port at which a port injects a packet under an ingress entry (R201). -/
def ingressSite (n : Nat) (e : IngressEntry) : Nat × RPort :=
  if n < 9 then (if e.kind = 3 then e.dest % 64 else tx e.dest, .north)
  else (if e.kind = 3 then e.dest else 64 * ty e.dest, .west)

def State.injectIngress (s : State) (n : Nat) (e : IngressEntry) (p : NPkt) : State :=
  let site := ingressSite n e
  let hdr := mkHdr
    { cls := 0, kind := e.kind, epoch := s.fleet.cur.toNat, len := p.data.length, last := p.last, hsig := p.sig, htally := e.htally
      hinc := e.hinc, dmem := e.dmem, daddr := 32 * p.off, srck := 7, src := 0x50 + n, unit := e.unit
      dest := if e.kind = 3 then 0 else e.dest
      span := e.spanEnd, flow := p.flow }
  (s.freePkt n p).enterMesh site.1 site.2 hdr p.data

/-- The ingress of a port delivers its oldest accepted PLAN packet, when the edge router has room for it. (DESIGN CHOICE, assumption 25) -/
def execIngressPlan (n : BitVec 5) (s : State) : Res :=
  let k := n.toNat
  let x := s.nport k
  match x.pool.find? (fun p => p.cls = 0) with
  | none => .next s
  | some p =>
    if !s.portOk k then .next s
    else if s.fld (mgtReg 0xA024) k 1 = 1 then .next (s.freePkt k p)
    else if s.fleet.job = .fenced ∧ p.job = s.jobId then .next (s.freePkt k p)
    else if x.haltIngress then .next s
    else
      let b := s.buddy k
      let lent := match b with
        | some m => x.adopting || (s.nport m).waitMarker
        | none => false
      let own := s.ingressEntry k p.flow
      let theirs := if lent then b.bind (fun m => s.ingressEntry m p.flow) else none
      let bad := p.job ≠ s.jobId ∨ p.drank ≠ s.ownRank
      match own, theirs with
      | none, none => .next (s.portHalt k true p.flow)
      | some e, _ =>
        if bad then .next (s.portHalt k true p.flow)
        else if x.waitMarker ∧ carries x ∧ p.seq < 4096 then .next s
        else
          let site := ingressSite k e
          if p.data.length + 1 ≤ s.roomAt site.1 site.2 0 ∧ s.inputFree site.1 site.2 then .next (s.injectIngress k e p) else .next s
      | none, some e =>
        if bad then .next (s.portHalt k true p.flow)
        else if (b.map (fun m => let y := s.nport m; y.pool.any (fun q => q.cls = 0 && !(y.waitMarker && carries y && decide (q.seq < 4096))))).getD false then
          .next s
        else
          let site := ingressSite k e
          if p.data.length + 1 ≤ s.roomAt site.1 site.2 0 ∧ s.inputFree site.1 site.2 then .next (s.injectIngress k e p) else .next s

/-- A write of CLEAR: the held PLAN packets go, the record is cleared (R202). -/
def State.portHaltClear (s : State) (n : Nat) : State :=
  let x := s.nport n
  let s1 := if x.haltEgress then
      let q := smDel s.intakeQ (ownKey (.novbo (BitVec.ofNat 5 n)))
      { s with intakeQ := match s.buddy n with
          | some b => if x.adopting then smDel q (ownKey (.novbo (BitVec.ofNat 5 b))) else q
          | none => q }
    else s
  let s2 := if x.haltIngress then (x.pool.filter (fun p => p.cls = 0)).foldl (fun q p => q.freePkt n p) s1 else s1
  if x.haltEgress ∨ x.haltIngress then
    (((s2.setReg (nbpReg n 0x20) 0).setReg (nbpReg n 0x24) 0).setReg (nbpReg n 0x28) 0).modNport n (fun y => { y with haltEgress := false, haltIngress := false })
  else s

def execPortHaltClear (n : BitVec 5) (s : State) : Res := .next (if s.portOk n.toNat ∧ s.writable 3 n.toNat then s.portHaltClear n.toNat else s)

/-! ## The other classes at an ingress (R208, R215, R219, R293) -/

/-- Message in a SYNC payload (R225). -/
def syncMsg (p : NPkt) : SyncMsg :=
  { job := p.job, op := pktField p 0 8, reason := pktField p 8 8, srank := pktField p 32 20, beat := pktField p 64 48
    tag := pktField p 128 32, orank := pktField p 160 20, arg := pktField p 192 64 }

/-- The oldest accepted packet of class SYNC, MGMT or BULK, other than the marker: delivered to Ermond, relayed or discarded. -/
def execSyncMgmtBulkIngress (n : BitVec 5) (s : State) : Res :=
  let k := n.toNat
  match (s.nport k).pool.find? (fun p => p.cls ≠ 0 && !isMarker p) with
  | none => .next s
  | some p =>
    let s1 := s.freePkt k p
    let held := s.fleet.job = .fenced ∧ p.job = s.jobId
    if !s.portOk k then .next s
    else if p.cls ≠ 3 ∧ (s.fld (mgtReg 0xA024) k 1 = 1 ∨ held) then .next s1
    else
      let jobOk := (p.cls = 1 ∧ s.fleet.job ≠ .none ∧ p.job = s.jobId) ∨ p.cls = 3 ∨ (p.cls = 4 ∧ (p.job = s.jobId ∨ p.job = 0))
      if !decide jobOk then .next s1.countDropped
      else if p.drank ≠ s.ownRank then .next (s1.relay p)
      else if p.cls = 1 then .next { s1 with fleet := { s1.fleet with syncIn := s1.fleet.syncIn ++ [(syncMsg p, p.acc)] } }
      else if p.cls = 3 then
        if p.flow = 0 ∧ p.data.length = 1 then .next { s1 with fleet := { s1.fleet with mgmtIn := s1.fleet.mgmtIn ++ [p] } }
        else .next s1.countDropped
      else .next { s1 with fleet := { s1.fleet with bulkIn := s1.fleet.bulkIn ++ [p] } }

/-- The buddy's ingress comes to the HANDBACK marker once it has delivered the adopted packets before it; the returned port then delivers
its own flows (R208). -/
def execHandbackMarkerReceive (n : BitVec 5) (s : State) : Res :=
  let k := n.toNat
  let x := s.nport k
  match x.pool.find? isMarker, s.buddy k with
  | some p, some b =>
    let before := x.pool.takeWhile (fun q => !isMarker q)
    if before.any (fun q => q.cls = 0 && (s.ingressEntry b q.flow).isSome) then .next s
    else .next ((s.freePkt k p).modNport b (fun y => { y with waitMarker := false }))
  | some p, none => .next (s.freePkt k p)
  | none, _ => .next s

/-! ## Job states (R224 to R228) -/

def jobCode : JobSt → Nat
  | .none => 0 | .setup => 1 | .preparing => 2 | .prepared => 3 | .committed => 4 | .running => 5 | .fenced => 6 | .aborted => 7

/-- The job enters a state: MGT_FLT_JOB shows it, and JOB_STATE reports COMMITTED, RUNNING, ABORTED and FENCED. -/
def State.setJob (s : State) (st : JobSt) (reason orank : Nat) : State :=
  let a := mgtReg 0xA004
  let s1 : State := { (s.setFld a 29 3 (jobCode st)).setFld a 16 8 reason with fleet := { s.fleet with job := st } }
  if st = .committed ∨ st = .running ∨ st = .aborted ∨ st = .fenced then
    s1.raise 0x30 (s.jobId + jobCode st * 2 ^ 16 + reason * 2 ^ 24 + orank * 2 ^ 32)
  else s1

/-- The job ends: its ID reads 0 and the set-up record is no longer held; segments stay loaded. -/
def State.clearJob (s : State) : State :=
  let s1 := ((s.setReg (mgtReg 0xA004) 0).setReg (mgtReg 0xA000) 0)
  { s1 with fleet := { s1.fleet with job := .none, setup := none, acks := [] } }

def syncFlit (m : SyncMsg) : FlitWord :=
  BitVec.ofNat 256 (m.op + m.reason * 2 ^ 8 + m.srank * 2 ^ 32 + m.beat * 2 ^ 64 + m.tag * 2 ^ 128 + m.orank * 2 ^ 160 + m.arg * 2 ^ 192)

/-- Sends a START_JOB message or an ACTION to each of some ranks. -/
def State.sendSync (s : State) (tos : List Nat) (m : SyncMsg) : State :=
  tos.foldl (fun q r => q.sendRank 1 r m.job 0 0 [(syncFlit m, false)]) s

def State.startMsg (s : State) (op reason orank : Nat) : SyncMsg :=
  { job := s.jobId, op := op, reason := reason, srank := s.ownRank, beat := s.tStart, tag := (s.reg (mgtReg 0xA010)).toNat
    orank := orank, arg := 0 }

def State.countDup (s : State) : State := s.bump (mgtReg 0xA038) 1

/-- The oldest message of one operation, taken from those delivered, with the beat in which it was accepted. -/
def State.takeSync (s : State) (op : Nat) : Option ((SyncMsg × Nat) × State) :=
  match s.fleet.syncIn.find? (fun m => m.1.op = op) with
  | some m => some (m, { s with fleet := { s.fleet with syncIn := s.fleet.syncIn.erase m } })
  | none => none

/-- A message of one operation from a rank has been accepted by a beat, though Ermond has not yet taken it: it is in Ermond's hands or in the pool of
a port, and no later timer goes before it (R9, R35, R36). -/
def State.syncCame (s : State) (op srank beat : Nat) : Bool :=
  let is (m : SyncMsg) (at_ : Nat) : Bool := m.op = op && m.srank = srank && decide (at_ ≤ beat)
  s.fleet.syncIn.any (fun m => is m.1 m.2) ||
    (fromTo 0 s.nPorts).any (fun n => s.fld (mgtReg 0xA024) n 1 = 0 && (s.nport n).pool.any (fun p =>
      p.cls = 1 && p.job = s.jobId && p.drank = s.ownRank && is (syncMsg p) p.acc))

/-- Children and secondary children. -/
def SetupRec.below (r : SetupRec) : List Nat := r.children ++ r.schildren.filter (fun c => !r.children.contains c)

/-- DEDUCED, assumption 51. -/
def State.completeStart (s : State) (status result : Nat) : State :=
  match s.host.cmds.find? (fun c => c.opcode = 0x11 ∧ c.started) with
  | some c => s.complete c.seq status result
  | none => s

/-- The module aborts the start with a reason and tells the ranks below it. -/
def State.abortJob (s : State) (reason orank : Nat) (tell : Bool) : State :=
  let s1 := if tell then match s.fleet.setup with
      | some r => s.sendSync r.below (s.startMsg 5 reason 0)
      | none => s
    else s
  (s1.setJob .aborted reason orank).completeStart 0x0022 (reason + orank * 2 ^ 32)

/-- COMMITTED: COMMIT goes to every child and secondary child. -/
def State.commitJob (s : State) : State :=
  let s1 := match s.fleet.setup with
    | some r => s.sendSync r.below (s.startMsg 4 0 0)
    | none => s
  (s1.setJob .committed 0 0).completeStart 0 0

/-- First reason of R226 for which a PREPARE is refused; 0 for none. (DEDUCED, assumption 49) -/
def State.prepareCheck (s : State) (r : SetupRec) (m : SyncMsg) : Nat :=
  let ranks := (if r.root then [] else [r.parent, r.sparent]) ++ r.below
  let routes := ranks.map s.rankRoute
  let fenced (w : Option Nat) : Bool := match w with | some v => routeFenced v | none => false
  if m.tag ≠ (s.reg (mgtReg 0xA010)).toNat ∨ m.job ≠ s.jobId ∨ m.beat ≠ s.tStart then 3
  else if s.fleet.job = .committed ∨ s.fleet.job = .running ∨ s.fleet.job = .fenced then 7
  else if r.segs.any (fun g => (s.findSeg (BitVec.ofNat 16 g)).isNone) ∨ s.fld (genReg 4) 28 1 = 0 then 5
  else if routes.any (fun w => w.isNone) then 6
  else if routes.any fenced ∨ fenced (s.rankRoute s.ownRank) then 4
  else 0

/-- DEDUCED, assumption 49. -/
def execPrepare (s : State) : Res :=
  match s.takeSync 1, s.fleet.setup with
  | none, _ => .next s
  | some (_, s1), none => .next s1.countDup
  | some ((m, _), s1), some r =>
    let why := s1.prepareCheck r m
    match s1.fleet.job with
    | .setup =>
      if why ≠ 0 then .next ((s1.sendSync [r.parent] (s1.startMsg 3 why s1.ownRank)).setJob .aborted why s1.ownRank)
      else if r.children = [] then .next ((s1.sendSync [r.parent] (s1.startMsg 2 0 0)).setJob .prepared 0 0)
      else
        let s2 := s1.sendSync r.children (s1.startMsg 1 0 0)
        .next (({ s2 with fleet := { s2.fleet with acks := [] } } : State).setJob .preparing 0 0)
    | .committed | .running | .fenced => .next (s1.sendSync [r.parent] (s1.startMsg 3 why s1.ownRank))
    | _ => .next s1.countDup

def execStartAck (s : State) : Res :=
  match s.takeSync 2, s.fleet.setup with
  | none, _ => .next s
  | some (_, s1), none => .next s1.countDup
  | some ((m, at_), s1), some r =>
    if s1.fleet.job ≠ .preparing ∨ !r.children.contains m.srank ∨ s1.fleet.acks.contains m.srank then .next s1.countDup
    else
      let acks := s1.fleet.acks ++ [m.srank]
      let s2 : State := { s1 with fleet := { s1.fleet with acks := acks } }
      if r.children.all (fun c => acks.contains c) then
        if r.root then
          if at_ + 199 ≤ s2.tStart then .next s2.commitJob else .next (s2.abortJob 8 0 true)
        else .next ((s2.sendSync [r.parent] (s2.startMsg 2 0 0)).setJob .prepared 0 0)
      else .next s2

def execStartNack (s : State) : Res :=
  match s.takeSync 3, s.fleet.setup with
  | none, _ => .next s
  | some (_, s1), none => .next s1.countDup
  | some ((m, _), s1), some r =>
    if s1.fleet.job ≠ .preparing ∨ !r.children.contains m.srank then .next s1.countDup
    else if r.root then .next (s1.abortJob m.reason m.orank true)
    else .next ((s1.sendSync [r.parent] (s1.startMsg 3 m.reason m.orank)).setJob .aborted m.reason m.orank)

/-- A COMMIT of a parent commits a PREPARED job; at or after T_START − 99 the job has aborted with NO_COMMIT (R227, R228). -/
def execCommit (s : State) : Res :=
  match s.takeSync 4, s.fleet.setup with
  | none, _ => .next s
  | some (_, s1), none => .next s1.countDup
  | some ((m, at_), s1), some r =>
    if s1.fleet.job = .prepared ∧ (m.srank = r.parent ∨ m.srank = r.sparent) then
      if s1.tStart ≤ at_ + 99 ∧ !s1.tm.pre then .next (s1.abortJob 1 0 false).countDup else .next s1.commitJob
    else .next s1.countDup

def execAbort (s : State) : Res :=
  match s.takeSync 5, s.fleet.setup with
  | none, _ => .next s
  | some (_, s1), none => .next s1.countDup
  | some (_, s1), some _ => match s1.fleet.job with
    | .setup | .preparing | .prepared => .next (s1.abortJob 2 0 true)
    | _ => .next s1.countDup

/-- Beat T_START − 199 begins at the root, and not every child's ACK has come by its first cycle. -/
def execNoAck (s : State) : Res :=
  match s.fleet.setup with
  | none => .next s
  | some r =>
    let all_ := r.children.all (fun c => s.fleet.acks.contains c || s.syncCame 2 c (s.tStart - 199))
    if r.root ∧ s.fleet.job = .preparing ∧ s.tStart ≤ s.beat.toNat + 199 ∧ !s.tm.pre ∧ !all_ then .next (s.abortJob 8 0 true) else .next s

/-- Beat T_START − 99 begins with no COMMIT held: none of either parent has been accepted by the end of beat T_START − 100. -/
def execAbortedNoCommit (s : State) : Res :=
  let came := match s.fleet.setup with
    | some r => s.fleet.job = .prepared && (s.syncCame 4 r.parent (s.tStart - 100) || s.syncCame 4 r.sparent (s.tStart - 100))
    | none => false
  if (s.fleet.job = .preparing ∨ s.fleet.job = .prepared) ∧ s.tStart ≤ s.beat.toNat + 99 ∧ !s.tm.pre ∧ !came then .next (s.abortJob 1 0 false)
  else .next s

/-! ## Actions (R229 to R233) -/

/-- An action accepted in a beat waits for its own, or is refused, counted and reported. (DEDUCED, assumption 50) -/
def State.postAction (s : State) (accepted : Nat) (a : Action) : State :=
  let cause := if a.beat < accepted + 2 then 1 else if 16 ≤ s.fleet.actions.length then 2 else if a.kind = 0 ∨ 5 < a.kind then 3 else 0
  if cause = 0 then { s with fleet := { s.fleet with actions := s.fleet.actions ++ [a] } }
  else
    let s1 := (s.bumpF (mgtReg 0xA028) 0 16 1).raise 0x31 (a.kind + cause * 2 ^ 8 + a.beat * 2 ^ 64)
    match a.cmd with
    | some c => s1.complete c 0x0023 0
    | none => s1

/-- The action that takes effect next: the earliest beat, then the lowest kind, once that beat has begun. -/
def State.dueAction (s : State) : Option Action :=
  let first := s.fleet.actions.foldl (fun (b : Option Action) a => match b with
    | none => some a
    | some c => if a.beat < c.beat ∨ (a.beat = c.beat ∧ a.kind < c.kind) then some a else b) none
  match first with
  | some a => if s.gateOpen a.beat then some a else none
  | none => none

/-- Takes the due action if it is of a kind; its command completes as it takes effect. -/
def State.takeAction (s : State) (kind : Nat) (f : Action → State → State) : Res :=
  match s.dueAction with
  | none => .next s
  | some a =>
    if a.kind ≠ kind then .next s
    else
      let s1 := f a { s with fleet := { s.fleet with actions := s.fleet.actions.erase a } }
      .next (match a.cmd with | some c => s1.complete c 0 0 | none => s1)

/-- The switch of route epoch: mesh and rank table together (R140, R220). A bank whose tag becomes current is not drained; a rank table bank that
stops being current is, where its count has elapsed. HANDBACK ports keep the first switch that was ordered after their probation (R208). -/
def State.switchEpoch (s : State) (a : Action) : State :=
  let e : BitVec 2 := BitVec.ofNat 2 a.arg
  let g (b : RouteBank) : RouteBank := if b.valid ∧ b.tag = e then { b with drained := false } else b
  let h (b : RankBank) : RankBank :=
    if b.valid ∧ b.tag = e then { b with drained := false }
    else if b.valid ∧ s.rankElapsed b.tag.toNat then { b with drained := true }
    else b
  let s1 := (fromTo 0 s.nClusters).foldl (fun q c => q.modCluster c (fun x => { x with epoch := e, epochAt := s.tm.beats })) s
  { s1 with
    routers := s1.routers.map (fun r => (r.1, { r.2 with bank0 := g r.2.bank0, bank1 := g r.2.bank1 }))
    fleet := { s1.fleet with cur := e, bank0 := h s1.fleet.bank0, bank1 := h s1.fleet.bank1 }
    nports := s1.nports.map (fun p =>
      if p.2.before.contains a then (p.1, { p.2 with before := p.2.before.erase a })
      else if p.2.st = .handback ∧ p.2.switched = none then (p.1, { p.2 with switched := some s.beat.toNat })
      else p) }

def execEpochSwitch (s : State) : Res := s.takeAction 1 (fun a q => q.switchEpoch a)

/-- PLAN packets that an egress had formed and not sent come back to it, and meet the fence there (R231). -/
def State.recallPlan (s : State) : State := (fromTo 0 s.nPorts).foldl State.unformPlan s

/-- FENCED of the entries for a rank in both banks. -/
def State.markRank (s : State) (r : Nat) (fenced : Bool) : State :=
  (fromTo 0 2).foldl (fun q b =>
    let w := q.rankWord b r
    if matchesRank w r then q.setRankWord b r (BitVec.ofNat 32 (withField w.toNat 30 1 (bit fenced))) else q) s

/-- Packets of other classes for a fenced rank that wait to be sent or relayed are discarded, and counted (R218, R219, R231). -/
def State.dropQueued (s : State) (r : Nat) : State :=
  let gone (p : NPkt) : Bool := p.cls ≠ 2 && p.drank = r && !isMarker p && !isLbg p
  (fromTo 0 s.nPorts).foldl (fun q n =>
    let l := (q.nport n).ctl.filter gone
    if l = [] then q
    else (q.modNport n (fun x => { x with ctl := x.ctl.filter (fun p => !gone p) })).bump (mgtReg 0xA030) l.length) s

def execFenceRank (s : State) : Res :=
  s.takeAction 2 (fun a q =>
    let r := a.arg % 2 ^ 20
    let q1 := (q.recallPlan.markRank r true).dropQueued r
    if r = q.ownRank ∧ q.fleet.job = .running then q1.setJob .fenced 0 0 else q1)

def execUnfenceRank (s : State) : Res :=
  s.takeAction 3 (fun a q =>
    let r := a.arg % 2 ^ 20
    let q1 := q.markRank r false
    if r = q.ownRank ∧ q.fleet.job = .fenced then q1.setJob .running 0 0 else q1)

/-- DEDUCED, assumption 51. -/
def execJobEnd (s : State) : Res :=
  s.takeAction 5 (fun _ q => match q.fleet.job with
    | .running | .fenced | .aborted => q.clearJob
    | _ => q)

end Sys2Proof.Machine
end

