-- ==== Sys2Proof/Machine/Command.lean ====
section
/-!
DEFINITION. Commands before they take effect: the classes, objects and payload checks of every opcode, and the order in which commands
on one object take effect (R281 to R290, R302, R317, R321, R323, R342).
-/

namespace Sys2Proof.Machine

open Sys2Proof

/-! ## Status codes (R291, 15, 16, 17) -/

def stBadDesc : Nat := 0x0001
def stBadOpcode : Nat := 0x0002
def stUnitAbsent : Nat := 0x0003
def stSuperseded : Nat := 0x0004
def stNotPermitted : Nat := 0x0005
def stHostError : Nat := 0x0006
def stDeviceError : Nat := 0x0007
def stAbortedReset : Nat := 0x0008
def stTileHalted : Nat := 0x0009
def stReinstateFailed : Nat := 0x000A
def stSegNotLoaded : Nat := 0x000B
def stSlotBusy : Nat := 0x0015

/-! ## Payloads -/

/-- Little-endian field of n bytes at an offset of a byte list. -/
def field (bs : List Byte) (off n : Nat) : Nat := leNat ((bs.drop off).take n)

/-- Every byte outside the named ranges is zero. -/
def zeroOutside (bs : List Byte) (named : List (Nat × Nat)) : Bool :=
  (bs.zipIdx).all (fun b => b.1 = 0 || named.any (fun r => decide (r.1 ≤ b.2) && decide (b.2 < r.1 + r.2)))

def aligned (bs : List Byte) (off n : Nat) : Bool := field bs off 8 % n = 0

/-- A device range that lies in one vault or one LPX half, outside the journal; a range in no unit is left to the presence check. -/
def oneUnit (a n : Nat) : Bool :=
  let e := a + n - 1
  let lp (x : Nat) : Bool := decide (lpxBase ≤ x) && decide (x < lpxEnd)
  if a / vaultSize < 64 then a / vaultSize = e / vaultSize && !(inJournal a || inJournal e || (decide (a < 0x2FC00000) && decide (0x30000000 ≤ e)))
  else if lp a then lp e && lpHalf a = lpHalf e
  else !(lp e)

def knownOp (op : Nat) : Bool :=
  decide (op ≤ 4) || (decide (0x10 ≤ op) && decide (op ≤ 0x13)) || (decide (0x20 ≤ op) && decide (op ≤ 0x23)) ||
    (decide (0x30 ≤ op) && decide (op ≤ 0x37)) || (decide (0x40 ≤ op) && decide (op ≤ 0x43))

/-- Indexes of the domains of a KIND (R340). -/
def domainCount (kind : Nat) : Nat :=
  if kind = 1 ∨ kind = 2 then 64 else if kind = 3 then 18 else if kind = 4 then 32 else if kind = 6 then 2 else 1

/-- No reserved byte of the payload is set and no value lies outside its range; `b` is the acceptance beat. -/
def payloadOk (op b : Nat) (p : List Byte) : Bool :=
  let z := zeroOutside p
  let f := field p
  let beatOk := decide (f 8 8 < 2 ^ 48)
  let late := decide (f 8 8 < b + 2)
  let handle := decide (f 0 2 ≤ 16383)
  let model := decide (f 0 1 < 8)
  match op with
  | 0x00 => z []
  | 0x01 => z [(0, 21)] && aligned p 0 64 && aligned p 8 64 && decide (1 ≤ f 16 4) && decide (f 16 4 ≤ 16777216) && decide (f 20 1 ≤ 1) &&
      oneUnit (f 8 8) (64 * f 16 4)
  | 0x02 => z [(0, 16)]
  | 0x03 => z [(0, 3)]
  | 0x04 => z [(0, 4), (8, 12), (0x18, 10)] && decide (1 ≤ f 2 2) && beatOk && decide (f 0x20 2 ≤ 4096)
  | 0x10 => z [(0, 8)] && aligned p 0 64
  | 0x11 => z []
  | 0x12 => z [(0, 2), (8, 16)] && decide (f 1 1 ≤ 1) && beatOk
  | 0x13 => z []
  | 0x20 => z [(0, 2), (8, 8)] && decide (f 0 2 < 4096) && beatOk && !late
  | 0x21 => z [(0, 2), (8, 8)] && decide (f 0 2 < 4096) && beatOk
  | 0x22 => z [(0, 3), (8, 8)] && decide (1 ≤ f 0 1) && decide (f 0 1 ≤ 7) && decide (f 1 1 < domainCount (f 0 1)) && (f 2 1 = 1 || f 2 1 = 2) &&
      beatOk && !late && (f 0 1 ≠ 7 || f 2 1 = 1)
  | 0x23 => z [(0, 4)]
  | 0x30 => z [(0, 2), (8, 8)] && handle && aligned p 8 64
  | 0x31 => z [(0, 2)] && handle
  | 0x32 => z [(0, 2)] && handle
  | 0x33 => z [(0, 3), (8, 12)] && handle && decide (f 2 1 < 4) && beatOk
  | 0x34 => z [(0, 2), (4, 4)] && handle
  | 0x35 => z [(0, 3), (8, 16)] && handle && decide (f 2 1 < 2) && aligned p 8 64
  | 0x36 => z [(0, 2), (8, 16)] && handle && aligned p 8 64
  | 0x37 => z [(0, 14), (0x10, 8)] && model && decide (f 1 1 < 2) &&
      (f 1 1 = 1 || (decide (1 ≤ f 0xC 2) && decide (f 0xC 2 ≤ 16384))) && aligned p 0x10 0x10000
  | 0x40 => z [(0, 3), (4, 16), (0x18, 24)] && model && decide (f 1 1 ≤ 2) && decide (f 2 1 < 2) && decide (f 4 4 < 2 ^ 20) &&
      aligned p 8 64 && aligned p 0x20 64
  | 0x41 => z [(0, 1)] && model
  | 0x42 => z [(0, 3), (4, 16), (0x18, 8)] && model && decide (f 1 1 ≤ 2) && decide (f 2 1 < 4) && decide (f 4 4 < 2 ^ 20) && aligned p 8 64
  | 0x43 => z (if f 1 1 = 1 then [(0, 2), (8, 8)] else [(0, 2)]) && model && (f 1 1 = 1 || f 1 1 = 2)
  | _ => true

/-! ## Classes and objects (R285, R286, R288) -/

/-- 1 POWER, 2 RESET, 3 FENCE; 0 none. -/
def cmdClass (op : Nat) (p : List Byte) : Nat :=
  match op with
  | 0x23 => 1
  | 0x22 => 2
  | 0x20 => 3
  | 0x21 => 3
  | 0x12 => if field p 0 1 = 2 ∨ field p 0 1 = 3 then 3 else 0
  | _ => 0

/-- Objects: a kind with the first and last of a range of numbers. Kinds: 0 tile, 1 domain, 2 segment slot, 3 segment, 4 rank, 5 request,
6 model, 7 power settings, 8 job, 9 device memory, 10 key slot. -/
abbrev Obj := Nat × Nat × Nat

/-- DEDUCED, assumption 54. -/
def meets (a b : Obj) : Bool := a.1 = b.1 && decide (a.2.1 ≤ b.2.2) && decide (b.2.1 ≤ a.2.2)

/-- Segment ID and slot that the image of a SEG_LOAD names. -/
def State.imageOf (s : State) (p : List Byte) : Nat × Nat := (s.hostNat (field p 0 8 + 0x10) 2, s.hostNat (field p 0 8 + 0x16) 1)

/-- The slot that a segment names: that of the last incomplete SEG_LOAD before `seq` that will fill it, else the one that holds it. -/
def State.slotNamed (s : State) (seq seg : Nat) : List Obj :=
  match (s.host.cmds.filter (fun c => decide (c.seq < seq) && c.opcode = 2 && (s.imageOf c.payload).1 = seg)).getLast? with
  | some c => let k := (s.imageOf c.payload).2; [(2, k, k)]
  | none => match s.findSeg (BitVec.ofNat 16 seg) with
    | some g => [(2, g.slot.toNat, g.slot.toNat)]
    | none => []

/-- DEDUCED, assumption 54. -/
def State.objectsOf (s : State) (seq op : Nat) (p : List Byte) : List Obj :=
  let one (k n : Nat) : List Obj := [(k, n, n)]
  let f := field p
  match op with
  | 0x01 => [(9, f 8 8, f 8 8 + 64 * f 16 4 - 1)]
  | 0x02 => let i := s.imageOf p; [(2, i.2, i.2), (3, i.1, i.1)]
  | 0x03 => one 2 (f 2 1) ++ one 3 (f 0 2) ++ s.slotNamed seq (f 0 2)
  | 0x04 => one 3 (f 0 2) ++ s.slotNamed seq (f 0 2)
  | 0x10 => one 8 0
  | 0x11 => one 8 0
  | 0x12 => if f 0 1 = 2 ∨ f 0 1 = 3 then one 4 (f 0x10 8 % 2 ^ 20) else one 8 0
  | 0x13 => one 8 0
  | 0x20 => one 0 (f 0 2)
  | 0x21 => one 0 (f 0 2)
  | 0x22 => one 1 (domKey (f 0 1) (f 1 1))
  | 0x23 => one 7 0
  | 0x37 => one 6 (f 0 1)
  | 0x40 => one 6 (f 0 1)
  | 0x41 => one 6 (f 0 1)
  | 0x42 => one 6 (f 0 1)
  | 0x43 => one 10 (f 0 1)
  | _ => if 0x30 ≤ op ∧ op ≤ 0x36 then one 5 (f 0 2) else []

/-- A command that has not completed still stands before a later one on the same object: it has not taken effect, or its effect is its
completion (a copy, a load, a fence of a tile, a context transfer), or it is a REPLAY, which later commands on its slot wait out (R285). -/
def Cmd.pending (c : Cmd) : Bool :=
  !c.started || c.opcode = 1 || c.opcode = 2 || c.opcode = 4 || c.opcode = 0x20 || c.opcode = 0x35 || c.opcode = 0x36 || c.opcode = 0x43

/-- DEDUCED, assumption 54. -/
def State.blocked (s : State) (c : Cmd) : Bool :=
  let os := s.objectsOf c.seq c.opcode c.payload
  s.host.cmds.any (fun d => decide (d.seq < c.seq) && d.pending &&
    (s.objectsOf d.seq d.opcode d.payload).any (fun a => os.any (meets a)))

/-- The accepted command of an opcode that is to take effect now: found, not begun, and behind no earlier command on its objects. (DEDUCED, assumption 54) -/
def State.cmdReady (s : State) (seq opcode : Nat) : Option Cmd :=
  match s.findCmd seq with
  | some c => if c.opcode = opcode ∧ !c.started ∧ !s.blocked c then some c else none
  | none => none

/-- A command row: it runs f once the command is ready, and changes nothing before. -/
def State.runCmd (s : State) (seq : Dword) (opcode : Nat) (f : Cmd → State) : Res :=
  match s.cmdReady seq.toNat opcode with
  | some c => .next (f c)
  | none => .next s

end Sys2Proof.Machine
end

