-- ==== Sys2Proof/Machine/Host.lean ====
section
/-!
DEFINITION. The host interface: doorbells, rings, the acceptance round and the journal, completion and event entries, MSI-X, management
orders (R279 to R299).
-/

namespace Sys2Proof.Machine

open Sys2Proof

/-- MCTP over I3C answers: from FIRMWARE on, while the target is enabled (R348, R390). -/
def State.mctpUp (s : State) : Bool := s.awake && decide (4 ≤ s.boot.stages) && s.fld (mgtReg 0x14) 31 1 = 1

/-! ## Rings (R279 to R282) -/

def sqReg (b o : Nat) : Nat := hifReg (0x1000 + 0x10 * b + o)

def State.ringSize (s : State) (cfg : Nat) : Nat := 2 ^ s.fld cfg 0 5
def State.ringOn (s : State) (cfg : Nat) : Bool := s.fld cfg 31 1 = 1
def State.sq (s : State) (b : Nat) : SqState := smGet s.host.sq b { dseq := 0, tail := 0 }
def State.setSq (s : State) (b : Nat) (x : SqState) : State := { s with host := { s.host with sq := smSet s.host.sq b x } }

/-- HEAD of a submission ring: DSEQ mod size. -/
def State.sqHead (s : State) (b : Nat) : Nat := (s.sq b).dseq % s.ringSize (sqReg b 8)

def State.pair (s : State) (a : Nat) : Nat := (s.reg a).toNat + (s.reg (a + 4)).toNat * 2 ^ 32

/-- A memory request of the host that the function does not serve is logged by AER: its status, and the header of the first one (R274, R277, R370). -/
def State.logUnsupported (s : State) (r : LoggedReq) : State :=
  let p := s.host.pcie
  { s with host := { s.host with pcie := { p with unsupported := true, header := if p.unsupported then p.header else some r } } }

/-- A write of the host through BAR4: dropped before full ready, not served in D3hot, in which AER logs it (R274, R278). -/
def State.hostWrites (s : State) (o : Nat) (f : State) : State :=
  if !s.awake then s else if !s.fnServes 0 then s.logUnsupported ⟨4, o, 1, true⟩ else if !s.ready then s else f

def State.doorbellError (s : State) : State := s.setBit (hifReg 4) 31

/-- DEDUCED, assumption 53. -/
def execSubmissionDoorbell (b : BitVec 6) (value : Word) (s : State) : Res :=
  let k := b.toNat
  .next (s.hostWrites (0x1000 * k)
    (if !s.ringOn (sqReg k 8) then s
     else if s.ringSize (sqReg k 8) ≤ value.toNat then s.doorbellError
     else s.setSq k { s.sq k with tail := value.toNat }))

/-- A consumer doorbell: slots up to the index are released, if the device has written them. -/
def releaseSlots (size value : Nat) (r : PRing) : Option PRing :=
  let cons := (r.prod + size - r.used) % size
  let k := (value + size - cons) % size
  if value < size ∧ k ≤ r.used then some { r with used := r.used - k } else none

def execCompletionDoorbell (value : Word) (s : State) : Res :=
  .next (s.hostWrites 0x40000
    (if !s.ringOn (hifReg 0x18) then s
     else match releaseSlots (s.ringSize (hifReg 0x18)) value.toNat s.host.cq with
      | some r => { s with host := { s.host with cq := r } }
      | none => s.doorbellError))

def execEventDoorbell (value : Word) (s : State) : Res :=
  .next (s.hostWrites 0x41000
    (if !s.ringOn (hifReg 0x28) then s
     else match releaseSlots (s.ringSize (hifReg 0x28)) value.toNat s.host.eq with
      | some r => { s with host := { s.host with eq := r } }
      | none => s.doorbellError))

/-- The stored value of a ring's CFG: SIZE_LOG2 is taken only while the ring is disabled. -/
def State.ringCfg (s : State) (cfg v : Nat) : Nat :=
  let size := v % 32
  let norm := if size < 6 ∨ 16 < size then 6 else size
  (if s.ringOn cfg then s.fld cfg 0 5 else norm) + fieldOf v 31 1 * 2 ^ 31

/-- A write of a ring's CFG: ring 0–63, 64 the completion ring, 65 the event ring. Enabling sets the index to 0 and PHASE to 1; disabling a
submission ring discards its unaccepted descriptors. -/
def State.writeRing (s : State) (ring v : Nat) : State :=
  let cfg := if ring < 64 then sqReg ring 8 else if ring = 64 then hifReg 0x18 else hifReg 0x28
  let was := s.ringOn cfg
  let on := fieldOf v 31 1 = 1
  let head := s.sqHead ring
  let s1 := s.setReg cfg (BitVec.ofNat 32 (s.ringCfg cfg v))
  if on ∧ !was then
    if ring < 64 then s1.setSq ring { dseq := 0, tail := 0 }
    else if ring = 64 then { s1 with host := { s1.host with cq := PRing.reset } }
    else { s1 with host := { s1.host with eq := PRing.reset } }
  else if !decide on ∧ was ∧ ring < 64 then s1.setSq ring { s.sq ring with tail := head }
  else s1

def execRingEnableWrite (ring : BitVec 7) (value : Word) (s : State) : Res :=
  .next (if s.reaches ∧ ring.toNat < 66 then s.writeRing ring.toNat value.toNat else s)

/-! ## Acceptance (R283 to R287, R295, R296) -/

/-- CHAIN of the next entry: over the chain before, bytes 0x00 to 0x1F of the entry, and the descriptor. -/
def chainOf (prev : BitVec 128) (head desc : List Byte) : BitVec 128 :=
  BitVec.ofNat 128 (leNat (shake256 16 (leBytes 16 prev.toNat ++ head ++ desc)))

/-- Bytes 0x00 to 0x1F of a journal entry. -/
def entryHead (seq ring op dseq beat tag : Nat) : List Byte :=
  leBytes 8 seq ++ [BitVec.ofNat 8 ring, 0] ++ leBytes 2 op ++ leBytes 4 dseq ++ leBytes 8 beat ++ leBytes 8 tag

/-- What refuses a command at its acceptance, 0 for nothing: an unknown opcode, one not permitted on its path, a malformed descriptor, a
management order of the same round on the same object. (DEDUCED, assumption 53) -/
def State.refusal (s : State) (seq ring : Nat) (desc : List Byte) : Nat :=
  let op := field desc 0 2
  let p := desc.drop 16
  let cls := cmdClass op p
  if !knownOp op then stBadOpcode
  else if ring = 0xFE ∧ op ≠ 0 ∧ cls = 0 then stNotPermitted
  else if ring < 64 ∧ op = 0x22 ∧ field p 0 1 = 7 then stNotPermitted
  else if field desc 2 1 > 1 ∨ field desc 3 5 ≠ 0 ∨ !payloadOk op s.beat.toNat p then stBadDesc
  else
    let os := s.objectsOf seq op p
    if ring < 64 ∧ cls ≠ 0 ∧ s.host.orderNow.any (fun o => o.1 = s.beat.toNat && o.2.1 = cls && o.2.2.any (fun a => os.any (meets a))) then stSuperseded
    else 0

/-- One command is accepted: numbered, journalled, and completed at once if it is refused. -/
def State.accept (s : State) (ring dseq : Nat) (desc : List Byte) (readErr : Bool) : State :=
  let seq := s.host.next
  let op := field desc 0 2
  let tag := if ring = 0xFC then 0 else field desc 8 8
  let head := entryHead seq ring op dseq s.beat.toNat tag
  let chain := chainOf s.host.chain head desc
  let why := if readErr then stHostError else s.refusal seq ring desc
  let c : Cmd := { seq := seq, ring := ring, opcode := op, tag := tag, acceptBeat := s.beat.toNat, payload := desc.drop 16, started := false, left := 0 }
  let s1 : State := { s with host := { s.host with next := seq + 1, chain := chain, cmds := s.host.cmds ++ [c] } }
  let s2 := s1.journalWrite seq 0 (head ++ List.replicate 16 0 ++ leBytes 16 chain.toNat)
  let cls := cmdClass op (desc.drop 16)
  let s3 : State :=
    if 64 ≤ ring ∧ cls ≠ 0 ∧ why = 0 then
      { s2 with host := { s2.host with
          orderNow := s2.host.orderNow.filter (fun o => o.1 = s.beat.toNat) ++ [(s.beat.toNat, cls, s.objectsOf seq op (desc.drop 16))] } }
    else s2
  if why = 0 then s3 else s3.complete seq why 0

/-- Why a round accepts nothing more. A command whose completion entry waits is incomplete still, so that no more than 32,768 can wait (R291).
(DEDUCED, assumption 53) -/
def State.roundFull (s : State) (n : Nat) : Bool :=
  decide (256 ≤ n) || decide (32768 ≤ s.host.cmds.length + s.host.waiting.length) || s.fld (hifReg 0) 31 1 = 1

/-- DEDUCED, assumption 53. -/
def State.acceptNth (s : State) (n ring dseq : Nat) (desc : List Byte) (readErr : Bool) (mirrorFail : Option Nat) : State :=
  (if mirrorFail = some n then s.mirrorFault s.host.next else s).accept ring dseq desc readErr

/-- The descriptor at the head of a ring is not to be taken in this pass: none pending, or ORDERED behind an incomplete command, or host Ladle HL0, by
which rings are read, moves nothing (R279). (DEDUCED, assumption 53) -/
def State.ringSkips (s : State) (b : Nat) : Bool :=
  let d := s.hostRead (s.pair (sqReg b 0) + 64 * s.sqHead b) 64
  !s.hostLadleUp 0 || !s.ringOn (sqReg b 8) || s.sqHead b = (s.sq b).tail || (field d 2 1 % 2 = 1 && s.host.cmds.any (fun c => c.ring = b))

/-- One pass over the rings in an order; counts what it accepts. -/
def State.roundPass (s : State) (order : List Nat) (n : Nat) (readErr : List Nat) (mirrorFail : Option Nat) : State × Nat :=
  order.foldl (fun (a : State × Nat) b =>
    if a.1.roundFull a.2 ∨ a.1.ringSkips b then a
    else
      let x := a.1.sq b
      let d := a.1.hostRead (a.1.pair (sqReg b 0) + 64 * a.1.sqHead b) 64
      let q := a.1.setSq b { x with dseq := x.dseq + 1 }
      let q1 := q.acceptNth a.2 b (x.dseq % 2 ^ 32) d (readErr.contains a.2) mirrorFail
      ({ q1 with host := { q1.host with lastRing := b } }, a.2 + 1)) (s, n)

def State.roundPasses (order : List Nat) (readErr : List Nat) (mirrorFail : Option Nat) : Nat → State × Nat → State × Nat
  | 0, a => a
  | fuel + 1, a =>
    let b := a.1.roundPass order a.2 readErr mirrorFail
    if b.2 = a.2 then b else State.roundPasses order readErr mirrorFail fuel b

/-- A fleet ACTION that has been accepted is posted at once. (DEDUCED, assumption 50) -/
def State.postFleet (s : State) (seq : Nat) : State :=
  match s.findCmd seq with
  | none => s
  | some c => (s.started seq 0).postAction c.acceptBeat
      { kind := field c.payload 0 1, beat := field c.payload 8 8, arg := field c.payload 0x10 8, cmd := some seq }

/-- The orders that have arrived since the last round, in arrival order: of a management controller, or ACTIONs of the fleet (marked true). -/
def State.roundOrders (s : State) (mirrorFail : Option Nat) : State × Nat :=
  s.host.orders.foldl (fun (a : State × Nat) d =>
    if a.1.roundFull a.2 then a
    else
      let seq := a.1.host.next
      let q : State := { a.1 with host := { a.1.host with orders := a.1.host.orders.drop 1 } }
      (if d.1 then (q.acceptNth a.2 0xFC 0 d.2 false mirrorFail).postFleet seq else q.acceptNth a.2 0xFE 0 d.2 false mirrorFail, a.2 + 1)) (s, 0)

/-- ACCEPTANCE_ROUND, once a beat. `readErr`: commands of the round, by their place in it, whose descriptor read meets a poisoned completion;
`mirrorFail`: the command whose mirror write faults. (DEDUCED, assumption 53) -/
def execAcceptanceRound (readErr : List (BitVec 8)) (mirrorFail : Option (BitVec 8)) (s : State) : Res :=
  if !s.ready ∨ s.host.roundBeat = some s.beat.toNat ∨ s.tm.pre then .next s
  else
    let hold := s.fld (hifReg 0) 31 1 = 1
    let order := fromTo (s.host.lastRing + 1) (63 - s.host.lastRing) ++ fromTo 0 (s.host.lastRing + 1)
    let fail := mirrorFail.map (fun k => k.toNat)
    let a := s.roundOrders fail
    let b := State.roundPasses order (readErr.map (fun r => r.toNat)) fail 256 a
    .next { b.1 with host := { b.1.host with roundCnt := b.2, heldRound := hold, roundBeat := some s.beat.toNat } }

/-! ## Completions and events (R280, R291 to R293) -/

/-- The next slot of a ring that the device writes is taken. -/
def PRing.advance (r : PRing) (size now : Nat) : PRing :=
  { prod := (r.prod + 1) % size, used := r.used + 1, phase := if r.prod + 1 = size then !r.phase else r.phase
    unsent := r.unsent + 1, since := if r.unsent = 0 then now else r.since }

def completionEntry (c : Completion) (phase : Bool) (head : Nat) : List Byte :=
  leBytes 8 c.tag ++ leBytes 8 c.seq ++ leBytes 2 c.status ++ leBytes 1 c.ring ++ leBytes 1 (bit phase) ++ leBytes 4 head ++ leBytes 8 c.result

def execCompletionWrite (s : State) : Res :=
  let size := s.ringSize (hifReg 0x18)
  let r := s.host.cq
  match s.host.waiting with
  | [] => .next s
  | c :: rest =>
    if !s.ringOn (hifReg 0x18) ∨ size ≤ r.used ∨ !s.hostLadleUp 0 then .next s
    else
      let s1 := s.hostWrite (s.pair (hifReg 0x10) + 32 * r.prod) (completionEntry c r.phase (s.sqHead c.ring))
      .next { s1 with host := { s1.host with waiting := rest, cq := r.advance size s.tm.run } }

def eventEntry (e : Event) (phase lost : Bool) : List Byte :=
  leBytes 2 e.type ++ leBytes 1 (bit phase + 2 * bit e.remote + 4 * bit lost) ++ [0] ++ leBytes 4 e.rank ++ leBytes 8 e.beat ++ leBytes 16 e.detail

/-- Copies of raised events go to the forwarding rank as MGMT packets (R293). -/
def State.forwardEvents (s : State) : State :=
  s.evForward.foldl (fun q w =>
    q.sendRank 3 w.1 0 0 0 [(BitVec.ofNat 256 (leNat (eventEntry w.2 false false)), false)]) { s with evForward := [] }

/-- The oldest waiting event is written to a free slot; copies due go to the forwarding rank. -/
def execEventWrite (st : State) : Res :=
  let s := st.forwardEvents
  let size := s.ringSize (hifReg 0x28)
  let r := s.host.eq
  match s.events with
  | [] => .next s
  | e :: rest =>
    if !s.ringOn (hifReg 0x28) ∨ size ≤ r.used ∨ !s.hostLadleUp 0 then .next s
    else
      let s1 := s.hostWrite (s.pair (hifReg 0x20) + 32 * r.prod) (eventEntry e r.phase s.evLost)
      .next { s1 with events := rest, evLost := false, host := { s1.host with eq := r.advance size s.tm.run } }

/-- An event of another module comes in: it joins the event ring with REMOTE set. -/
def execForwardedEventReceive (s : State) : Res :=
  match s.fleet.mgmtIn with
  | [] => .next s
  | p :: rest =>
    let f := pktField p
    let e : Event := { type := f 0 16, rank := f 32 20, beat := f 64 48, detail := f 128 128, remote := true }
    .next (({ s with fleet := { s.fleet with mgmtIn := rest } } : State).queueEvent e)

/-! ## MSI-X (R294) -/

/-- A vector sends no message: its own mask bit, the Function Mask, MSI-X not enabled, or the function in D3hot (R274, R294). (PRESUMED, assumption 94) -/
def State.vectorMasked (s : State) (v : Nat) : Bool :=
  let p := s.host.pcie
  !p.msixEnable || p.msixMask || p.d3hot || fieldOf (smGet s.host.msix (16 * v + 12) 1).toNat 0 1 = 1

/-- A vector's message is sent, or its pending bit set while it is masked. -/
def State.sendVector (s : State) (v : Nat) : State :=
  if s.vectorMasked v then
    { s with host := { s.host with pba := if s.host.pba.contains v then s.host.pba else v :: s.host.pba } }
  else s.out (.msix v)

/-- Moderation of a ring's vector: COUNT entries, or TIME µs since the first not signalled. -/
def State.vectorDue (s : State) (r : PRing) (lo : Nat) : Bool :=
  let count := max 1 (s.fld (hifReg 0x30) (lo + 8) 8)
  let time := s.fld (hifReg 0x30) lo 8
  decide (0 < r.unsent) && (decide (count ≤ r.unsent) || s.passed r.since (time * usU))

/-- A vector's message falls due: that of the completion ring, of the event ring, or one left pending and unmasked since. -/
def execMsixMessage (vector : BitVec 11) (s : State) : Res :=
  let v := vector.toNat
  if s.host.pba.contains v ∧ !s.vectorMasked v then
    .next (({ s with host := { s.host with pba := s.host.pba.erase v } } : State).out (.msix v))
  else if v = 0 ∧ s.vectorDue s.host.cq 16 then
    .next (({ s with host := { s.host with cq := { s.host.cq with unsent := 0 } } } : State).sendVector 0)
  else if v = 1 ∧ s.vectorDue s.host.eq 0 then
    .next (({ s with host := { s.host with eq := { s.host.eq with unsent := 0 } } } : State).sendVector 1)
  else .next s

/-! ## Management orders and ACTION packets (R229, R287) -/

def execMctpOrder (desc : List Byte) (s : State) : Res :=
  .next (if s.mctpUp ∧ desc.length = 64 then { s with host := { s.host with orders := s.host.orders ++ [(false, desc)] } } else s)

/-- The ACTION descriptor that a SYNC ACTION message stands for (R296). -/
def actionDesc (kind beat arg : Nat) : List Byte :=
  leBytes 2 0x12 ++ List.replicate 14 0 ++ leBytes 1 kind ++ [1] ++ List.replicate 6 0 ++ leBytes 8 beat ++ leBytes 8 arg ++ List.replicate 24 0

/-- An ACTION packet comes to Ermond: the first copy waits for the next acceptance round (R283) and is forwarded to the children and secondary
children; a further copy is counted. (DEDUCED, assumption 50) -/
def execSyncAction (s : State) : Res :=
  match s.takeSync 6 with
  | none => .next s
  | some ((m, _), s1) =>
    let once := { m with srank := 0 }
    if s1.fleet.forwarded.contains once then .next s1.countDup
    else
      let s2 : State := { s1 with
        host := { s1.host with orders := s1.host.orders ++ [(true, actionDesc (m.orank % 256) m.beat m.arg)] }
        fleet := { s1.fleet with forwarded := s1.fleet.forwarded ++ [once] } }
      match s2.fleet.setup with
      | some r => .next (s2.sendSync r.below { m with srank := s2.ownRank })
      | none => .next s2

end Sys2Proof.Machine
end

