-- ==== Sys2Proof/Machine/Scalar.lean ====
section
/-!
DEFINITION. The common opcodes and the scalar core (R40 to R44, R49, R60 to R66, R73): rows SYNC to RDINFO of the table, but
for LSTART (Ladle.lean). Every one goes through the firing rule, `State.issue`.
-/

namespace Sys2Proof.Machine

open Sys2Proof

/-! ## Common opcodes (R64, R73) -/

/-- SYNC: no work; its signal takes effect at once where no earlier instruction of the stream is outstanding, else after
them (R41, R64). -/
def execSync (e : Engine) (k : Issue) (s : State) : Res :=
  .next (s.issue e k [] (fun _ => none) true (fun q => .done q [] false none))

/-- END: ends the engine's stream; another segment ID than the running replay's halts with STREAM_END_MISMATCH (R49). -/
def execEnd (e : Engine) (k : Issue) (seg : BitVec 16) (s : State) : Res :=
  let t := k.tile.toNat
  .next (s.issuePlain e k (fun q =>
    if seg ≠ (q.tile t).seg then .stop [(rsnStreamEnd, seg.toNat)]
    else .tile q t (fun x => x.setEng e { x.eng e with ended := true })))

/-- AMOV, AADD and APAR are not defined in the S slot (R64): ILLEGAL_OPCODE. -/
def aregOp (e : Engine) (k : Issue) (ad : BitVec 3) (f : TileState → Word → Word) (s : State) : State :=
  let t := k.tile.toNat
  s.issuePlain e k (fun q =>
    if e = .sc then .stop [(0x01, q.imWord t e)]
    else .tile q t (fun x => x.setEng e ((x.eng e).setAreg ad (f x ((x.eng e).areg ad)))))

def execAmov (e : Engine) (k : Issue) (ad : BitVec 3) (imm : Word) (s : State) : Res :=
  .next (aregOp e k ad (fun _ _ => imm) s)

def execAadd (e : Engine) (k : Issue) (ad : BitVec 3) (imm : Word) (s : State) : Res :=
  .next (aregOp e k ad (fun _ a => a + imm) s)

def execApar (e : Engine) (k : Issue) (ad : BitVec 3) (p : BitVec 6) (s : State) : Res :=
  .next (aregOp e k ad (fun x _ => x.param p) s)

/-- LOOP_START: the count is the immediate or an ACTIVE PARAM entry, above 65,535 PARAM_RANGE; 0 skips the body of `body` words
and its loop-end (R73, R75). -/
def execLoopStart (e : Engine) (k : Issue) (n : LoopCount) (body : BitVec 16) (s : State) : Res :=
  let t := k.tile.toNat
  .next (s.issuePlain e k (fun q =>
    let x := q.tile t
    let y := x.eng e
    let run (c : Nat) : Run :=
      if c = 0 then .done q [] false (some (y.pc + body.toNat + 2))
      else .done (q.setTile t (x.setEng e { y with loops := ⟨y.pc + 1, c - 1⟩ :: y.loops })) [] false none
    match n with
    | .imm i => run i.toNat
    | .param p =>
      let v := (x.param p).toNat
      if 65535 < v then .stop [(rsnParamRange, p.toNat * 2 ^ 24 + v % 2 ^ 24)] else run v))

/-- LOOP_END: repeats the body while iterations are left, else leaves the loop (R73). -/
def execLoopEnd (e : Engine) (k : Issue) (s : State) : Res :=
  let t := k.tile.toNat
  .next (s.issuePlain e k (fun q =>
    let x := q.tile t
    let y := x.eng e
    match y.loops with
    | [] => .done q [] false none
    | f :: r =>
      if f.left = 0 then .done (q.setTile t (x.setEng e { y with loops := r })) [] false none
      else .done (q.setTile t (x.setEng e { y with loops := ⟨f.start, f.left - 1⟩ :: r })) [] false (some f.start)))

/-! ## Register arithmetic (R65) -/

/-- R form: GD := f GA GB, 32-bit, wrapping. -/
def rForm (k : Issue) (gd ga gb : BitVec 5) (f : Word → Word → Word) (s : State) : State :=
  s.issuePlain .sc k (fun q => .tile q k.tile.toNat (fun x => x.setGpr gd (f (x.gpr ga) (x.gpr gb))))

/-- I form: GD := f GA. -/
def iForm (k : Issue) (gd ga : BitVec 5) (f : Word → Word) (s : State) : State :=
  s.issuePlain .sc k (fun q => .tile q k.tile.toNat (fun x => x.setGpr gd (f (x.gpr ga))))

/-- Shift by an immediate of 0 to 31; another immediate sets reserved bits (R65). -/
def shiftForm (k : Issue) (gd ga : BitVec 5) (imm : BitVec 24) (f : Word → Nat → Word) (s : State) : State :=
  if imm.toNat < 32 then iForm k gd ga (fun a => f a imm.toNat) s
  else s.issuePlain .sc k (fun q => .stop [(0x02, q.imWord k.tile.toNat .sc)])

def execAdd (k : Issue) (gd ga gb : BitVec 5) (s : State) : Res :=
  .next (rForm k gd ga gb (fun a b => a + b) s)

def execSub (k : Issue) (gd ga gb : BitVec 5) (s : State) : Res :=
  .next (rForm k gd ga gb (fun a b => a - b) s)

def execAnd (k : Issue) (gd ga gb : BitVec 5) (s : State) : Res :=
  .next (rForm k gd ga gb (fun a b => a &&& b) s)

def execOr (k : Issue) (gd ga gb : BitVec 5) (s : State) : Res :=
  .next (rForm k gd ga gb (fun a b => a ||| b) s)

def execXor (k : Issue) (gd ga gb : BitVec 5) (s : State) : Res :=
  .next (rForm k gd ga gb (fun a b => a ^^^ b) s)

def execSll (k : Issue) (gd ga gb : BitVec 5) (s : State) : Res :=
  .next (rForm k gd ga gb (fun a b => a <<< (b.toNat % 32)) s)

def execSrl (k : Issue) (gd ga gb : BitVec 5) (s : State) : Res :=
  .next (rForm k gd ga gb (fun a b => a >>> (b.toNat % 32)) s)

def execSra (k : Issue) (gd ga gb : BitVec 5) (s : State) : Res :=
  .next (rForm k gd ga gb (fun a b => a.sshiftRight (b.toNat % 32)) s)

def execSlt (k : Issue) (gd ga gb : BitVec 5) (s : State) : Res :=
  .next (rForm k gd ga gb (sltWord) s)

def execSltu (k : Issue) (gd ga gb : BitVec 5) (s : State) : Res :=
  .next (rForm k gd ga gb (sltuWord) s)

def execMul (k : Issue) (gd ga gb : BitVec 5) (s : State) : Res :=
  .next (rForm k gd ga gb (fun a b => a * b) s)

def execMulhu (k : Issue) (gd ga gb : BitVec 5) (s : State) : Res :=
  .next (rForm k gd ga gb (fun a b => BitVec.ofNat 32 (a.toNat * b.toNat / 2 ^ 32)) s)

def execAddi (k : Issue) (gd ga : BitVec 5) (imm : BitVec 24) (s : State) : Res :=
  .next (iForm k gd ga (fun a => a + imm.signExtend 32) s)

def execAndi (k : Issue) (gd ga : BitVec 5) (imm : BitVec 24) (s : State) : Res :=
  .next (iForm k gd ga (fun a => a &&& imm.setWidth 32) s)

def execOri (k : Issue) (gd ga : BitVec 5) (imm : BitVec 24) (s : State) : Res :=
  .next (iForm k gd ga (fun a => a ||| imm.setWidth 32) s)

def execXori (k : Issue) (gd ga : BitVec 5) (imm : BitVec 24) (s : State) : Res :=
  .next (iForm k gd ga (fun a => a ^^^ imm.setWidth 32) s)

def execSlli (k : Issue) (gd ga : BitVec 5) (imm : BitVec 24) (s : State) : Res :=
  .next (shiftForm k gd ga imm (fun a n => a <<< n) s)

def execSrli (k : Issue) (gd ga : BitVec 5) (imm : BitVec 24) (s : State) : Res :=
  .next (shiftForm k gd ga imm (fun a n => a >>> n) s)

def execSrai (k : Issue) (gd ga : BitVec 5) (imm : BitVec 24) (s : State) : Res :=
  .next (shiftForm k gd ga imm (fun a n => a.sshiftRight n) s)

def execLui (k : Issue) (gd : BitVec 5) (imm : BitVec 24) (s : State) : Res :=
  .next (iForm k gd 0 (fun _ => imm.setWidth 32 <<< 8) s)

/-! ## Scalar data memory (R65) -/

/-- Conditions of a word access to scalar data memory: BOUND at or beyond 16 KiB, FORMAT if not a multiple of 4 (R65). -/
def scalarConds (q : State) (t a : Nat) : List (Nat × Nat) :=
  (if 16384 ≤ a then [(rsnBound, boundInfo 3 (q.tile t).task.toNat a)] else []) ++
  (if a % 4 ≠ 0 then [(rsnFormat, q.imWord t .sc)] else [])

def execLw (k : Issue) (gd ga : BitVec 5) (imm : BitVec 24) (s : State) : Res :=
  let t := k.tile.toNat
  .next (s.issuePlain .sc k (fun q =>
    let a := scalarAddr ((q.tile t).gpr ga) imm
    match scalarConds q t a with
    | c :: r => .stop (c :: r)
    | [] =>
      let rd := q.engRead k .sc 3 a 4
      match rd.2.2 with
      | some w => .fail rd.1 rsnEcc (eccInfo 3 w)
      | none => .tile rd.1 t (fun x => x.setGpr gd (BitVec.ofNat 32 (leNat rd.2.1)))))

def execSw (k : Issue) (gb ga : BitVec 5) (imm : BitVec 24) (s : State) : Res :=
  let t := k.tile.toNat
  .next (s.issuePlain .sc k (fun q =>
    let a := scalarAddr ((q.tile t).gpr ga) imm
    match scalarConds q t a with
    | c :: r => .stop (c :: r)
    | [] => .store q 3 a (leBytes 4 ((q.tile t).gpr gb).toNat) [] false))

/-! ## Narrow access to WM, AM and PM (R116, R118) -/

/-- Task offset, conditions at issue: FORMAT if misaligned or no such memory, BOUND outside the task window. -/
def narrowConds (q : State) (t mem a : Nat) : List (Nat × Nat) :=
  let task := (q.tile t).task.toNat
  (match q.boundCheck t task [(mem, a, 4)] with
   | some i => if mem < 3 then [(rsnBound, i)] else []
   | none => []) ++
  (if a % 4 ≠ 0 ∨ mem = 3 then [(rsnFormat, q.imWord t .sc)] else [])

/-- The scalar core's request waits at the memory's narrow port until it is granted: at once where the command says so and no other request goes
first, else by a grant of the memory's own (R116). -/
def scalarGranted (q : State) (t mem : Nat) (granted : Bool) : Bool :=
  (q.tile t).narrow.any (fun r => r.src = 1 ∧ r.mem = mem ∧ r.granted) ||
    (granted && !(q.tile t).zbusy && (narrowHeads (q.tile t) mem).all (fun r => r.src = 1 || (r.src = 2 && !r.urgent)))

/-- The request joins the queue of its memory, where it does not stand there yet. -/
def State.askNarrow (q : State) (t mem off : Nat) : State :=
  let x := q.tile t
  if x.narrow.any (fun r => r.src = 1 ∧ r.mem = mem) then q
  else q.setTile t { x with narrow := x.narrow ++ [⟨1, mem, off, q.beatAt (clusterOf t), false, false, false, none, none, 0⟩] }

def State.dropScalarReq (q : State) (t mem : Nat) : State :=
  q.modTile t (fun x => x.keepNarrow (q.beatAt (clusterOf t)) (x.narrow.filter (fun r => !(r.src = 1 && r.mem = mem))))

def narrowHold (t mem a : Nat) (granted : Bool) (q : State) : Option (Hold × State) :=
  if narrowConds q t mem a ≠ [] ∨ scalarGranted q t mem granted then none
  else some (.narrow, q.askNarrow t mem ((q.taskWin t (q.tile t).task.toNat mem).1 + a / 32 * 32))

/-- The scalar core's narrow access that was granted urgently in the cycle in which its tile halted still issues (R117): as it would have, the record
of the halt and the state staying; a further condition sets MORE. -/
def State.lastIssue (s : State) (t : Nat) (f : State → State) : State :=
  let x := s.tile t
  if x.st = .halted ∧ x.owed then
    let s1 := f (s.setTile t { x with st := .running, owed := false })
    let y := s1.tile t
    s1.setTile t { y with st := .halted, halt := x.halt, haltReported := x.haltReported, more := x.more || y.st = .halted }
  else f s

def execLwn (k : Issue) (gd ga : BitVec 5) (mem : BitVec 2) (imm : BitVec 24) (granted : Bool) (s : State) : Res :=
  let t := k.tile.toNat
  let m := mem.toNat
  let a := scalarAddr ((s.tile t).gpr ga) imm
  .next (s.lastIssue t (fun s => s.issue .sc k [] (narrowHold t m a granted) false (fun q =>
    match narrowConds q t m a with
    | c :: r => .stop (c :: r)
    | [] =>
      let p := (q.taskWin t (q.tile t).task.toNat m).1 + a
      let rd := (q.dropScalarReq t m).engRead k .sc m p 4
      match rd.2.2 with
      | some w => .fail rd.1 rsnEcc (eccInfo m w)
      | none => .tile rd.1 t (fun x => x.setGpr gd (BitVec.ofNat 32 (leNat rd.2.1))))))

/-- The first narrow grant of an SWN: the word is read and corrected, and 4 bytes are merged in (R118). -/
def State.swnRead (q : State) (k : Issue) (mem p : Nat) (w : Word) : State × List Byte × Option Nat :=
  let rd := q.engRead k .sc mem (p / 32 * 32) 32
  (rd.1, rd.2.1.take (p % 32) ++ leBytes 4 w.toNat ++ rd.2.1.drop (p % 32 + 4), rd.2.2)

/-- SWN waits for two grants. After the first, given on its own, the merged word waits for the second; a word that cannot be corrected halts the
tile as the receive side's read of a merge (R118, R120). -/
def swnHold (k : Issue) (mem a : Nat) (gb : BitVec 5) (granted : Bool) (q : State) : Option (Hold × State) :=
  let t := k.tile.toNat
  let x := q.tile t
  let p := (q.taskWin t x.task.toNat mem).1 + a
  if narrowConds q t mem a ≠ [] then none
  else if !scalarGranted q t mem granted then some (.narrow, q.askNarrow t mem (p / 32 * 32))
  else if granted ∨ x.swn.isSome then none
  else
    let rd := (q.dropScalarReq t mem).swnRead k mem p (x.gpr gb)
    match rd.2.2 with
    | some w => some (.narrow, rd.1.halt t 5 rsnEcc 0 (eccInfo mem w))
    | none => some (.narrow, (rd.1.modTile t (fun x => { x with swn := some ⟨mem, p / 32 * 32, rd.2.1⟩ })).askNarrow t mem (p / 32 * 32))

/-- SWN: the word is read and corrected, 4 bytes merged, and the whole word written (R118). -/
def execSwn (k : Issue) (gb ga : BitVec 5) (mem : BitVec 2) (imm : BitVec 24) (granted : Bool) (s : State) : Res :=
  let t := k.tile.toNat
  let m := mem.toNat
  let a := scalarAddr ((s.tile t).gpr ga) imm
  .next (s.lastIssue t (fun s => s.issue .sc k [] (swnHold k m a gb granted) false (fun q =>
    match narrowConds q t m a with
    | c :: r => .stop (c :: r)
    | [] =>
      let q1 := (q.dropScalarReq t m).modTile t (fun x => { x with swn := none })
      match (q.tile t).swn with
      | some w => .store q1 w.mem w.off w.bytes [] false
      | none =>
        let p := (q.taskWin t (q.tile t).task.toNat m).1 + a
        let rd := q1.swnRead k m p ((q.tile t).gpr gb)
        match rd.2.2 with
        | some w => .halted (rd.1.halt t 5 rsnEcc 0 (eccInfo m w))
        | none => .store rd.1 m (p / 32 * 32) rd.2.1 [] false)))

/-! ## Branches (R66). A bundle of a SONLY run is one word of the scalar stream (R76). -/

/-- DESIGN CHOICE, assumption 6. -/
def branch (c : BrCond) (k : Issue) (ga gb : BitVec 5) (off : BitVec 24) (s : State) : State :=
  let t := k.tile.toNat
  s.issuePlain .sc k (fun q =>
    let x := q.tile t
    let pc := (x.eng .sc).pc
    .done q [] false (some (if brTaken c (x.gpr ga) (x.gpr gb) then (BitVec.ofNat 32 pc + off.signExtend 32).toNat else pc + 1)))

def execBeq (k : Issue) (ga gb : BitVec 5) (off : BitVec 24) (s : State) : Res := .next (branch .eq k ga gb off s)

def execBne (k : Issue) (ga gb : BitVec 5) (off : BitVec 24) (s : State) : Res := .next (branch .ne k ga gb off s)

def execBlt (k : Issue) (ga gb : BitVec 5) (off : BitVec 24) (s : State) : Res := .next (branch .lt k ga gb off s)

def execBge (k : Issue) (ga gb : BitVec 5) (off : BitVec 24) (s : State) : Res := .next (branch .ge k ga gb off s)

def execBltu (k : Issue) (ga gb : BitVec 5) (off : BitVec 24) (s : State) : Res := .next (branch .ltu k ga gb off s)

def execBgeu (k : Issue) (ga gb : BitVec 5) (off : BitVec 24) (s : State) : Res := .next (branch .geu k ga gb off s)

def execJ (k : Issue) (off : BitVec 24) (s : State) : Res := .next (branch .eq k 0 0 off s)

/-! ## PARAM registers (R20, R43, R44) -/

def execPget (k : Issue) (gd : BitVec 5) (p : BitVec 6) (s : State) : Res :=
  .next (s.issuePlain .sc k (fun q => .tile q k.tile.toNat (fun x => x.setGpr gd (x.param p))))

def TileState.setShadow (x : TileState) (p : BitVec 6) (w : Word) : TileState :=
  { x with shadow := x.shadow.set p.toNat w p.isLt }

/-- A commit copies SHADOW into PENDING and marks a commit pending (R20); SHADOW keeps its contents. -/
def TileState.commit (x : TileState) : TileState := { x with pending := x.shadow, commitPending := true }

def execPset (k : Issue) (ga : BitVec 5) (p : BitVec 6) (s : State) : Res :=
  .next (s.issuePlain .sc k (fun q => .tile q k.tile.toNat (fun x => x.setShadow p (x.gpr ga))))

def execPcommit (k : Issue) (s : State) : Res :=
  .next (s.issuePlain .sc k (fun q => .tile q k.tile.toNat TileState.commit))

/-! ## CSEND and RDINFO (R65, R125) -/

/-- CSEND: the image and data flits in scalar data memory, SRCK, SRC and EPOCH overwritten; CLASS other than 2 or LEN above 4,
or GA misaligned, FORMAT; image or data that reaches 16 KiB, BOUND (R65, R125). An image that reaches it has no CLASS or LEN to check. -/
def execCsend (k : Issue) (ga : BitVec 5) (s : State) : Res :=
  let t := k.tile.toNat
  let a := ((s.tile t).gpr ga).toNat
  let img := bytesFlit (s.tmRead (tmAddr t 3 a) 32)
  let whole := decide (a + 32 ≤ 16384)
  let bad := decide (a % 32 ≠ 0) || (whole && (decide (hClass img ≠ 2) || decide (4 < hLen img)))
  let n := if !whole || decide (4 < hLen img) then 0 else hLen img
  let past := decide (16384 < a + 32 + 32 * n)
  let need := if bad || past then 0 else n + 1
  .next (s.issue .sc k [⟨22, s.injCredit t 2, need⟩] (fun _ => none) false (fun q =>
    match (if past then [(rsnBound, boundInfo 3 (q.tile t).task.toNat (if a < 16384 then 16384 else a))] else []) ++
        (if bad then [(rsnFormat, q.imWord t .sc)] else []) with
    | c :: r => .stop (c :: r)
    | [] =>
      let rd := q.engRead k .sc 3 a (32 + 32 * n)
      match rd.2.2 with
      | some w => .fail rd.1 rsnEcc (eccInfo 3 w)
      | none =>
        let h0 := leNat (rd.2.1.take 32)
        let h1 := withField (withField (withField h0 45 3 1) 48 12 t) 4 2 (q.cluster (clusterOf t)).epoch.toNat
        let data := (fromTo 0 n).map (fun i => bytesFlit ((rd.2.1.drop (32 + 32 * i)).take 32))
        .done (rd.1.inject t (BitVec.ofNat 256 h1) data) [] false none))

def execRdinfo (k : Issue) (gd : BitVec 5) (sel : BitVec 2) (s : State) : Res :=
  .next (s.issuePlain .sc k (fun q => .tile q k.tile.toNat (fun x => x.setGpr gd
    (if sel = 0 then k.tile.setWidth 32
     else if sel = 1 then x.count.setWidth 32
     else if sel = 2 then x.seg.setWidth 32
     else x.slot.setWidth 32))))

end Sys2Proof.Machine
end

