-- ==== Sys2Proof/Machine/Commands.lean ====
section
/-!
DEFINITION. The commands of the host interface's own chapter, but for the loading of segments: NOP, COPY, REPLAY, the job commands, ACTION,
tile fences, POWER_CAP (R134, R137, R288 to R290), and the first replay of a job (R227).
-/

namespace Sys2Proof.Machine

open Sys2Proof

def execNop (seq : Dword) (s : State) : Res := s.runCmd seq 0 (fun c => s.complete c.seq 0 0)

/-! ## COPY -/

/-- LPDDR6 channels that a range of device memory lies in: all those of its halves where it is long. -/
def State.rangeChans (s : State) (a n : Nat) : List Nat :=
  if n = 0 ∨ !s.isLpx a then []
  else if 4096 ≤ n then (if lpHalf a = lpHalf (a + n - 1) then fromTo (16 * lpHalf a) 16 else fromTo 0 32)
  else lpChans (a / 64 * 64) ((a + n - 1) / 64 + 1 - a / 64)

/-- What stops a command before it touches a device range: 0 nothing, else its status (R4, R343). -/
def State.rangeStop (s : State) (a n : Nat) : Nat :=
  let v := a / vaultSize
  if v < 64 then
    if s.nClusters ≤ v then stUnitAbsent
    else if s.domain 1 v ≠ .run ∨ s.domain 2 v ≠ .run then stAbortedReset
    else 0
  else if !s.isLpx a then stUnitAbsent
  else if (s.rangeChans a n).any (fun c => s.domain 4 c ≠ .run) then stAbortedReset
  else 0

/-! ## Ermond's own accesses to device memory (R146, R150, R166, R171, R265) -/

/-- What answers an access to a device range with an error: a wrapper, or a vault or channel out of service; 0 nothing (R150, R166, R343). -/
def State.devStatus (s : State) (a n : Nat) : Nat :=
  if s.rangeStop a n ≠ 0 then s.rangeStop a n
  else if a / vaultSize < 64 then (if s.vaultServes (a / vaultSize) then 0 else stDeviceError)
  else if (s.rangeChans a n).any (fun c => (s.lpch c).st ≠ .up && !s.lpParked c) then stDeviceError
  else 0

/-- Access of Ermond to host memory through HL0. -/
def State.hostLadleStatus (s : State) : Nat :=
  if s.domain 6 0 ≠ .run then stAbortedReset else if s.fld (ldlReg 64 0) 31 1 = 1 then stDeviceError else 0

/-- What ends a move of data by a privileged channel of the Ladle that owns a range: the cluster's channel 7, or HL0's for LPDDR6, disabled or in FAULT
(R182, R185, R186, R324). (DESIGN CHOICE, assumption 69) -/
def State.rangeStatus (s : State) (a n : Nat) : Nat :=
  if s.devStatus a n ≠ 0 then s.devStatus a n
  else if a / vaultSize < 64 then
    (if s.fld (ldlReg (a / vaultSize) 0) 31 1 = 1 ∨ (s.lchan (a / vaultSize) 7).st = .fault then stDeviceError else 0)
  else if s.hostLadleStatus ≠ 0 then s.hostLadleStatus
  else if (fromTo 0 4).all (fun k => (s.lchan 64 k).st = .fault) then stDeviceError
  else 0

/-- An access goes on with the LPDDR6 channels of its ranges at work; it waits where one is parked, or held by the Kettle (R171, R265, R267). -/
def State.withLp (s : State) (cs : List Nat) (f : State → State) : State :=
  if cs.any s.lpParked then s
  else match s.lpHeld cs with
    | some c => s.holdUnit (lpUnit c)
    | none => f ((cs.filter (fun c => decide ((s.lpch c).st = .up))).foldl State.lpWake s)

/-- An access that Ermond makes within one of its own steps: refresh of its banks is waited out, and a channel at rest starts as soon as the Kettle lets
it. (DESIGN CHOICE, assumption 32) -/
def State.devReady (s : State) (a n : Nat) : State :=
  (s.rangeChans a n).foldl (fun q c =>
    if (q.lpch c).st ≠ .up then q else if q.mayStart (lpUnit c) then q.lpWake c else q.holdUnit (lpUnit c)) (s.awaitBanks a n)

/-- Ermond reads a range: its poisoned codewords, all of them where the read is answered with an error. -/
def State.ermCheck (s : State) (a n : Nat) : State × List Nat :=
  if n = 0 then (s, [])
  else if s.devStatus a n ≠ 0 then (s, fromTo (a / 64) ((a + n - 1) / 64 + 1 - a / 64))
  else (s.devReady a n).devCheck a n false

/-- Ermond writes a range; a write answered with an error is lost. -/
def State.ermStore (s : State) (a : Nat) (bs : List Byte) : State :=
  if s.devStatus a bs.length ≠ 0 then s else (s.devReady a bs.length).devStore a bs

/-- Codewords of a copy from src to dst whose source was poisoned are poison (R148, R169). -/
def State.copyPoison (s : State) (src dst : Nat) (cws : List Nat) : State := cws.foldl (fun q cw => q.markCw ((dst + (cw * 64 - src)) / 64)) s

/-- A descriptor of Ermond's: privileged channels, no pulse. -/
def ermondDesc (skind src dkind dst len flow : Nat) : LDesc :=
  { src := src, dst := dst, len := len, lenHi := 0, skind := skind, dkind := dkind, sfix := false, dfix := false, prio := 0, evkind := 0
    modeHi := 0, flow := flow, evtile := 0, evtally := 0, evinc := 0, rsvd := 0 }

/-- Transfers of a COPY: Ladle, channel, descriptor. A vault's own Ladle moves its side, HL0 the host's (R176, R182, R289). (DESIGN CHOICE, assumption
55) -/
def copyParts (host dev n flow j : Nat) (toHost : Bool) : List (Nat × Nat × LDesc) :=
  let v := dev / vaultSize
  if v < 64 then
    if toHost then [(64, j, ermondDesc 3 0 2 host n flow), (v, 7, ermondDesc 0 dev 3 0x43 n flow)]
    else [(v, 7, ermondDesc 3 0 0 dev n flow), (64, j, ermondDesc 2 host 3 v n flow)]
  else if toHost then [(64, j, ermondDesc 0 dev 2 host n flow)]
  else [(64, j, ermondDesc 2 host 0 dev n flow)]

/-- A channel takes a start now, if only to drop it. -/
def State.channelTakes (s : State) (l k : Nat) : Bool := (s.lchan l k).st = .fault || decide ((s.lchan l k).slots.length < 4)

/-- Channel of HL0 for a COPY: of 0 to 3 the first that is not in FAULT and has a free slot. (DESIGN CHOICE, assumption 55) -/
def State.copyChannel (s : State) : Nat :=
  ((fromTo 0 4).find? (fun k => (s.lchan 64 k).st ≠ .fault && s.channelTakes 64 k)).getD 0

/-- COPY: its transfers are put in their channels, and wait where one has no free slot. It completes with the last of them, with HOST_ERROR or
DEVICE_ERROR on a Ladle fault, with ABORTED_RESET where a wrapper answers (R289, R343). (DESIGN CHOICE, assumption 55) -/
def execCopy (seq : Dword) (s : State) : Res :=
  s.runCmd seq 1 (fun c =>
    let f := field c.payload
    let dev := f 8 8
    let n := f 16 4
    let parts := copyParts (f 0 8) dev n (c.seq % 2 ^ 16) s.copyChannel (f 20 1 = 1)
    let why := if s.rangeStop dev (64 * n) ≠ 0 then s.rangeStop dev (64 * n) else if s.domain 6 0 ≠ .run then stAbortedReset else 0
    if why ≠ 0 then s.complete c.seq why 0
    else if parts.any (fun p => !s.channelTakes p.1 p.2.1) then s
    else parts.foldl (fun q p => if (q.findCmd c.seq).isSome then (q.ladleStart p.1 p.2.1 p.2.2 (some c.seq)).1 else q)
      (s.started c.seq parts.length))

/-! ## REPLAY (R20, R289) -/

/-- One entry of a patch list. -/
structure Patch where
  gate : Bool
  index : Nat
  param : Nat
  value : Nat
  rest : Nat

def patchOf (w : Nat) : Patch :=
  { gate := fieldOf w 18 1 = 1, index := w % 4096, param := fieldOf w 12 6, value := w / 2 ^ 32, rest := fieldOf w 19 13 }

def Patch.ok (x : Patch) (g : Segment) : Bool :=
  x.rest = 0 && (if x.gate then decide (x.index < g.gates.length) && (x.index ≠ 0 || x.value = 0) else g.tiles.contains x.index)

/-- The controllers that hold a segment's gate list: those of the clusters that run it or carry a list of it, and 64, Ermond and the chip Goose, for
the ports that Ermond serves (R18, R26). -/
def segClusters (g : Segment) : List Nat := (g.tiles.map clusterOf ++ g.own.map (fun w => portCluster w.1)).eraseDups

/-- A commit reaches a tile; at an ISOLATED one it is discarded and counted (R13, R135). -/
def State.commitTile (s : State) (t : Nat) : State :=
  if (s.tile t).st = .isolated then s.bump (rtrReg t 8) 1 else s.modTile t TileState.commit

/-- A PARAM or a gate offset goes into the shadow sets; a write to an ISOLATED tile is discarded (R13, R135). (DESIGN CHOICE, assumption 56) -/
def State.patchShadow (s : State) (g : Segment) (x : Patch) : State :=
  if x.gate then
    (segClusters g).foldl (fun q c => q.modCluster c (fun y =>
      { y with gShadow := { y.gShadow with offs := smSet y.gShadow.offs (g.slot.toNat * 4096 + x.index) x.value } })) s
  else if (s.tile x.index).st = .isolated then s.bump (rtrReg x.index 8) 1
  else s.modTile x.index (fun y => y.setShadow (BitVec.ofNat 6 x.param) (BitVec.ofNat 32 x.value))

/-- The patch list is written to the shadow sets and committed. (DESIGN CHOICE, assumption 56) -/
def State.patch (s : State) (g : Segment) (xs : List Patch) : State :=
  let s1 := xs.foldl (fun q x => q.patchShadow g x) s
  let touched := ((xs.filter (fun x => !x.gate)).map (fun x => x.index)).eraseDups
  let s2 := touched.foldl (fun q t => q.commitTile t) s1
  if xs.any (fun x => x.gate) then
    (segClusters g).foldl (fun q c => q.modCluster c (fun y => { y with gPending := y.gShadow, gCommit := true })) s2
  else s2

/-- The base beat of the next replay reaches the controllers that hold the segment's gate list, and is committed there (R20). (DESIGN CHOICE, assumption 56) -/
def State.giveBase (s : State) (g : Segment) (base : Nat) : State :=
  (segClusters g).foldl (fun q c => q.modCluster c (fun y => y.commitBase g.slot base)) s

/-- Ermond orders n replays of a segment: replay k has the segment's next counter + k and base beat base + k × period (R18, R19). (DESIGN CHOICE, assumption 56) -/
def State.release (s : State) (g : Segment) (n base period : Nat) (cmd : Option Nat) : State :=
  let run : ReplayRun :=
    { seg := g.id, slot := g.slot, first := g.counter, n := n, base := base, period := period, cmd := cmd, stopped := false
      tiles := g.tiles, next := [], live := [] }
  let s1 := s.giveBase g base
  { s1 with
    replays := s1.replays ++ [run]
    segs := s1.segs.map (fun h => if h.id = g.id then { h with counter := h.counter + n } else h) }

def execReplay (seq : Dword) (hostErr : Bool) (s : State) : Res :=
  s.runCmd seq 4 (fun c =>
    let f := field c.payload
    match s.findSeg (BitVec.ofNat 16 (f 0 2)) with
    | none => s.complete c.seq stSegNotLoaded 0
    | some g =>
      let n := f 0x20 2
      let xs := (fromTo 0 n).map (fun i => patchOf (s.hostNat (f 0x18 8 + 8 * i) 8))
      if 0 < n ∧ hostErr then s.complete c.seq stHostError 0
      else if !(xs.all (fun x => x.ok g)) then s.complete c.seq stBadDesc 0
      else if g.tiles.any (fun t => (s.tile t).st = .halted) then s.complete c.seq stTileHalted 0
      else ((s.patch g xs).release g (f 2 2) (f 8 8) (f 0x10 4) (some c.seq)).started c.seq 0)

/-! ## The job (R224, R227, R290) -/

/-- DEDUCED, assumption 52. -/
def setupBad (r : List Byte) : Bool :=
  let f := field r
  let root := fieldOf (f 0 4) 31 1 = 1
  f 4 2 = 0 || decide (8 < f 6 1) || decide (8 < f 7 1) || (!root && f 0x20 4 % 2 ^ 20 = f 0x24 4 % 2 ^ 20) || f 0x68 2 = 0xFFFF

def setupRec (r : List Byte) : SetupRec :=
  let f := field r
  { root := fieldOf (f 0 4) 31 1 = 1, parent := f 0x20 4 % 2 ^ 20, sparent := f 0x24 4 % 2 ^ 20
    children := (fromTo 0 (f 6 1)).map (fun i => f (0x28 + 4 * i) 4 % 2 ^ 20)
    schildren := (fromTo 0 (f 7 1)).map (fun i => f (0x48 + 4 * i) 4 % 2 ^ 20)
    segs := ((fromTo 0 8).map (fun i => f (0x68 + 2 * i) 2)).filter (fun g => g ≠ 0xFFFF) }

/-- The set-up record is held and shown; its origin comes into force (R256). -/
def State.storeSetup (s : State) (r : List Byte) : State :=
  let f := field r
  let rc := setupRec r
  let s1 := (((((s.setReg (mgtReg 0xA000) (BitVec.ofNat 32 (2 ^ 31 + f 0 4 % 2 ^ 20))).setReg (mgtReg 0xA004)
    (BitVec.ofNat 32 (f 4 2 + bit rc.root * 2 ^ 28))).setReg (mgtReg 0xA008) (BitVec.ofNat 32 (f 8 4))).setReg (mgtReg 0xA00C)
    (BitVec.ofNat 32 (f 0xC 2))).setReg (mgtReg 0xA010) (BitVec.ofNat 32 (f 0x1C 4)))
  let s2 := s1.newOrigin (f 0x10 8 * 1000000000 + f 0x18 4 % 2 ^ 30)
  let s3 : State := { s2 with fleet := { s2.fleet with setup := some rc, acks := [], forwarded := [] } }
  s3.setJob .setup 0 0

/-- DEDUCED, assumption 52. -/
def execJobSetup (seq : Dword) (hostErr : Bool) (s : State) : Res :=
  s.runCmd seq 0x10 (fun c =>
    let r := s.hostRead (field c.payload 0 8) 128
    if hostErr then s.complete c.seq stHostError 0
    else if setupBad r then s.complete c.seq 0x0020 0
    else if s.fleet.job ≠ .none ∧ s.fleet.job ≠ .aborted then s.complete c.seq 0x0021 0
    else (s.storeSetup r).complete c.seq 0 0)

/-- The root sends PREPARE to its children; a root without any commits at once. (DEDUCED, assumption 51) -/
def execStartJob (seq : Dword) (s : State) : Res :=
  s.runCmd seq 0x11 (fun c =>
    match s.fleet.setup with
    | none => s.complete c.seq 0x0021 0
    | some r =>
      let s1 := s.started c.seq 0
      if !r.root ∨ s.fleet.job ≠ .setup then s.complete c.seq 0x0021 0
      else if s.tStart < s.beat.toNat + 199 then s1.abortJob 8 0 true
      else if r.children = [] then s1.commitJob
      else
        let s2 := s1.sendSync r.children (s1.startMsg 1 0 0)
        ({ s2 with fleet := { s2.fleet with acks := [] } } : State).setJob .preparing 0 0)

/-- DEDUCED, assumption 51. -/
def execJobClear (seq : Dword) (s : State) : Res :=
  s.runCmd seq 0x13 (fun c =>
    match s.fleet.job with
    | .running | .fenced | .aborted | .setup => s.clearJob.complete c.seq 0 0
    | .none => s.complete c.seq 0 0
    | _ => s.complete c.seq 0x0021 0)

/-- Beat T_START begins on a COMMITTED module: RUNNING, and the first replay of the first segment has it as its base beat. -/
def execJobRun (s : State) : Res :=
  if s.fleet.job = .committed ∧ s.gateOpen s.tStart then
    let s1 := s.setJob .running 0 0
    match s.fleet.setup with
    | some r => match s.findSeg (BitVec.ofNat 16 (r.segs.headD 0xFFFF)) with
      | some g => .next (s1.release g 1 s.tStart 0 none)
      | none => .next s1
    | none => .next s1
  else .next s

/-- ACTION: posted, and with FWD sent on to the children and secondary children. (DEDUCED, assumption 50) -/
def execAction (seq : Dword) (s : State) : Res :=
  s.runCmd seq 0x12 (fun c =>
    let f := field c.payload
    let s1 := (s.started c.seq 0).postAction c.acceptBeat { kind := f 0 1, beat := f 8 8, arg := f 0x10 8, cmd := some c.seq }
    if f 1 1 = 1 then
      match s.fleet.setup with
      | some r => s1.sendSync r.below
          { job := s.jobId, op := 6, reason := 0, srank := s.ownRank, beat := f 8 8, tag := (s.reg (mgtReg 0xA010)).toNat
            orank := f 0 1, arg := f 0x10 8 }
      | none => s1
    else s1)

/-! ## Tile fences and the power cap -/

def execFenceTile (seq : Dword) (s : State) : Res :=
  s.runCmd seq 0x20 (fun c =>
    let t := field c.payload 0 2
    if !s.tileOk t then s.complete c.seq stUnitAbsent 0
    else
      let s1 := s.started c.seq 0
      { s1 with host := { s1.host with fences := s1.host.fences ++ [{ tile := t, beat := field c.payload 8 8, seq := c.seq }] } })

/-- REINSTATE_TILE: a FENCED Colander becomes PENDING to the beat; an OPEN one has nothing to do; one already PENDING refuses. -/
def execReinstateTile (seq : Dword) (s : State) : Res :=
  s.runCmd seq 0x21 (fun c =>
    let t := field c.payload 0 2
    let r := s.router t
    if !s.tileOk t then s.complete c.seq stUnitAbsent 0
    else match r.col with
      | .opened => s.complete c.seq 0 0
      | .pendingTo _ => s.complete c.seq stReinstateFailed 0
      | .fenced =>
        let s1 := (s.started c.seq 0).setRouter t { r with col := .pendingTo (BitVec.ofNat 48 (field c.payload 8 8)) }
        { s1 with host := { s1.host with reinstates := smSet s1.host.reinstates t c.seq } })

/-- DESIGN CHOICE, assumption 56. -/
def execPowerCap (seq : Dword) (s : State) : Res :=
  s.runCmd seq 0x23 (fun c =>
    (s.setReg (pwrReg 4) (BitVec.ofNat 32 (field c.payload 0 2 + field c.payload 2 2 * 2 ^ 16))).complete c.seq 0 0)

end Sys2Proof.Machine
end

