-- ==== Sys2Proof/Machine/Requests.lean ====
section
/-!
DEFINITION. Requests: records, token rings, page groups, counts, and how a request pauses, resumes and ends (R300 to R302, R306 to R310,
R314).
-/

namespace Sys2Proof.Machine

open Sys2Proof

/-! ## Serving status codes (R317) -/

def stHandleBusy : Nat := 0x0100
def stHandleState : Nat := 0x0101
def stModelNotReady : Nat := 0x0102
def stBadParam : Nat := 0x0103
def stContextLimit : Nat := 0x0104
def stNoPages : Nat := 0x0105
def stContextDigest : Nat := 0x0106
def stContextMismatch : Nat := 0x0107
def stBufferSmall : Nat := 0x0108

/-! ## Access -/

def State.req (s : State) (h : Nat) : Req := smGet s.srv.reqs h Req.free

def State.setReq (s : State) (h : Nat) (q : Req) : State :=
  { s with srv := { s.srv with reqs := if q = Req.free then smDel s.srv.reqs h else smSet s.srv.reqs h q } }

def State.modReq (s : State) (h : Nat) (f : Req → Req) : State := s.setReq h (f (s.req h))

def State.slotOf (s : State) (m : Nat) : ModelSlot := smGet s.wgt.slots m ModelSlot.reset
def State.setSlot (s : State) (m : Nat) (x : ModelSlot) : State := { s with wgt := { s.wgt with slots := smSet s.wgt.slots m x } }

def State.modServing (s : State) (m : Nat) (f : Serving → Serving) : State := s.setServing m (f (s.serving m))

/-- Handles of a model that are not FREE. -/
def State.handlesOf (s : State) (m : Nat) : List Nat := (s.srv.reqs.filter (fun q => q.2.st ≠ .free && q.2.model = m)).map (fun q => q.1)

/-! ## The request record (R302) -/

def word32 (n : Nat) : Word := BitVec.ofNat 32 n

def fpFinite (w : Word) : Bool := fieldOf w.toNat 23 8 ≠ 255
def fpNeg (w : Word) : Bool := fieldOf w.toNat 31 1 = 1
def fpZero (w : Word) : Bool := w.toNat % 2 ^ 31 = 0
/-- Finite and at least 0; finite and greater than 0; at most 1.0. -/
def fpNonneg (w : Word) : Bool := fpFinite w && (!fpNeg w || fpZero w)
def fpPos (w : Word) : Bool := fpFinite w && !fpNeg w && !fpZero w
def fpUnit (w : Word) : Bool := fpNonneg w && decide (w.toNat % 2 ^ 31 ≤ 0x3F800000)

def recBias (r : List Byte) : List (Nat × Word) :=
  (fromTo 0 (field r 0x19 1)).map (fun i => (field r (0x80 + 8 * i) 4, word32 (field r (0x84 + 8 * i) 4)))

def recStops (r : List Byte) : List (List Nat) :=
  (fromTo 0 (field r 0x1A 1)).map (fun i => (fromTo 0 (field r (0x280 + 72 * i) 4)).map (fun j => field r (0x284 + 72 * i + 4 * j) 4))

def recParams (r : List Byte) : ReqParams :=
  let f := field r
  { policy := f 2 1, keep := fieldOf (f 3 1) 1 1 = 1, countPrompt := fieldOf (f 3 1) 2 1 = 1, nprompt := f 4 4, prompt := f 8 8, ring := f 0x10 8
    ringLog := f 0x18 1, vector := f 0x1C 2, hotPages := f 0x1E 2, seed := f 0x20 8, deadline := f 0x28 8, maxNew := f 0x30 4
    temp := word32 (f 0x34 4), topk := f 0x38 4, topp := word32 (f 0x3C 4), minp := word32 (f 0x40 4), pres := word32 (f 0x44 4)
    freq := word32 (f 0x48 4), rep := word32 (f 0x4C 4), bias := recBias r, stops := recStops r }

def recContinue (r : List Byte) : Bool := field r 3 1 % 2 = 1
def recModel (r : List Byte) : Nat := field r 0 1

/-- Ranges, reserved bytes, and the FP32 fields that must be finite. -/
def recBad (r : List Byte) : Bool :=
  let f := field r
  let p := recParams r
  let ok :=
    zeroOutside r [(0, 0x1B), (0x1C, 0x34), (0x80, 0x440)] && decide (f 0 1 < 8) && decide (f 1 1 < 4) && decide (f 2 1 < 3) && decide (f 3 1 < 8) &&
    decide (p.nprompt ≤ 1048575) && (recContinue r || decide (1 ≤ p.nprompt)) && aligned r 8 64 && aligned r 0x10 64 &&
    decide (4 ≤ p.ringLog) && decide (p.ringLog ≤ 16) && decide (f 0x19 1 ≤ 64) && decide (f 0x1A 1 ≤ 8) && decide (2 ≤ p.vector) &&
    decide (p.vector ≤ 2047) && decide (p.deadline < 2 ^ 48) && decide (1 ≤ p.maxNew) && decide (p.maxNew ≤ 1048576) && fpNonneg p.temp &&
    decide (p.topk ≤ 1024) && fpPos p.topp && fpUnit p.topp && fpUnit p.minp && fpFinite p.pres && fpFinite p.freq && fpPos p.rep &&
    p.bias.all (fun b => fpFinite b.2) &&
    (fromTo 0 (f 0x1A 1)).all (fun i => decide (1 ≤ f (0x280 + 72 * i) 4) && decide (f (0x280 + 72 * i) 4 ≤ 16)) &&
    (fromTo 0 8).all (fun i => f (0x280 + 72 * i + 68) 4 = 0)
  !ok

/-! ## Token rings (R294, R303, R307) -/

/-- PROD − C modulo 2^32. -/
def State.ringHeld (s : State) (h : Nat) : Nat :=
  let c := (smGet s.host.tokenCons h 0).toNat
  ((s.req h).prod % 2 ^ 32 + 2 ^ 32 - c) % 2 ^ 32

def State.ringFree (s : State) (h : Nat) : Nat := 2 ^ (s.req h).p.ringLog - s.ringHeld h

/-- Counts a consumer index found ahead of PROD. -/
def State.noteRing (s : State) (h : Nat) : State := if 2 ^ (s.req h).p.ringLog < s.ringHeld h then s.bump (srvReg 0xA8) 1 else s

/-- Bytes for host memory, which HL0 writes at the end of the boundary (R306, order 8). -/
def State.hostLater (s : State) (a : Nat) (bs : List Byte) : State := { s with srv := { s.srv with ringOut := s.srv.ringOut ++ [(a, bs)] } }

/-- A token ring entry and PROD, to be written at the end of the boundary; flags: 1 LATE, 2 STOP, 4 LAST, 8 CANCELLED, 16 ERR. -/
def State.ringWrite (s : State) (h token pos flags : Nat) : State :=
  let q := s.req h
  let e := leBytes 4 (token % 2 ^ 18) ++ leBytes 4 (pos % 2 ^ 20) ++ leBytes 2 flags ++ leBytes 2 0 ++ leBytes 4 s.beat.toNat
  let s1 := (s.hostLater (q.p.ring + 64 + 16 * (q.prod % 2 ^ q.p.ringLog)) e).hostLater q.p.ring (leBytes 4 (q.prod + 1))
  let s2 := if flags % 2 = 1 then s1.bump (srvReg 0xA0) 1 else s1
  let s3 := s2.modReq h (fun r => { r with prod := (r.prod + 1) % 2 ^ 32 })
  { s3 with srv := { s3.srv with ringVecs := if s3.srv.ringVecs.contains q.p.vector then s3.srv.ringVecs else s3.srv.ringVecs ++ [q.p.vector] } }

/-! ## Page groups (R308, R309) -/

def State.layersOf (s : State) (m : Nat) : Nat := match (s.slotOf m).man with | some x => x.tiers.length | none => 0
def State.familyOf (s : State) (m : Nat) : Nat := match (s.slotOf m).man with | some x => x.family | none => 0

/-- Layers × KV heads, and GROUP_BYTES. -/
def State.poolsOf (s : State) (m : Nat) : Nat := s.layersOf m * Config.kvHeads (s.familyOf m)
def State.pageOf (s : State) (m : Nat) : Nat := Config.pageBytes (s.familyOf m)
def State.groupBytes (s : State) (m : Nat) : Nat := s.poolsOf m * s.pageOf m + 256

/-- Device address of the page of pool k in frame f of vault v; that of a token block. -/
def State.poolAddr (s : State) (m v k f : Nat) : Nat :=
  let x := s.serving m
  v * vaultSize + x.area + 0x10000 + k * x.frames * s.pageOf m + f * s.pageOf m
def State.blockAddr (s : State) (m v f : Nat) : Nat :=
  let x := s.serving m
  v * vaultSize + x.area + 0x10000 + s.poolsOf m * x.frames * s.pageOf m + 256 * f

/-! Parts of a serving area that follow the pools and token blocks: a page-table piece for each frame, of an entry for each page of a run; a count table
for each handle of the vault; in V0 the token IDs of the step's chunks. The manual names these parts and gives them no place. (DESIGN CHOICE, assumption
62) -/

def pieceBytes (frames span : Nat) : Nat := (4 * span * frames + 63) / 64 * 64
/-- Handles whose count tables one vault holds. -/
def State.tablesIn (s : State) : Nat := (16384 + s.nClusters - 1) / s.nClusters
/-- Bytes of a serving area. -/
def State.areaBytes (s : State) (m frames span : Nat) : Nat :=
  0x10000 + frames * s.groupBytes m + pieceBytes frames span + 16384 * s.tablesIn + 0x8000

def State.piecesAt (s : State) (m : Nat) : Nat := (s.serving m).area + 0x10000 + (s.serving m).frames * s.groupBytes m
def State.tablesAt (s : State) (m : Nat) : Nat := s.piecesAt m + pieceBytes (s.serving m).frames (s.serving m).span
/-- Device address of the token IDs of a step's chunks: in V0. -/
def State.tokensAt (s : State) (m : Nat) : Nat := s.tablesAt m + 16384 * s.tablesIn

/-- Device address of a request's count table: in vault h mod Nv (R314). -/
def State.countAddr (s : State) (h : Nat) : Nat := h % s.nClusters * vaultSize + s.tablesAt (s.req h).model + 16384 * (h / s.nClusters)

/-- LPDDR6 address of group w of a model's WARM pool (R309). (DESIGN CHOICE, assumption 62) -/
def State.warmAddr (s : State) (m w : Nat) : Nat :=
  let gb := s.groupBytes m
  lpxBase + 64 * (Config.warmPlace m % ((lpxEnd - lpxBase - (s.serving m).warm * gb) / 64 + 1)) + w * gb

/-- Frames of a vault that groups of a model hold. -/
def State.framesHeld (s : State) (m v : Nat) : List Nat :=
  (s.srv.reqs.filter (fun q => q.2.model = m)).flatMap (fun q =>
    (q.2.groups.filter (fun g => g.2.vault = v && g.2.hot)).map (fun g => g.2.frame)) ++
  (s.srv.gone.filter (fun g => g.1 = m && g.2.1 = v)).map (fun g => g.2.2)

/-- Page-table pieces of a vault in use. -/
def State.piecesHeld (s : State) (m v : Nat) : List Nat :=
  (s.srv.reqs.filter (fun q => q.2.model = m)).flatMap (fun q => (q.2.groups.filter (fun g => g.2.vault = v && g.2.hot)).map (fun g => g.2.piece))

/-- Groups of a model's WARM pool in use, or on their way. -/
def State.warmHeld (s : State) (m : Nat) : List Nat :=
  (s.srv.reqs.filter (fun q => q.2.model = m)).flatMap (fun q => q.2.groups.filterMap (fun g => g.2.warm))

/-- The least number below `lim` that a list does not hold. (DESIGN CHOICE, assumption 61) -/
def leastFree (used : List Nat) (lim : Nat) : Option Nat := (fromTo 0 (min lim (used.length + 1))).find? (fun f => !used.contains f)

/-- Vault and frame for page group i of a request: vault (h + i div SPAN) mod Nv, or the next upward with a free frame. (DESIGN CHOICE, assumption 61) -/
def State.placeGroup (s : State) (m h i : Nat) : Option (Nat × Nat) :=
  let x := s.serving m
  let first := (h + i / x.span) % s.nClusters
  ((fromTo first s.nClusters).map (fun v => v % s.nClusters)).findSome? (fun v => (leastFree (s.framesHeld m v) x.frames).map (fun f => (v, f)))

/-- The page-table piece for page i of a request in vault v: that of its run of SPAN pages there, or a free one (R308). -/
def State.pieceFor (s : State) (m h i v : Nat) : Nat :=
  let span := (s.serving m).span
  match (s.req h).groups.find? (fun g => g.2.hot && g.2.vault = v && g.1 / span = i / span) with
  | some g => g.2.piece
  | none => (leastFree (s.piecesHeld m v) (s.serving m).frames).getD 0

/-- The page-table entry of page i is written: at PT_BASE + 4i, PT_BASE being the piece's place less 4 × the first page of its run (R156, R308). -/
def State.writePt (s : State) (m i : Nat) (g : PageGroup) (e : Nat) : State :=
  let span := (s.serving m).span
  s.ermStore (g.vault * vaultSize + s.piecesAt m + 4 * span * g.piece + 4 * (i % span)) (leBytes 4 e)

/-- Page group i of request h, given a frame if it has none; none where no frame is free. -/
def State.giveGroup (s : State) (h i : Nat) : Option State :=
  let q := s.req h
  if (smFind q.groups i).isSome then some s
  else match s.placeGroup q.model h i with
    | none => none
    | some (v, f) =>
      let g : PageGroup := { vault := v, frame := f, piece := s.pieceFor q.model h i v, hot := true, warm := none }
      some ((s.setReq h { q with groups := smSet q.groups i g }).writePt q.model i g (2 ^ 31 + f))

/-- As many of the groups i, i + 1, … as can be had, at most n of them: the state, and how many. (DESIGN CHOICE, assumption 61) -/
def State.giveGroups (s : State) (h : Nat) : Nat → Nat → State × Nat
  | _, 0 => (s, 0)
  | i, n + 1 => match s.giveGroup h i with
    | none => (s, 0)
    | some s1 => let r := s1.giveGroups h (i + 1) n; (r.1, r.2 + 1)

/-- DESIGN CHOICE, assumption 61. -/
def State.freeGroups (s : State) (h : Nat) (which : Nat → Bool) : State :=
  let q := s.req h
  let gone := q.groups.filter (fun g => which g.1)
  gone.foldl (fun (x : State) g => if g.2.hot then x.writePt q.model g.1 g.2 0 else x)
    (s.setReq h { q with groups := q.groups.filter (fun g => !which g.1) })

/-- Device ranges of a group, in the order of a context image: KV pages by layer, then head, then the token block; in LPDDR6 one after another. -/
def State.groupRanges (s : State) (m : Nat) (g : PageGroup) : List (Nat × Nat) :=
  if g.hot then
    (fromTo 0 (s.poolsOf m)).map (fun k => (s.poolAddr m g.vault k g.frame, s.pageOf m)) ++ [(s.blockAddr m g.vault g.frame, 256)]
  else [(s.warmAddr m (g.warm.getD 0), s.groupBytes m)]

/-- Device address of the token at a position of its group's token block. -/
def State.tokenAt (s : State) (m : Nat) (g : PageGroup) (pos : Nat) : Nat :=
  (if g.hot then s.blockAddr m g.vault g.frame else s.warmAddr m (g.warm.getD 0) + (s.groupBytes m - 256)) + 4 * (pos % 64)

/-- The token at a position is put into its token block, if its group exists. -/
def State.putToken (s : State) (h pos token : Nat) : State :=
  match smFind (s.req h).groups (pos / 64) with
  | none => s
  | some g => s.ermStore (s.tokenAt (s.req h).model g pos) (leBytes 4 token)

/-- The token at a position, read from its token block with the memory's correction; of a poisoned word the token is free. (DESIGN CHOICE, assumption 62) -/
def State.getToken (s : State) (h pos : Nat) : State × Nat :=
  match smFind (s.req h).groups (pos / 64) with
  | none => (s, 0)
  | some g =>
    let a := s.tokenAt (s.req h).model g pos
    let c := s.ermCheck a 4
    if c.2 = [] then (c.1, c.1.dvNat a 4)
    else ({ c.1 with freeCtr := c.1.freeCtr + 1 }, (Config.undefWord c.1.freeCtr).toNat % 2 ^ 18)

/-- Tokens at several positions, read in order. -/
def State.getTokens (s : State) (h : Nat) (ps : List Nat) : State × List Nat :=
  ps.foldl (fun (a : State × List Nat) i => let r := a.1.getToken h i; (r.1, a.2 ++ [r.2])) (s, [])

/-- Reads a page group; bytes of poisoned codewords are free. -/
def State.readGroup (s : State) (m : Nat) (g : PageGroup) : State × List Byte :=
  (s.groupRanges m g).foldl (fun (a : State × List Byte) r =>
    let c := a.1.ermCheck r.1 r.2
    let d := (c.1.freeCtr, c.1.dvRead r.1 r.2)
    let bs := (d.2.zipIdx).map (fun b => if c.2.contains ((r.1 + b.2) / 64) then Config.undefByte d.1 b.2 else b.1)
    (if c.2 = [] then c.1 else { c.1 with freeCtr := c.1.freeCtr + 1 }, a.2 ++ bs)) (s, [])

/-- Fills a group from its bytes. -/
def State.writeGroup (s : State) (m : Nat) (g : PageGroup) (bs : List Byte) : State :=
  ((s.groupRanges m g).foldl (fun (a : State × List Byte) r => (a.1.ermStore r.1 (a.2.take r.2), a.2.drop r.2)) (s, bs)).1

/-- Copies a HOT group to its group of the WARM pool, poison with it (R309). -/
def State.copyGroup (s : State) (m : Nat) (g : PageGroup) : State :=
  ((s.groupRanges m g).foldl (fun (a : State × Nat) r =>
    let c := a.1.ermCheck r.1 r.2
    ((c.1.ermStore a.2 (c.1.dvRead r.1 r.2)).copyPoison r.1 a.2 c.2, a.2 + r.2)) (s, s.warmAddr m (g.warm.getD 0))).1

/-! ## Counts (R314) -/

/-- An entry of a count table: token in bits 31:14, count in bits 13:0. -/
def countEntry (c : Nat × Nat) : List Byte := leBytes 4 (c.1 * 2 ^ 14 + c.2)

/-- The entries used of a request's count table, read in its vault: a word of a poisoned codeword is free. (DESIGN CHOICE, assumption 62) -/
def State.countsOf (s : State) (h : Nat) : State × List (Nat × Nat) :=
  let n := (s.req h).counts
  let a := s.countAddr h
  let c := s.ermCheck a (4 * n)
  let ws := ((chunksOf 4 (n + 1) (c.1.dvRead a (4 * n))).zipIdx).map (fun w =>
    if c.2.contains ((a + 4 * w.2) / 64) then (Config.undefWord (c.1.freeCtr + w.2)).toNat else leNat w.1)
  (if c.2 = [] then c.1 else { c.1 with freeCtr := c.1.freeCtr + n }, ws.map (fun w => (w / 2 ^ 14, w % 2 ^ 14)))

/-- The count table is written anew. -/
def State.setCounts (s : State) (h : Nat) (cs : List (Nat × Nat)) : State :=
  (s.ermStore (s.countAddr h) (cs.flatMap countEntry)).modReq h (fun q => { q with counts := cs.length })

/-- One token counted for a request. -/
def State.countToken (s : State) (h pos token : Nat) : State :=
  let t := token % 2 ^ 18
  let r := s.countsOf h
  let q := r.1.req h
  let put (i k : Nat) : State := r.1.ermStore (r.1.countAddr h + 4 * i) (countEntry (t, k))
  match (r.2.zipIdx).find? (fun c => c.1.1 = t) with
  | some c => (put c.2 (min 16383 (c.1.2 + 1))).modReq h (fun x => { x with counted := x.counted ++ [pos] })
  | none =>
    if q.counts < 4096 then (put q.counts 1).modReq h (fun x => { x with counts := x.counts + 1, counted := x.counted ++ [pos] })
    else
      let s1 := r.1.setReq h { q with countOvf := true }
      if q.countOvf then s1 else s1.raise 0x104 h

/-- One count of a token taken back; an entry at 0 goes. -/
def uncount (counts : List (Nat × Nat)) (token : Nat) : List (Nat × Nat) :=
  (counts.map (fun c => if c.1 = token % 2 ^ 18 then (c.1, c.2 - 1) else c)).filter (fun c => c.2 ≠ 0)

/-! ## Pausing, resuming, ending (R301) -/

def reasonMask (rs : List Nat) : Nat := rs.foldl (fun a r => a + 2 ^ r) 0

def withReason (rs : List Nat) (r : Nat) : List Nat := (fromTo 0 7).filter (fun i => rs.contains i || i = r)

def State.dequeue (s : State) (m h r : Nat) : State :=
  if r = 1 then s.modServing m (fun x => { x with latQ := x.latQ.erase h })
  else if r = 2 ∨ r = 4 then
    (if (s.req h).reasons.contains 2 || (s.req h).reasons.contains 4 then s else s.modServing m (fun x => { x with heldQ := x.heldQ.erase h }))
  else s

def State.joinQueue (s : State) (m h r : Nat) : State :=
  let add (l : List Nat) : List Nat := if l.contains h then l else l ++ [h]
  if r = 1 then (s.modServing m (fun x => { x with latQ := add x.latQ })).bump (srvReg 0xA4) 1
  else if r = 2 ∨ r = 4 then s.modServing m (fun x => { x with heldQ := add x.heldQ })
  else s

/-- A pause reason is set on an ACTIVE or PAUSED request. (DEDUCED, assumption 64) -/
def State.pauseReq (s : State) (h r : Nat) : State :=
  let q := s.req h
  if q.st ≠ .active ∧ q.st ≠ .paused then s
  else
    let q1 := { q with st := .paused, reasons := withReason q.reasons r }
    let s1 := (s.setReq h q1).joinQueue q.model h r
    if q.st = .active then s1.raise 0x102 (h + reasonMask q1.reasons * 2 ^ 16) else s1

/-- A pause reason clears; with the last one the request becomes ACTIVE. -/
def State.clearReason (s : State) (h r : Nat) : State :=
  let q := s.req h
  if q.st ≠ .paused ∨ !q.reasons.contains r then s
  else
    let rs := q.reasons.erase r
    let s1 := (s.setReq h { q with st := if rs = [] then .active else .paused, reasons := rs }).dequeue q.model h r
    if rs = [] then s1.raise 0x103 h else s1

/-- A request leaves the queues of its model. -/
def State.unqueue (s : State) (h : Nat) : State :=
  s.modServing (s.req h).model (fun x => { x with latQ := x.latQ.erase h, heldQ := x.heldQ.erase h })

/-- The handle becomes FREE, its count table with it; the frames of its pages are free only at order 6 of the boundary (R306). -/
def State.freeReq (s : State) (h : Nat) : State :=
  let q := s.req h
  let hot := (q.groups.filter (fun g => g.2.hot)).map (fun g => (q.model, g.2.vault, g.2.frame))
  let s1 := ((s.unqueue h).freeGroups h (fun _ => true)).setReq h Req.free
  { s1 with srv := { s1.srv with gone := s1.srv.gone ++ hot } }

/-- Order 6 of a boundary: the pages of a model's ended and cancelled requests are free. -/
def State.freeGone (s : State) (m : Nat) : State := { s with srv := { s.srv with gone := s.srv.gone.filter (fun g => g.1 ≠ m) } }

def State.tracked (s : State) : Bool := s.fld (srvReg 0) 31 1 = 1

/-- DETAIL of REQ_END: reasons 1 STOP, 2 MAX_TOKENS, 3 CONTEXT_FULL, 4 CANCELLED, 5 DEADLINE, 6 ERROR. -/
def State.endDetail (s : State) (h reason : Nat) : Nat :=
  let q := s.req h
  let m (v : Option Nat) : Nat := if s.tracked then v.getD 0xFFFFFFFF % 2 ^ 32 else 0xFFFFFFFF
  h + reason * 2 ^ 16 + m q.ttft * 2 ^ 32 + m q.maxTbt * 2 ^ 64 + q.gen.length * 2 ^ 96

/-- A request ends. One that ends with its final token is HELD with KEEP; any other is freed. (DEDUCED, assumption 63) -/
def State.endReq (s : State) (h reason : Nat) (final : Bool) : State :=
  let s1 := s.raise 0x101 (s.endDetail h reason)
  let q := s1.req h
  if final && q.p.keep then (s1.unqueue h).setReq h { q with st := .held, reasons := [] }
  else s1.freeReq h

/-! ## Committing tokens (R306, R315) -/

/-- The last tokens generated complete a stop sequence. -/
def stopsAt (gen : List Nat) (stops : List (List Nat)) : Bool :=
  stops.any (fun x => decide (x.length ≤ gen.length) && gen.drop (gen.length - x.length) = x)

/-- The boundary's beat lies above the request's deadline (R306). -/
def State.isLate (s : State) (h : Nat) : Bool := (s.req h).p.deadline ≠ 0 && decide ((s.req h).p.deadline < s.beat.toNat)

/-- The token of the position after the committed length is committed: entry, count, endings. TTFT is that of the first token generated (R304, R306). -/
def State.commitToken (s : State) (h token : Nat) : State :=
  let q := s.req h
  let b := s.beat.toNat
  let gen := q.gen ++ [token]
  let gap := match q.lastTok with
    | some t => some (max (q.maxTbt.getD 0) (b - t))
    | none => q.maxTbt
  let q1 := { q with
    pending := token, gen := gen, lastTok := some b
    ttft := if s.tracked && q.gen = [] && q.ttft.isNone then some (b - q.accept) else q.ttft
    maxTbt := if s.tracked then gap else q.maxTbt }
  let stop := stopsAt gen q.p.stops
  let full := decide (1048575 ≤ q.n)
  let last := stop || decide (q.p.maxNew ≤ gen.length) || full
  let s1 := ((s.setReq h q1).putToken h q.n token).countToken h q.n token
  let s2 := s1.ringWrite h token q.n (bit (s.isLate h) + 2 * bit stop + 4 * bit last)
  if last then s2.endReq h (if stop then 1 else if q.p.maxNew ≤ gen.length then 2 else 3) true else s2

/-- What a late entry without LAST brings upon its request: POLICY 1 pauses it with DEADLINE, 2 ends it with a further entry (R306, order 3). -/
def State.applyPolicy (s : State) (h : Nat) : State :=
  let q := s.req h
  if q.st ≠ .active ∨ !s.isLate h then s
  else if q.p.policy = 1 then s.pauseReq h 3
  else if q.p.policy = 2 then (s.ringWrite h 0 (q.n + 1) 12).endReq h 5 false
  else s

/-- The draw of a request's token failed. -/
def State.failToken (s : State) (h : Nat) : State := (s.ringWrite h 0 (s.req h).n 20).endReq h 6 false

/-- Host sampling: the row goes to the request's host sampling area and the request pauses with SAMPLE (R316). -/
def State.sampleOut (s : State) (m h step : Nat) (logits : List Word) : State :=
  let q := s.req h
  let a := (q.p.prompt + 4 * q.p.nprompt + 63) / 64 * 64
  let head := leBytes 2 h ++ [BitVec.ofNat 8 m, 0] ++ leBytes 4 step ++ leBytes 4 q.n ++ leBytes 4 logits.length ++ List.replicate 16 0
  ((s.hostLater a (head ++ logits.flatMap (fun w => leBytes 4 w.toNat))).setReq h { q with vocab := logits.length }).pauseReq h 6

end Sys2Proof.Machine
end

