-- ==== Sys2Proof/Machine/Sampling.lean ====
section
/-!
DEFINITION. Drawing a token from a row of logits (R315), and the Sieve that does it (R313).
-/

namespace Sys2Proof.Machine

open Sys2Proof

/-! ## Rank order -/

def fLt (a b : Word) : Bool := (decF32 a).lt (decF32 b)
/-- Numeric equality: −0 equals +0. -/
def fEq (a b : Word) : Bool := a = b || (fpZero a && fpZero b)

/-- (token, value): `a` stands before `b` in rank order, value descending, then token ascending. -/
def ranks (a b : Nat × Word) : Bool := if fEq a.2 b.2 then decide (a.1 ≤ b.1) else fLt b.2 a.2

def mergeRank : Nat → List (Nat × Word) → List (Nat × Word) → List (Nat × Word)
  | 0, a, b => a ++ b
  | _ + 1, [], b => b
  | _ + 1, a, [] => a
  | n + 1, x :: a, y :: b => if ranks x y then x :: mergeRank n a (y :: b) else y :: mergeRank n (x :: a) b

def mergePairs : List (List (Nat × Word)) → List (List (Nat × Word))
  | a :: b :: r => mergeRank (a.length + b.length) a b :: mergePairs r
  | l => l

def mergeAll : Nat → List (List (Nat × Word)) → List (Nat × Word)
  | 0, l => l.flatten
  | n + 1, l => mergeAll n (mergePairs l)

def rankSort (l : List (Nat × Word)) : List (Nat × Word) := mergeAll 20 (l.map (fun x => [x]))

/-! ## Philox-4x32-10 -/

/-- One round on counter and key words. -/
def philoxRound (c : Nat × Nat × Nat × Nat) (k : Nat × Nat) : Nat × Nat × Nat × Nat :=
  let a := 0xD2511F53 * c.1
  let b := 0xCD9E8D57 * c.2.2.1
  (b / 2 ^ 32 ^^^ c.2.1 ^^^ k.1, b % 2 ^ 32, a / 2 ^ 32 ^^^ c.2.2.2 ^^^ k.2, a % 2 ^ 32)

def philoxRounds : Nat → Nat × Nat × Nat × Nat → Nat × Nat → Nat × Nat × Nat × Nat
  | 0, c, _ => c
  | n + 1, c, k => philoxRounds n (philoxRound c k) ((k.1 + 0x9E3779B9) % 2 ^ 32, (k.2 + 0xBB67AE85) % 2 ^ 32)

/-- Word 0 for a seed and a position. -/
def philox0 (seed pos : Nat) : Nat := (philoxRounds 10 (pos % 2 ^ 32, 0, 0, 0) (seed % 2 ^ 32, seed / 2 ^ 32 % 2 ^ 32)).1

/-! ## The draw -/

def biasRow (xs : List Word) (bias : List (Nat × Word)) : List Word :=
  bias.foldl (fun l b => match l[b.1]? with
    | some x => l.set b.1 (f32add x b.2)
    | none => l) xs

/-- FP32 of a count. -/
def countF32 (c : Nat) : Word := toF32 (.fin false c 0)

def penalise (p : ReqParams) (counts : List (Nat × Nat)) (xs : List Word) : List Word :=
  let rinv := sfRcp p.rep
  counts.foldl (fun l c => match l[c.1]? with
    | some x =>
      let x1 := if p.rep = 0x3F800000 then x else if fLt 0 x && !fpZero x then f32mul x rinv else f32mul x p.rep
      l.set c.1 (f32sub x1 (f32fma (countF32 c.2) p.freq p.pres))
    | none => l) xs

/-- Walks tokens with r := r + e until `stop` holds after a token: the tokens walked, that one included. -/
def walkUntil (stop : Word → Bool) : Word → List (Nat × Word) → List (Nat × Word)
  | _, [] => []
  | r, x :: rest => let r1 := f32add r x.2; if stop r1 then [x] else x :: walkUntil stop r1 rest

/-- Sum over the kept tokens by the canonical tree over 2^18 places, +0 elsewhere. -/
def treeSum (v : Nat) (es : List Word) (keep : List Nat) : Word :=
  treeFold f32add 18 (((es.take v).zipIdx).map (fun e => if keep.contains e.2 then e.1 else 0))

/-- R315 on a row whose logits `xs` have V entries: the token, or none where the draw fails. `n` is its position. -/
def drawToken (p : ReqParams) (counts : List (Nat × Nat)) (n : Nat) (logits : List Word) : Option Nat :=
  let xs := penalise p counts (biasRow logits p.bias)
  let m := xs.foldl f32max negInf
  if xs = [] ∨ xs.any (fun x => (decF32 x).isNan) ∨ !fpFinite m then none
  else if fpZero p.temp then ((xs.zipIdx).find? (fun x => fEq x.1 m)).map (fun x => x.2)
  else
    let g := f32mul 0x3FB8AA3B (sfRcp p.temp)
    let ys := xs.map (fun x => f32mul (f32sub x m) g)
    let ranked := rankSort ((ys.zipIdx).map (fun y => (y.2, y.1)))
    let top := if 0 < p.topk then ranked.take p.topk else ranked
    let ids := top.map (fun y => y.1)
    let keptAt := (List.replicate ys.length false).zipIdx.map (fun i => ids.contains i.2)
    let es := (ys.zip keptAt).map (fun y => if y.2 then sfExp2 y.1 else 0)
    let withE := top.map (fun y => (y.1, es.getD y.1 0))
    let k1 :=
      if fLt p.topp 0x3F800000 then
        let s := treeFold f32add 18 es
        let lim := f32mul p.topp s
        walkUntil (fun r => !fLt r lim) 0 withE
      else withE
    let k2 := if fLt 0 p.minp && !fpZero p.minp then k1.filter (fun y => !fLt y.2 p.minp || fEq y.2 p.minp) else k1
    let kept := k2.map (fun y => y.1)
    let s' := treeSum ys.length es kept
    let u := toF32 (.fin false (philox0 p.seed n / 256) (-24))
    let target := f32mul u s'
    let asc := ((es.zipIdx).filter (fun e => kept.contains e.2)).map (fun e => (e.2, e.1))
    match (walkUntil (fun r => fLt target r && !fEq target r) 0 asc).getLast? with
    | some y => some y.1
    | none => none

/-! ## The Sieve (R313) -/

structure Slice where
  handle : Nat
  model : Nat
  step : Nat
  vbase : Nat
  vcount : Nat
  vocab : Nat
  rsvd : Bool
  logits : List Word

def sliceOf (bs : List Byte) : Slice :=
  let f := field bs
  { handle := f 0 2 % 2 ^ 14, model := f 2 1 % 8, step := f 4 4, vbase := f 8 4, vcount := f 0xC 4, vocab := f 0x10 4
    rsvd := f 0 2 / 2 ^ 14 ≠ 0 || f 2 1 / 8 ≠ 0 || f 3 1 ≠ 0 || f 0x14 12 ≠ 0
    logits := wordsOf ((bs.length - 32) / 4) (bs.drop 32) }

/-- Bytes of the slice that a header announces. -/
def sliceNeed (bs : List Byte) : Nat := 32 + 4 * field bs 0xC 4

/-- DESIGN CHOICE, assumption 26. -/
def gatherSlice (flow : Nat) (free : Nat → Nat → Byte) : List Packet → Nat → List Byte → Option (Nat × List Byte)
  | [], _, _ => none
  | p :: rest, n, bs =>
    if hFlow p.hdr ≠ flow then some (n, bs)
    else
      let bs1 := bs ++ (p.data.zipIdx).flatMap (fun f =>
        if f.1.2 then (fromTo 0 32).map (fun i => free n (32 * f.2 + i)) else flitBytes f.1.1)
      if (32 ≤ bs1.length ∧ sliceNeed bs1 ≤ bs1.length) ∨ hLast p.hdr then some (n + 1, bs1)
      else gatherSlice flow free rest (n + 1) bs1

/-- A row fault: recorded, counted, its draw failed (R313). (DEDUCED, assumption 68) -/
def State.sieveFault (s : State) (reason handle : Nat) : State :=
  ((((s.setBit (sveReg 8) 30).setReg (sveReg 0xC) (word32 (reason * 2 ^ 24 + handle))).bump (sveReg 0x14) 1).raise 0x105
    (handle + reason * 2 ^ 16))

/-- The Sieve returns a row to the batch former: a token, or that its draw failed. -/
def State.returnRow (s : State) (m h : Nat) (r : Option Nat) : State :=
  s.modServing m (fun x => { x with step := x.step.map (fun t => { t with rows := smSet t.rows h r }) })

/-- A member of the current roster of model m with that step, whose row is to come and has not been returned. -/
def State.rowExpected (s : State) (m h step : Nat) : Bool :=
  match (s.serving m).step with
  | some t => t.num % 2 ^ 32 = step && t.members.any (fun e => e.handle = h && e.kind ≠ 1)
  | none => false

def State.rowReturned (s : State) (m h : Nat) : Bool :=
  match (s.serving m).step with
  | some t => (smFind t.rows h).isSome || s.srv.rows.any (fun r => r.handle = h && r.model = m)
  | none => false

/-- The row in progress is interrupted: it is faulted. (DEDUCED, assumption 68) -/
def State.dropPart (s : State) : State :=
  match s.srv.part with
  | none => s
  | some r => (({ s with srv := { s.srv with part := none } } : State).sieveFault 1 r.handle).returnRow r.model r.handle none

/-- A slice that has come whole, against R313. (DEDUCED, assumption 68) -/
def State.takeSlice (s : State) (c : Slice) (n : Nat) : State :=
  let same : Bool := match s.srv.part with
    | some r => r.handle = c.handle && r.model = c.model
    | none => false
  let s1 := if same then s else s.dropPart
  let part := if same then s.srv.part else none
  let badRow (q : State) (reason : Nat) : State :=
    if same || (q.rowExpected c.model c.handle c.step && !q.rowReturned c.model c.handle) then
      (({ q with srv := { q.srv with part := none } } : State).sieveFault reason c.handle).returnRow c.model c.handle none
    else q.sieveFault reason c.handle
  if s1.rowExpected c.model c.handle c.step && s1.rowReturned c.model c.handle && part.isNone then
    (match (s1.serving c.model).step with
     | some t => if smFind t.rows c.handle = some none then s1 else badRow s1 1
     | none => s1)
  else
    let have' := match part with | some r => r.logits.length | none => 0
    let order := c.vbase ≠ have' || decide (c.vocab < c.vbase + c.vcount) || n ≠ 32 + 4 * c.vcount || c.vcount % 8 ≠ 0 || decide (c.vcount < 8)
    let vocab := c.vocab % 8 ≠ 0 || decide (c.vocab < 8) || decide (262144 < c.vocab) || (match part with | some r => r.vocab ≠ c.vocab | none => false)
    if order then badRow s1 1
    else if !s1.rowExpected c.model c.handle c.step then badRow s1 2
    else if c.rsvd ∨ vocab then badRow s1 3
    else
      let logits := (match part with | some r => r.logits | none => []) ++ c.logits
      let row : SieveRow := { handle := c.handle, model := c.model, vocab := c.vocab, logits := logits }
      if logits.length = c.vocab then { s1 with srv := { s1.srv with part := none, rows := s1.srv.rows ++ [row] } }
      else { s1 with srv := { s1.srv with part := some row } }

/-- The Sieve takes the next slice of its intake, in the window of its owner. It holds two whole rows: a further one waits (counted as a
stall). -/
def execSieveSlice (s : State) : Res :=
  let key := ownKey .sieve
  match smGet s.intakeQ key [] with
  | [] => .next s
  | p :: rest =>
    if !s.full ∨ s.domain 5 0 ≠ .run ∨ s.portVerdict .sieve (hFlow p.hdr) ≠ .forward then .next s
    else match gatherSlice (hFlow p.hdr) (fun a b => Config.undefByte (s.freeCtr + a) b) (p :: rest) 0 [] with
      | none => .next s
      | some (n, bs) =>
        if 2 ≤ s.srv.rows.length then .next (s.bump (sveReg 0x18) 1)
        else
          let took := (p :: rest).take n
          let s1 : State := { s with intakeQ := smSet s.intakeQ key ((p :: rest).drop n), freeCtr := s.freeCtr + n }
          let s2 := s1.takeSlice (sliceOf bs) bs.length
          .next (if took.any (fun q => hLast q.hdr) then s2.endPacketLeft .sieve 0 else s2)

/-- The Sieve draws from the oldest whole row. -/
def execSieveDraw (s : State) : Res :=
  match s.srv.rows with
  | [] => .next s
  | r :: rest =>
    if !s.full ∨ s.domain 5 0 ≠ .run then .next s
    else
      let q := s.req r.handle
      let c := s.countsOf r.handle
      let t := drawToken q.p c.2 (match (s.serving r.model).step with
        | some x => (match x.members.find? (fun e => e.handle = r.handle) with | some e => e.pos + e.npos | none => q.n + 1)
        | none => q.n + 1) r.logits
      let s1 : State := { c.1 with srv := { c.1.srv with rows := rest } }
      let s2 := if t.isNone then s1.bump (sveReg 0x14) 1 else s1.bump (sveReg 0x10) 1
      .next (s2.returnRow r.model r.handle t)

end Sys2Proof.Machine
end

