-- ==== Sys2Proof/Machine/Serving.lean ====
section
/-!
DEFINITION. The serving engine: serving commands, rosters, steps and step boundaries (R301, R303 to R306, R309 to R312, R316, R317, R331,
R334).
-/

namespace Sys2Proof.Machine

open Sys2Proof

/-! ## Forming a roster (R303, R304) -/

/-- Next position a step would compute, and how many positions are left to prefill. -/
def Req.nextPos (q : Req) : Nat := q.redo.getD q.n
def Req.prefillLeft (q : Req) : Nat := match q.redo with | some p => q.n - p | none => q.fillEnd - q.n
def Req.decoding (q : Req) : Bool := q.prefillLeft = 0

/-- Prefill tokens of a roster, and the page groups that a member counts for in a prediction. -/
def prefillOf (r : List Member) : Nat := r.foldl (fun a e => if e.kind = 0 then a else a + e.npos) 0
def Member.pages (e : Member) : Nat := if e.kind = 0 then e.npages else (e.pos + e.npos - 1) / 64 + 1 - e.pos / 64

/-- pred(R) above TBT_GOAL. -/
def State.overGoal (s : State) (r : List Member) : Bool :=
  let c (i : Nat) : Nat := (s.reg (srvReg (0xC + 4 * i))).toNat
  decide (256 * (s.reg (srvReg 8)).toNat < c 0 + c 1 * r.length + c 2 * prefillOf r + c 3 * r.foldl (fun a e => a + e.pages) 0)

def Req.decodeMember (q : Req) (h : Nat) : Member := { handle := h, kind := 0, pos := q.n, npos := 1, token := q.pending, npages := q.n / 64 + 1 }

/-- A chunk of t positions from the next one on. (DESIGN CHOICE, assumption 61) -/
def Req.chunk (q : Req) (h t : Nat) : Member :=
  let p := q.nextPos
  { handle := h, kind := if q.redo.isNone && p + t = q.fillEnd then 2 else 1, pos := p, npos := t, token := 0, npages := (p + t - 1) / 64 + 1 }

/-- A handle with its ring noted joins the roster, or pauses for its ring or its pages; or neither, where the chunk left is empty. -/
def State.formNext (s : State) (l : List Member) (h : Nat) : State × List Member :=
  let q := s.req h
  if s.ringFree h < 2 then (s.pauseReq h 2, l)
  else match s.giveGroup h (q.nextPos / 64) with
    | none => (s.pauseReq h 4, l)
    | some s1 =>
      if q.decoding then (s1, l ++ [q.decodeMember h])
      else
        let p := q.nextPos
        let left := q.prefillLeft
        let t0 := min left (s.fld (srvReg 0) 0 14 - prefillOf l)
        let t1 := if t0 < left then (p + t0) / 64 * 64 - p else t0
        if t1 = 0 then (s, l)
        else
          let need := (p + t1 - 1) / 64 + 1 - p / 64
          let g := s1.giveGroups h (p / 64) need
          let t := if g.2 = need then t1 else (p / 64 + g.2) * 64 - p
          (g.1, l ++ [q.chunk h t])

/-- One candidate of the formation loop. A chunk is cut to the page groups it can have. (DESIGN CHOICE, assumption 61) -/
def State.formOne (a : State × List Member) (h : Nat) : State × List Member :=
  if 2048 ≤ a.2.length then a else (a.1.noteRing h).formNext a.2 h

def insertAdm (s : State) (h : Nat) : List Nat → List Nat
  | [] => [h]
  | x :: r => if (s.req h).adm ≤ (s.req x).adm then h :: x :: r else x :: insertAdm s h r

/-- ACTIVE requests of a model and class, in admission order. -/
def State.activeOf (s : State) (m c : Nat) : List Nat :=
  ((s.handlesOf m).filter (fun h => (s.req h).st = .active && (s.req h).prio = c)).foldl (fun l h => insertAdm s h l) []

/-- RING_FULL and PAGES are looked at again, in the order of pausing. -/
def State.recheckHeld (s : State) (m : Nat) : State :=
  (s.serving m).heldQ.foldl (fun a h =>
    let a1 := if (a.req h).reasons.contains 2 then
        (let b := a.noteRing h; if 2 ≤ b.ringFree h then b.clearReason h 2 else b)
      else a
    if (a1.req h).reasons.contains 4 ∧ (a1.giveGroup h ((a1.req h).nextPos / 64)).isSome then a1.clearReason h 4 else a1) s

/-- NORMAL mode: the roster's last members of classes 1 to 3 go while the prediction is above the goal; true if any went. -/
def State.trim : Nat → State × List Member × Bool → State × List Member × Bool
  | 0, a => a
  | fuel + 1, a => match a.2.1.getLast? with
    | none => a
    | some e =>
      if a.1.overGoal a.2.1 ∧ (a.1.req e.handle).prio ≠ 0 then
        State.trim fuel ((if e.kind = 0 then a.1.pauseReq e.handle 1 else a.1), a.2.1.dropLast, true)
      else a

/-- The latency queue gives back, first in, first out, what the goal allows; the flag stops it. -/
def State.relieve (s : State) (m : Nat) (r : List Member) : State × List Member :=
  let go := (s.serving m).latQ.foldl (fun (a : State × List Member × Bool) h =>
    let e := (a.1.req h).decodeMember h
    if a.2.2 ∨ 2048 ≤ a.2.1.length ∨ a.1.overGoal (a.2.1 ++ [e]) then (a.1, a.2.1, true)
    else
      let s1 := a.1.clearReason h 1
      (s1, (if (s1.req h).st = .active then a.2.1 ++ [e] else a.2.1), false)) (s, r, false)
  (go.1, go.2.1)

/-- DEDUCED, assumption 66. -/
def State.form (s : State) (m : Nat) : State × List Member :=
  let s1 := s.recheckHeld m
  let a := (fromTo 0 4).foldl (fun (a : State × List Member) c => (a.1.activeOf m c).foldl State.formOne a) (s1, [])
  if s.tracked then a
  else
    let t := State.trim a.2.length (a.1, a.2, false)
    if t.2.2 then (t.1, t.2.1) else t.1.relieve m t.2.1

/-! ## Starting a step (R305) -/

/-- The tokens that a member takes in, by position: a prompt's are read from host memory. (DESIGN CHOICE, assumption 67) -/
def State.memberTokens (s : State) (e : Member) : State × List Nat :=
  let q := s.req e.handle
  if e.kind = 0 then (s, [e.token])
  else if q.redo.isSome then s.getTokens e.handle (fromTo e.pos e.npos)
  else (s, (fromTo e.pos e.npos).map (fun i =>
    if i < q.fillBase then q.pending else s.hostNat (q.p.prompt + 4 * (i - q.fillBase)) 4))

/-- Roster entry of a member; `o`: prefill tokens of the members before it. A chunk's token IDs lie in the serving area of V0 after theirs. (DESIGN CHOICE,
assumption 62) -/
def State.rosterEntry (s : State) (m o : Nat) (e : Member) : List Byte :=
  leBytes 2 e.handle ++ leBytes 1 e.kind ++ [0] ++ leBytes 4 e.pos ++ leBytes 4 e.npos ++ leBytes 4 e.token ++
    leBytes 8 (if e.kind = 0 then 0 else s.tokensAt m + 4 * o) ++ leBytes 4 e.npages ++ leBytes 4 0

/-- The roster table. -/
def State.rosterTable (s : State) (m : Nat) : Nat → List Member → List Byte
  | _, [] => []
  | o, e :: r => s.rosterEntry m o e ++ s.rosterTable m (if e.kind = 0 then o else o + e.npos) r

/-- Token blocks of a member, and a chunk's token IDs after those of the members before it. (DESIGN CHOICE, assumption 67) -/
def State.placeTokens (m : Nat) (a : State × Nat) (e : Member) : State × Nat :=
  let ts := a.1.memberTokens e
  let s1 := ((fromTo e.pos e.npos).zip ts.2).foldl (fun (x : State) w => x.putToken e.handle w.1 w.2) ts.1
  if e.kind = 0 then (s1, a.2) else (s1.ermStore (s1.tokensAt m + 4 * a.2) (ts.2.flatMap (leBytes 4)), a.2 + e.npos)

/-- PARAM4 to PARAM6 are written and committed in every tile of the segment; at an ISOLATED one the Colander discards the four writes (R13, R135). -/
def State.stepParams (s : State) (g : Segment) (n roster num : Nat) : State :=
  g.tiles.foldl (fun a t =>
    if (a.tile t).st = .isolated then a.bump (rtrReg t 8) 4
    else a.modTile t (fun x => (((x.setShadow 4 (word32 n)).setShadow 5 (word32 roster)).setShadow 6 (word32 num)).commit)) s

/-- The next step starts: roster table, parameters, replay. A tile of the segment that is HALTED fails it. (DEDUCED, assumption 66) -/
def State.startStep (s : State) (m : Nat) (r : List Member) : State :=
  let x := s.serving m
  match s.findSeg (BitVec.ofNat 16 x.seg) with
  | none => s
  | some g =>
    if r = [] then s
    else
      let s1 := (r.foldl (State.placeTokens m) (s, 0)).1.ermStore x.area (s.rosterTable m 0 r)
      let base := match x.lastBase with
        | some b => max (s.beat.toNat + s.fld (srvReg 4) 0 16) (b + s.fld (srvReg 4) 16 16)
        | none => s.beat.toNat + s.fld (srvReg 4) 0 16
      let step : StepRec := { num := x.passed, seg := x.seg, count := g.counter, base := base, members := r, rows := [] }
      let s2 := (s1.stepParams g r.length (x.area / 64) x.passed).release g 1 base 0 none
      let s3 := s2.modServing m (fun y => { y with step := some step, lastBase := some base })
      if g.tiles.any (fun t => (s3.tile t).st = .halted) then s3.stepFailed m else s3

/-! ## Context images (R311) -/

def contextHead (mver : List Byte) (n pending npages gbytes counts ovf : Nat) (digest : List Byte) : List Byte :=
  leBytes 4 0x43583950 ++ leBytes 2 1 ++ leBytes 2 0 ++ mver ++ leBytes 4 n ++ leBytes 4 pending ++ leBytes 4 npages ++ leBytes 4 gbytes ++
    leBytes 4 counts ++ leBytes 4 ovf ++ List.replicate 160 0 ++ digest

def countTable (cs : List (Nat × Nat)) : List Byte :=
  let b := cs.flatMap countEntry
  b ++ List.replicate (16384 - b.length) 0

/-- The row of a KV page of p bytes that byte o lies in (R155): 8-bit elements with their row scales where p leaves 128 bytes for scales, else BF16. -/
def pageRow (p o : Nat) : Nat :=
  if p % 16384 = 0 then o % (p / 2) / (p / 128)
  else
    let h := o % (p / 2)
    if h < p / 2 - 64 then h / ((p / 2 - 64) / 64) else h - (p / 2 - 64)

/-- A byte of a request's last page group that holds nothing yet: a key or value of the pending position and those after it, a token after it. -/
def spareByte (pools p k o : Nat) : Bool :=
  if o < pools * p then decide (k ≤ pageRow p (o % p)) else decide (k < (o - pools * p) / 4)

/-- Byte o of a request's last page group in its context image: the pending token stands in its token block, whether a step has put it there or not, and
bytes of positions that hold nothing yet are free, the same ones in every run, as R37 asks. (DESIGN CHOICE, assumption 67) -/
def State.lastByte (s : State) (q : Req) (o : Nat) (b : Byte) : Byte :=
  let pools := s.poolsOf q.model
  let p := s.pageOf q.model
  let k := q.n % 64
  if pools * p + 4 * k ≤ o ∧ o < pools * p + 4 * k + 4 then (leBytes 4 q.pending).getD (o - (pools * p + 4 * k)) 0
  else if spareByte pools p k o then Config.undefByte 0 o
  else b

/-- The image of a request. (DESIGN CHOICE, assumption 67) -/
def State.contextImage (st : State) (h : Nat) : State × List Byte :=
  let t := st.countsOf h
  let s := t.1
  let q := s.req h
  let mver := match (s.slotOf q.model).man with | some x => x.mver | none => []
  let np := q.n / 64 + 1
  let gb := s.groupBytes q.model
  let gs := (fromTo 0 np).foldl (fun (a : State × List Byte) i =>
    let r := match smFind q.groups i with
      | some g => a.1.readGroup q.model g
      | none => (a.1, (fromTo 0 gb).map (Config.undefByte 0))
    (r.1, a.2 ++ (if i + 1 < np then r.2 else (r.2.zipIdx).map (fun b => s.lastByte q b.2 b.1)))) (s, [])
  let body := countTable t.2 ++ gs.2
  let head := contextHead mver q.n q.pending np gb q.counts (bit q.countOvf)
  (gs.1, head (shake256 32 (head (List.replicate 32 0) ++ body)) ++ body)

/-! ## Serving commands (R301, R310 to R312, R316, R317) -/

def Cmd.handle (c : Cmd) : Nat := field c.payload 0 2
/-- The request record, read at acceptance and kept behind the payload. -/
def Cmd.record (c : Cmd) : List Byte := c.payload.drop 48

/-- The resident model that a context belongs to. -/
def State.modelOfVersion (s : State) (mver : List Byte) : Option Nat :=
  (fromTo 0 8).find? (fun m =>
    let x := s.slotOf m
    x.st ≠ .empty && x.st ≠ .loading && (match x.man with | some y => y.mver = mver | none => false))

/-- The model at whose boundary a command takes effect: that of its record, of the request it names, or of the context that it restores into a FREE
handle; none for one that names no model (R306, R334). (DEDUCED, assumption 60) -/
def State.commandModel (s : State) (c : Cmd) : Option Nat :=
  if c.opcode = 0x30 then some (recModel c.record)
  else if (s.req c.handle).st ≠ .free then some (s.req c.handle).model
  else if c.opcode = 0x36 then s.modelOfVersion (s.hostRead (field c.payload 8 8 + 8) 32)
  else none

def State.applySubmit (s : State) (c : Cmd) : State :=
  let r := c.record
  let p := recParams r
  let h := c.handle
  let m := recModel r
  let q := s.req h
  let cont := recContinue r
  if (if cont then q.st ≠ .held else q.st ≠ .free ∧ q.st ≠ .cold) then s.complete c.seq stHandleBusy 0
  else if (s.slotOf m).st ≠ .ready then s.complete c.seq stModelNotReady 0
  else if cont ∧ q.model ≠ m then s.complete c.seq stBadParam 0
  else if cont ∧ 1048575 < q.n + 1 + p.nprompt then s.complete c.seq stContextLimit 0
  else
    let q1 : Req := if cont then q else Req.free
    let q2 : Req := { q1 with
      st := .active, reasons := [], model := m, prio := field r 1 1, p := p, adm := c.seq, accept := c.acceptBeat
      fillBase := if cont then q.n + 1 else 0, fillEnd := if cont then q.n + 1 + p.nprompt else p.nprompt
      gen := [], lastTok := none, ttft := none, maxTbt := none, prod := if cont ∧ q.p.ring = p.ring then q.prod else 0 }
    ((if cont then s else s.freeReq h).setReq h q2).complete c.seq 0 0

/-- DEDUCED, assumption 63. -/
def State.applyCancel (s : State) (c : Cmd) : State :=
  let h := c.handle
  match (s.req h).st with
  | .free => s.complete c.seq (if c.left = 1 then 0 else stHandleState) 0
  | .held | .cold => (s.freeReq h).complete c.seq 0 0
  | _ => (s.endReq h 4 false).complete c.seq 0 0

def State.applyPause (s : State) (c : Cmd) : State :=
  match (s.req c.handle).st with
  | .active | .paused => (s.pauseReq c.handle 0).complete c.seq 0 0
  | _ => s.complete c.seq stHandleState 0

/-- DEDUCED, assumption 64. -/
def State.applyResume (s : State) (c : Cmd) : State :=
  let h := c.handle
  let q := s.req h
  let fl := field c.payload 2 1
  let token := field c.payload 0x10 4
  let sampled := fl / 2 = 1 && q.reasons.contains 6
  if q.st ≠ .active ∧ q.st ≠ .paused then s.complete c.seq stHandleState 0
  else if sampled ∧ q.vocab ≤ token then s.complete c.seq stBadParam 0
  else
    let s1 := if fl % 2 = 1 then s.setReq h { q with p := { q.p with deadline := field c.payload 8 8 } } else s
    let s2 := (s1.clearReason h 0).clearReason h 3
    (if sampled then ((s2.clearReason h 6).commitToken h token).applyPolicy h else s2).complete c.seq 0 0

/-- The context cut back to a position: what lies above it goes (R310). (DEDUCED, assumption 64) -/
def State.truncateReq (s : State) (h pos : Nat) : State :=
  let q := s.req h
  let above := q.counted.filter (fun i => decide (pos < i))
  let new := if pos = q.n then (s, q.pending) else s.getToken h pos
  let old := new.1.getTokens h (above.filter (fun i => i ≠ q.n))
  let toks := old.2 ++ (if above.contains q.n then [q.pending] else [])
  let cs := old.1.countsOf h
  let q1 := { q with
    n := pos, pending := new.2
    counted := q.counted.filter (fun i => decide (i ≤ pos))
    gen := if q.decoding then q.gen.take (q.gen.length - (q.n - pos)) else q.gen
    fillEnd := if q.fillEnd ≤ q.n then min q.fillEnd pos else q.fillEnd
    redo := match q.redo with | some p => if p < pos then some p else none | none => none }
  ((cs.1.setReq h q1).setCounts h (toks.foldl uncount cs.2)).freeGroups h (fun i => decide (pos < 64 * i))

/-- DEDUCED, assumption 64. -/
def State.applyTruncate (s : State) (c : Cmd) : State :=
  let q := s.req c.handle
  let pos := field c.payload 4 4
  if q.st ≠ .held ∧ q.st ≠ .paused then s.complete c.seq stHandleState 0
  else if pos = 0 ∨ q.n < pos then s.complete c.seq stBadParam 0
  else (s.truncateReq c.handle pos).complete c.seq 0 0

/-- The handle becomes COLD: its pages go, its entry stays. -/
def State.coolReq (s : State) (h : Nat) : State :=
  ((s.unqueue h).freeGroups h (fun _ => true)).modReq h (fun q => { q with st := .cold, reasons := [] })

def State.applySave (s : State) (c : Cmd) : State :=
  let h := c.handle
  let q := s.req h
  let size := 16640 + (q.n / 64 + 1) * s.groupBytes q.model
  if q.st ≠ .held ∧ q.st ≠ .paused then s.complete c.seq stHandleState 0
  else if field c.payload 0x10 8 < size then s.complete c.seq stBufferSmall 0
  else
    let r := s.contextImage h
    let s1 : State := { r.1 with srv := { r.1.srv with
      xfers := r.1.srv.xfers ++ [{ seq := c.seq, handle := h, save := true, host := field c.payload 8 8, image := r.2, back := q.model }] } }
    (if field c.payload 2 1 % 2 = 1 then s1.coolReq h else s1).started c.seq 0

def State.applyRestore (s : State) (c : Cmd) : State :=
  let h := c.handle
  let q := s.req h
  let host := field c.payload 8 8
  let size := field c.payload 0x10 8
  let f (o n : Nat) : Nat := s.hostNat (host + o) n
  let np := f 0x30 4
  let gb := f 0x34 4
  if q.st ≠ .free ∧ q.st ≠ .cold then s.complete c.seq stHandleState 0
  else if size < 0x4100 ∨ f 0 4 ≠ 0x43583950 ∨ f 4 2 ≠ 1 ∨ np ≠ f 0x28 4 / 64 + 1 ∨ size ≠ 0x4100 + np * gb then
    s.complete c.seq stContextMismatch 0
  else
    let image := s.hostRead host size
    if shake256 32 (image.take 0xE0 ++ List.replicate 32 0 ++ image.drop 0x100) ≠ (image.drop 0xE0).take 32 then s.complete c.seq stContextDigest 0
    else match s.modelOfVersion ((image.drop 8).take 32) with
      | none => s.complete c.seq stContextMismatch 0
      | some m =>
        if gb ≠ s.groupBytes m then s.complete c.seq stContextMismatch 0
        else
          let r := (s.setReq h { q with model := m, groups := [] }).giveGroups h 0 np
          if r.2 < np then s.complete c.seq stNoPages 0
          else
            (({ r.1 with srv := { r.1.srv with
                xfers := r.1.srv.xfers ++ [{ seq := c.seq, handle := h, save := false, host := host, image := image, back := q.model }] } } : State).started c.seq 0)

/-- A serving command takes effect. (DEDUCED, assumption 60) -/
def State.applyServing (s : State) (c : Cmd) : State :=
  match c.opcode with
  | 0x30 => s.applySubmit c
  | 0x31 => s.applyCancel c
  | 0x32 => s.applyPause c
  | 0x33 => s.applyResume c
  | 0x34 => s.applyTruncate c
  | 0x35 => s.applySave c
  | 0x36 => s.applyRestore c
  | _ => s

/-- A command that names a request of model m, its record read. -/
def State.namesModel (s : State) (m : Nat) (c : Cmd) : Bool :=
  decide (0x30 ≤ c.opcode) && decide (c.opcode ≤ 0x36) && !c.started && (c.opcode ≠ 0x30 || c.record ≠ []) && s.commandModel c = some m

def State.setCmd (s : State) (c : Cmd) : State :=
  { s with host := { s.host with cmds := s.host.cmds.map (fun d => if d.seq = c.seq then c else d) } }

/-- DESIGN CHOICE, assumption 59. -/
def State.setDue (s : State) (m : Nat) : State := s.modServing m (fun x => { x with due := true })

/-- A model that passes step boundaries: one that is resident (R301). -/
def State.resident (s : State) (m : Nat) : Bool := decide ((s.slotOf m).st ≠ .empty) && decide ((s.slotOf m).st ≠ .loading)

/-- A command arrives: it waits for the next boundary of the model whose request it names; with no step in flight that is one that follows this round
(R301, R306). One that names no resident model's request takes effect at once. (DESIGN CHOICE, assumption 59) -/
def State.serveArrive (s : State) (c : Cmd) : State :=
  let now := if s.blocked c then s else s.applyServing c
  match s.commandModel c with
  | none => now
  | some m => if s.resident m then s.setDue m else now

/-- DESIGN CHOICE, assumption 59. -/
def State.servingRow (s : State) (seq : Dword) (opcode : Nat) : Res :=
  match s.findCmd seq.toNat with
  | some c => .next (if c.opcode = opcode ∧ !c.started then s.serveArrive c else s)
  | none => .next s

/-- REQ_SUBMIT: the record is read and checked at acceptance. `hostErr`: the host answers the read with an error. -/
def execReqSubmit (seq : Dword) (hostErr : Bool) (s : State) : Res :=
  match s.findCmd seq.toNat with
  | none => .next s
  | some c =>
    if c.opcode ≠ 0x30 ∨ c.started then .next s
    else if c.record ≠ [] then .next (s.serveArrive c)
    else
      let r := s.hostRead (field c.payload 8 8) 1216
      if hostErr then .next (s.complete c.seq stHostError 0)
      else if recBad r then .next (s.complete c.seq stBadParam 0)
      else
        let c1 := { c with payload := c.payload ++ r }
        .next ((s.setCmd c1).serveArrive c1)

/-- REQ_CANCEL marks an ACTIVE or PAUSED request CANCELLING at once. -/
def execReqCancel (seq : Dword) (s : State) : Res :=
  match s.findCmd seq.toNat with
  | none => .next s
  | some c =>
    if c.opcode ≠ 0x31 ∨ c.started then .next s
    else
      let q := s.req c.handle
      if q.st = .active ∨ q.st = .paused then
        let c1 := { c with left := 1 }
        let s1 := (s.unqueue c.handle).modReq c.handle (fun r => { r with st := .cancelling, reasons := [] })
        .next ((s1.setCmd c1).serveArrive c1)
      else .next (s.serveArrive c)

def execReqPause (seq : Dword) (s : State) : Res := s.servingRow seq 0x32
def execReqResume (seq : Dword) (s : State) : Res := s.servingRow seq 0x33
def execReqTruncate (seq : Dword) (s : State) : Res := s.servingRow seq 0x34
def execSaveContext (seq : Dword) (s : State) : Res := s.servingRow seq 0x35
/-- DEDUCED, assumption 60. -/
def execRestoreContext (seq : Dword) (s : State) : Res := s.servingRow seq 0x36

/-- The transfer of a context ends (R311, R312). `hostErr`: the host answered it with an error. (DEDUCED, assumption 60; DESIGN CHOICE, assumption 67) -/
def execContextTransferComplete (seq : Dword) (hostErr : Bool) (st : State) : Res :=
  match st.srv.xfers.find? (fun x => x.seq = seq.toNat) with
  | none => .next st
  | some x =>
    let s : State := { st with srv := { st.srv with xfers := st.srv.xfers.filter (fun y => y.seq ≠ x.seq) } }
    let why := if s.hostLadleStatus ≠ 0 then s.hostLadleStatus else if hostErr then stHostError else 0
    if x.save then
      (if why ≠ 0 then .next ((s.hostFree x.host x.image.length).complete x.seq why 0)
       else .next ((s.hostWrite x.host x.image).complete x.seq 0 x.image.length))
    else
      let h := x.handle
      if why ≠ 0 then
        let s1 := s.freeGroups h (fun _ => true)
        .next ((if (s1.req h).st = .free then s1.setReq h Req.free else s1.modReq h (fun q => { q with model := x.back })).complete x.seq why 0)
      else
        let q := s.req h
        let gb := s.groupBytes q.model
        let n := field x.image 0x28 4
        let s1 := q.groups.foldl (fun a g => a.writeGroup q.model g.2 ((x.image.drop (0x4100 + g.1 * gb)).take gb)) s
        let cs := (fromTo 0 (field x.image 0x38 4)).map (fun i => let w := field x.image (0x100 + 4 * i) 4; (w / 2 ^ 14, w % 2 ^ 14))
        let q1 : Req := { Req.free with
          st := .held, model := q.model, prio := q.prio, p := q.p, n := n, pending := field x.image 0x2C 4, fillBase := n + 1, fillEnd := n
          counted := fromTo 0 (n + 1), countOvf := field x.image 0x3C 4 % 2 = 1, groups := q.groups }
        .next (((s1.setReq h q1).setCounts h cs).complete x.seq 0 0)

/-! ## SRV_CONFIG -/

/-- The pools of a model fit, with what else its serving area holds: below the journal in a vault, and in LPDDR6. (DEDUCED, assumption 65) -/
def State.poolsFit (s : State) (m frames warm span area : Nat) : Bool :=
  decide (area + s.areaBytes m frames span ≤ 0x2FC00000) && decide (warm * s.groupBytes m ≤ lpxEnd - lpxBase)

/-- DEDUCED, assumption 65. -/
def execSrvConfig (seq : Dword) (s : State) : Res :=
  s.runCmd seq 0x37 (fun c =>
    let f := field c.payload
    let m := f 0 1
    if f 1 1 = 1 then s
    else if !s.full ∧ 0 < f 8 4 then s.complete c.seq stUnitAbsent 0
    else if (s.slotOf m).st ≠ .ready then s.complete c.seq stModelNotReady 0
    else if s.handlesOf m ≠ [] then s.complete c.seq stHandleState 0
    else if !s.poolsFit m (f 4 4) (f 8 4) (f 0xC 2) (f 0x10 8) then s.complete c.seq stNoPages 0
    else (s.modServing m (fun x => { x with
      conf := true, seg := f 2 2, frames := f 4 4, warm := f 8 4, span := f 0xC 2, area := f 0x10 8
      size := s.areaBytes m (f 4 4) (f 0xC 2) })).complete c.seq 0 0)

/-- SRV_CONFIG with RESTART only clears STALLED; the boundary that follows forms the roster again. (DEDUCED, assumption 65) -/
def execSrvConfigRestart (seq : Dword) (s : State) : Res :=
  s.runCmd seq 0x37 (fun c =>
    let m := field c.payload 0 1
    if field c.payload 1 1 ≠ 1 then s
    else if (s.slotOf m).st ≠ .ready then s.complete c.seq stModelNotReady 0
    else ((s.modServing m (fun x => { x with stalled := false, due := x.due || x.stalled })).complete c.seq 0 0))

/-! ## The step boundary (R306) -/

/-- A step has ended: the replay on every tile, and, where the Sieve samples, every row returned. -/
def State.stepOver (s : State) (t : StepRec) : Bool :=
  let left := match s.findReplay (BitVec.ofNat 16 t.seg) (BitVec.ofNat 64 t.count) with
    | some (q, k) => (q.liveOf k).left
    | none => []
  left = [] && (s.fld (srvReg 0) 29 2 ≠ 0 || t.members.all (fun e => e.kind = 1 || (smFind t.rows e.handle).isSome))

/-- Order 1: a member's positions are committed. -/
def State.commitPositions (s : State) (e : Member) : State :=
  let q := s.req e.handle
  match q.redo with
  | some p => s.setReq e.handle { q with redo := if q.n ≤ p + e.npos then none else some (p + e.npos) }
  | none =>
    let s1 := s.setReq e.handle { q with n := q.n + e.npos }
    if q.p.countPrompt ∧ e.kind ≠ 0 then
      (fromTo e.pos e.npos).foldl (fun a i => if q.fillBase ≤ i then let k := a.getToken e.handle i; k.1.countToken e.handle i k.2 else a) s1
    else s1

/-- The logits of a row that reach the batch former where the Sieve does not sample. -/
def logitsOf (rows : List (Nat × List Word)) (h : Nat) : List Word := match rows.find? (fun w => w.1 = h) with | some w => w.2 | none => []

/-- SAMPLER 1: the tokens that the tile sampler draws during the step, so from the counts before the boundary adds any, as the Sieve does (R316). -/
def State.tileDraws (s : State) (t : StepRec) (rows : List (Nat × List Word)) : State × List (Nat × Option Nat) :=
  if s.fld (srvReg 0) 29 2 ≠ 1 then (s, [])
  else (t.members.filter (fun e => e.kind ≠ 1)).foldl (fun (a : State × List (Nat × Option Nat)) e =>
    let c := a.1.countsOf e.handle
    (c.1, a.2 ++ [(e.handle, drawToken (s.req e.handle).p c.2 (e.pos + e.npos) (logitsOf rows e.handle))])) (s, [])

/-- Order 2: what a member that yields a token gets. `draws`: the tokens of the tile sampler. -/
def State.commitMember (s : State) (m : Nat) (t : StepRec) (rows : List (Nat × List Word)) (draws : List (Nat × Option Nat)) (e : Member) : State :=
  let h := e.handle
  let q := s.req h
  let sampler := s.fld (srvReg 0) 29 2
  if e.kind = 1 then s
  else if q.st = .cancelling then (s.ringWrite h 0 q.n 12).endReq h 4 false
  else if sampler = 2 then s.sampleOut m h (t.num % 2 ^ 32) (biasRow (logitsOf rows h) q.p.bias)
  else match (if sampler = 0 then (smFind t.rows h).getD none else (smFind draws h).getD none) with
    | some k => s.commitToken h k
    | none => s.failToken h

/-- Orders 1 to 3 of a boundary, one after another for all members of the step. -/
def State.commitStep (s : State) (m : Nat) (t : StepRec) (rows : List (Nat × List Word)) : State :=
  let d := s.tileDraws t rows
  let s1 := t.members.foldl (fun (a : State) e => a.commitPositions e) d.1
  let s2 := t.members.foldl (fun (a : State) e => a.commitMember m t rows d.2 e) s1
  (t.members.filter (fun e => e.kind ≠ 1)).foldl (fun (a : State) e => a.applyPolicy e.handle) s2

/-- A command of a handle that is FREE, as after a cancellation at the boundary in hand: it has only its completion to come. -/
def State.namesNone (s : State) (c : Cmd) : Bool :=
  decide (0x31 ≤ c.opcode) && decide (c.opcode ≤ 0x36) && !c.started && s.commandModel c = none

/-- Order 4: the commands that have arrived, in journal order. -/
def State.applyArrived (s : State) (m : Nat) : State :=
  (s.host.cmds.map (fun c => c.seq)).foldl (fun a n => match a.findCmd n with
    | some c => if (a.namesModel m c ∨ a.namesNone c) ∧ !a.blocked c then a.applyServing c else a
    | none => a) s

/-- A request has a HOT group in a vault that lost its contents. (DEDUCED, assumption 63) -/
def State.pagesLost (s : State) (h : Nat) : Bool :=
  (s.req h).groups.any (fun g => g.2.hot && s.fld (vltReg g.2.vault 4) 28 1 = 1)

/-- Order 5: requests whose pages are lost end. (DEDUCED, assumption 63) -/
def State.endLost (s : State) (m : Nat) : State :=
  (s.handlesOf m).foldl (fun a h =>
    if a.pagesLost h then
      let q := a.req h
      (a.ringWrite h 0 (max (q.n + 1) q.fillEnd) 20).endReq h 6 false
    else a) s

/-- A DEGRADED model's live requests pause with MODEL; once it is READY again the reason clears (R327, R328). -/
def State.modelPauses (s : State) (m : Nat) : State :=
  (s.handlesOf m).foldl (fun a h =>
    if (s.slotOf m).st = .degraded then a.pauseReq h 5
    else if (s.slotOf m).st = .ready then a.clearReason h 5 else a) s

/-- Order 6: a request above its HOT_PAGES has its oldest HOT groups copied to WARM, as many as the pool has groups free (R309). (DESIGN CHOICE, assumption
61) -/
def State.demoteOf (s : State) (m h : Nat) : State :=
  let q := s.req h
  let hot := q.groups.filter (fun g => g.2.hot && g.2.warm.isNone)
  let may := hot.filter (fun g => g.1 ≠ q.n / 64)
  if !s.full ∨ q.p.hotPages = 0 then s
  else (may.take (hot.length - q.p.hotPages)).foldl (fun (a : State) g => match leastFree (a.warmHeld m) (a.serving m).warm with
    | some w => a.modReq h (fun r => { r with groups := smSet r.groups g.1 { g.2 with warm := some w } })
    | none => a) s

def State.demotePages (s : State) (m : Nat) : State :=
  (s.handlesOf m).foldl (fun a h => if (a.req h).st = .active ∨ (a.req h).st = .held ∨ (a.req h).st = .paused then a.demoteOf m h else a) s

/-- A staged swap whose time has come raises the barrier (R331). -/
def State.raiseBarrier (s : State) (m : Nat) : State :=
  let x := s.slotOf m
  match x.swap with
  | some w =>
    if x.st = .ready ∧ x.stage = .staged ∧ (!w.fleet ∨ w.released) then
      (s.setSlot m { x with st := .swapping }).modServing m (fun y => { y with barrier := true })
    else s
  | none => s

/-- Order 8: HL0 writes the entries, each ring's PROD and the rows for the host, then sends the vectors of the rings that received entries. While HL0
moves nothing they wait. (DEDUCED, assumption 53) -/
def State.sendVectors (s : State) : State :=
  if !s.hostLadleUp 0 then s
  else
    let s1 := s.srv.ringOut.foldl (fun (a : State) w => a.hostWrite w.1 w.2) s
    let s2 := s.srv.ringVecs.foldl (fun (a : State) v => a.sendVector v) s1
    { s2 with srv := { s2.srv with ringVecs := [], ringOut := [] } }

/-- Order 7 and 8. (DEDUCED, assumption 66) -/
def State.formAndSend (s : State) (m : Nat) : State :=
  let x := s.serving m
  let s1 := if x.barrier ∨ x.stalled then s else (let f := s.form m; f.1.startStep m f.2)
  s1.sendVectors

/-- A boundary from order 4 on. -/
def State.boundaryRest (s : State) (m : Nat) : State :=
  let s1 := (((((s.applyArrived m).endLost m).modelPauses m).freeGone m).demotePages m).raiseBarrier m
  (s1.modServing m (fun x => { x with due := s1.host.cmds.any (fun c => s1.namesModel m c) })).formAndSend m

/-- DESIGN CHOICE, assumption 59. -/
def State.boundary (s : State) (m : Nat) (rows : List (Nat × List Word)) : State :=
  let x := s.serving m
  let s1 := match x.step with
    | none => s.modServing m (fun y => { y with passed := y.passed + 1 })
    | some t =>
      (s.modServing m (fun y => { y with passed := y.passed + 1, step := none, last := s.beat.toNat - t.base })).commitStep m t rows
  s1.boundaryRest m

/-- STEP_BOUNDARY of model m: the step in flight has ended, or no step is in flight, a command has arrived and this beat's acceptance round has run (R301);
else what still waits for HL0 is written. (DESIGN CHOICE, assumption 59; DEDUCED, assumption 68) -/
def execStepBoundary (m : BitVec 3) (rows : List (BitVec 14 × List Word)) (s : State) : Res :=
  let x := s.serving m.toNat
  let go := match x.step with
    | some t => s.stepOver t
    | none => x.due && !x.barrier && s.host.roundBeat = some s.beat.toNat
  .next (if go then s.boundary m.toNat (rows.map (fun w => (w.1.toNat, w.2))) else s.sendVectors)

/-- The vault and channels that a demotion moves its group between answer, and its Ladle moves data. -/
def State.demoteReady (s : State) (m : Nat) (g : PageGroup) : Bool :=
  (s.groupRanges m g).all (fun r => s.rangeStatus r.1 r.2 = 0) && s.rangeStatus (s.warmAddr m (g.warm.getD 0)) (s.groupBytes m) = 0

/-- PAGE_DEMOTION_COMPLETE: the group has been copied to its group in LPDDR6 by a privileged Ladle channel, and the vault frame is free. Where a side of the
move is out of service it waits. (DESIGN CHOICE, assumption 61) -/
def execPageDemotionComplete (handle : BitVec 14) (i : BitVec 14) (s : State) : Res :=
  let h := handle.toNat
  let m := (s.req h).model
  match smFind (s.req h).groups i.toNat with
  | none => .next s
  | some g =>
    if !g.hot ∨ g.warm.isNone ∨ !s.demoteReady m g then .next s
    else .next (s.withLp (s.rangeChans (s.warmAddr m (g.warm.getD 0)) (s.groupBytes m)) (fun q =>
      ((q.copyGroup m g).modReq h (fun r => { r with groups := smSet r.groups i.toNat { g with hot := false } })).writePt m i.toNat g 0))

end Sys2Proof.Machine
end

