-- ==== Sys2Proof/Machine/Weights.lean ====
section
/-!
DEFINITION. Weights and resident models: manifests, loading, peer transfers, digest scrub, quarantine, swaps of layers, keys (R318 to R334).
-/

namespace Sys2Proof.Machine

open Sys2Proof

def stManifestFormat : Nat := 0x0200
def stManifestSig : Nat := 0x0201
def stKeyAbsent : Nat := 0x0202
def stModelBusy : Nat := 0x0203
def stModelInUse : Nat := 0x0204
def stOverlap : Nat := 0x0205
def stShardDigest : Nat := 0x0206
def stColsum : Nat := 0x0207
def stNoStaging : Nat := 0x0208
def stSwapMismatch : Nat := 0x0209
def stSwapNotStaged : Nat := 0x020A
def stSwapFailed : Nat := 0x020B
def stPeerTimeout : Nat := 0x020C
def stPeerFail : Nat := 0x020D
def stKeySlot : Nat := 0x020E

def wgtCfg : Nat := mgtReg 0xB000

/-! ## Manifests (R319, R320) -/

def layerAt (bs : List Byte) (l o n : Nat) : Nat := field bs (256 + 16 * l + o) n
def shardAt (bs : List Byte) (nl k o n : Nat) : Nat := field bs (256 + 16 * nl + 64 * k + o) n

def shardOf (bs : List Byte) (nl k : Nat) : Shard :=
  { addr := shardAt bs nl k 0 8, size := shardAt bs nl k 8 8, layer := shardAt bs nl k 0x10 2, format := shardAt bs nl k 0x12 1
    digest := (bs.drop (256 + 16 * nl + 64 * k + 0x20)).take 32 }

/-- Bytes that the signature covers. -/
def signedPart (bs : List Byte) : List Byte := bs.take (256 + 16 * field bs 0x1C 2 + 64 * field bs 0x1E 2)

def manifestOf (bs : List Byte) : Manifest :=
  let nl := field bs 0x1C 2
  { keyslot := field bs 6 1, family := field bs 8 16, version := field bs 0x18 4, tiers := (fromTo 0 nl).map (fun l => layerAt bs l 2 1)
    shards := (fromTo 0 (field bs 0x1E 2)).map (shardOf bs nl), mver := shake256 32 (signedPart bs) }

def shardBad (x : Shard) : Bool :=
  x.addr % 64 ≠ 0 || x.size % 64 ≠ 0 || x.size = 0 || decide (2 ^ 30 < x.size) || !(decide (x.format ≤ 6) || x.format = 15) ||
    (decide (x.format ≤ 6) && x.size % panelBytes x.format ≠ 0)

/-- A manifest of a given length is malformed (R319). (DEDUCED, assumption 71) -/
def manifestBad (bs : List Byte) (msize : Nat) : Bool :=
  let nl := field bs 0x1C 2
  let ns := field bs 0x1E 2
  let body := 256 + 16 * nl + 64 * ns
  let layersOk := (fromTo 0 nl).all (fun l =>
    layerAt bs l 0 2 = l && decide (layerAt bs l 2 1 < 2) && layerAt bs l 3 1 = 0 && layerAt bs l 8 8 = 0 && decide (1 ≤ layerAt bs l 6 2) &&
      decide (layerAt bs l 6 2 ≤ 4096) && layerAt bs l 4 2 = (if l = 0 then 0 else layerAt bs (l - 1) 4 2 + layerAt bs (l - 1) 6 2))
  let total := if nl = 0 then 0 else layerAt bs (nl - 1) 4 2 + layerAt bs (nl - 1) 6 2
  let shardsOk := (fromTo 0 ns).all (fun k =>
    let x := shardOf bs nl k
    !(shardBad x) && decide (x.layer < nl) && decide (layerAt bs x.layer 4 2 ≤ k) && decide (k < layerAt bs x.layer 4 2 + layerAt bs x.layer 6 2) &&
      shardAt bs nl k 0x13 13 = 0)
  field bs 0 4 ≠ 0x4D573950 || field bs 4 2 ≠ 1 || decide (7 < field bs 6 1) || field bs 7 1 ≠ 0 ||
    field bs 0x20 224 ≠ 0 || nl = 0 || decide (1024 < nl) || ns = 0 || decide (4096 < ns) || msize ≠ body + 128 || !layersOk || total ≠ ns ||
    !shardsOk || field bs (body + 114) 14 ≠ 0

/-! ## Places (R322, R323) -/

def overlaps (a n b k : Nat) : Bool := decide (0 < n) && decide (0 < k) && decide (a < b + k) && decide (b < a + n)

/-- Ranges that a non-EMPTY model claims. -/
def ModelSlot.claims (x : ModelSlot) : List (Nat × Nat) :=
  if x.st = .empty then [] else
    (match x.man with | some y => y.shards.map (fun k => (k.addr, k.size)) | none => []) ++ [(x.stageBase, x.stageSize)]

/-- Ranges of the serving areas set by SRV_CONFIG, one in each vault. -/
def State.servingAreas (s : State) : List (Nat × Nat) :=
  (fromTo 0 8).flatMap (fun m =>
    let x := s.serving m
    if x.conf then (fromTo 0 s.nClusters).map (fun v => (v * vaultSize + x.area, x.size)) else [])

def State.claimedBy (s : State) (m : Nat) : List (Nat × Nat) :=
  ((fromTo 0 8).filter (fun k => k ≠ m)).flatMap (fun k => (s.slotOf k).claims) ++ s.servingAreas

def State.rangeAbsent (s : State) (a n : Nat) : Bool := decide (0 < n) && (!s.devPresent a || !s.devPresent (a + n - 1))

def inLpxHalf (a n : Nat) : Bool :=
  decide (lpxBase ≤ a) && decide (a + n ≤ lpxEnd) && (n = 0 || lpHalf a = lpHalf (a + n - 1))

def placeBad (x : Shard) (tier : Nat) : Bool :=
  if tier = 1 then !(inLpxHalf x.addr x.size)
  else !(decide (x.addr / vaultSize < 64) && x.addr / vaultSize = (x.addr + x.size - 1) / vaultSize) || overlaps x.addr x.size 0x2FC00000 0x400000

def pairOverlap : List Shard → Bool
  | [] => false
  | x :: r => r.any (fun y => overlaps x.addr x.size y.addr y.size) || pairOverlap r

def tierOf (man : Manifest) (x : Shard) : Nat := man.tiers.getD x.layer 0

def fetchBytes (man : Manifest) (ks : List Nat) : Nat := ks.foldl (fun a k => a + (match man.shards[k]? with | some x => x.size | none => 0)) 0

/-- UNIT_ABSENT of a load or swap: a shard, the staging area or DATA. -/
def State.loadAbsent (s : State) (man : Manifest) (src data bytes base size : Nat) : Bool :=
  man.shards.any (fun x => s.rangeAbsent x.addr x.size) || (!s.full && man.tiers.contains 1) || s.rangeAbsent base size ||
    (!s.full && decide (0 < size)) ||
    (src = 2 && (!s.full || s.rangeAbsent data bytes || decide (data < lpxBase) || decide (lpxEnd < data + bytes)))

/-- OVERLAP of a load. -/
def State.loadOverlap (s : State) (m : Nat) (man : Manifest) (base size : Nat) : Bool :=
  let claims := s.claimedBy m
  let hit (a n : Nat) : Bool := claims.any (fun c => overlaps a n c.1 c.2)
  man.shards.any (fun x => placeBad x (tierOf man x) || hit x.addr x.size) || pairOverlap man.shards ||
    (decide (0 < size) && (!(inLpxHalf base size) || hit base size || man.shards.any (fun x => overlaps x.addr x.size base size)))

/-- Load checks 1 to 3: the manifest itself. -/
def State.manifestStatus (s : State) (bs : List Byte) (msize : Nat) : Nat :=
  if manifestBad bs msize then stManifestFormat
  else match smFind s.wgt.keys (field bs 6 1) with
    | none => stKeyAbsent
    | some key =>
      if ed448Verify key (signedPart bs) ((bs.drop (signedPart bs).length).take 114) then 0 else stManifestSig

/-! ## Model state -/

def stCode : ModelSt → Nat
  | .empty => 0 | .loading => 1 | .ready => 2 | .degraded => 3 | .swapping => 4

def stageCode : StageSt → Nat
  | .none => 0 | .filling => 1 | .staged => 2 | .failed => 3

def ModelSlot.version (x : ModelSlot) : Nat := match x.man with | some y => y.version | none => 0

/-- DEDUCED, assumption 70. -/
def State.modelEvent (s : State) (m : Nat) : State :=
  let x := s.slotOf m
  s.raise 0x201 (m + stCode x.st * 2 ^ 4 + x.version * 2 ^ 32)

def insertNat (k : Nat) : List Nat → List Nat
  | [] => [k]
  | x :: r => if k = x then x :: r else if k < x then k :: x :: r else x :: insertNat k r

/-- A shard is quarantined: causes 1 digest, 2 column sums, 3 unreadable or lost (R327). -/
def State.quarantine (s : State) (m shard cause : Nat) (scrub staged : Bool) : State :=
  let w := 2 ^ 31 + bit scrub * 2 ^ 30 + bit staged * 2 ^ 29 + cause * 2 ^ 27 + m * 2 ^ 24 + shard
  let s1 := ((s.setReg (mgtReg 0xB008) (word32 w)).bump (mgtReg 0xB00C) 1).raise 0x202
    (m + shard * 2 ^ 16 + cause * 2 ^ 28 + bit scrub * 2 ^ 30 + bit staged * 2 ^ 31)
  let x := s1.slotOf m
  if staged then
    match x.swap with
    | some w => (s1.setSlot m { x with stage := .failed }).complete w.seq (if cause = 2 then stColsum else stShardDigest) 0
    | none => s1
  else
    let s2 := s1.setSlot m { x with quar := insertNat shard x.quar, st := if x.st = .ready then .degraded else x.st }
    if x.st = .ready then s2.modelEvent m else s2

/-! ## Checking a shard (R324) -/

/-- Every panel's stored column sums equal those of its elements (R96). (DESIGN CHOICE, assumption 69) -/
def colsumsOk (fw : Nat) (bs : List Byte) : Bool :=
  (chunksOf (panelBytes fw) (bs.length / panelBytes fw + 1) bs).all (fun b =>
    let p := loadPanel fw b
    (p.csums.zipIdx).all (fun c => c.1 = p.codes.foldl (fun a col => a + (decElem fw (col.getD c.2 0)).int) (0 : Int)))

/-- Reads a shard back at an address: 0 passed, or the cause of its failure; one that cannot be read fails with cause 3. (DESIGN CHOICE, assumption 69) -/
def State.checkShard (s : State) (x : Shard) (a : Nat) : State × Nat :=
  if s.devStatus a x.size ≠ 0 then (s, 3)
  else
    let r := (s.awaitBanks a x.size).devCheck a x.size false
    let bs := r.1.dvRead a x.size
    (r.1, if r.2 ≠ [] then 3 else if shake256 32 bs ≠ x.digest then 1
          else if x.format ≤ 6 ∧ !(colsumsOk x.format bs) then 2 else 0)

def causeStatus (c : Nat) : Nat := if c = 2 then stColsum else stShardDigest

/-! ## Fetching (R324, R325, R328, R330) -/

/-- One of a slot's two fetches: the fill of its staging area, or a load or repair; and the manifest whose shards it brings. -/
def ModelSlot.job (x : ModelSlot) (fill : Bool) : Option Fetch := if fill then x.fill else x.fetch
def ModelSlot.setJob (x : ModelSlot) (fill : Bool) (f : Option Fetch) : ModelSlot := if fill then { x with fill := f } else { x with fetch := f }
def ModelSlot.jobMan (x : ModelSlot) (fill : Bool) : Option Manifest := if fill then x.swap.map (fun w => w.man) else x.man

/-- The shard that a fetch has in hand. -/
def Fetch.shard (f : Fetch) : Nat := f.shards.getD f.done 0

def changedShards (old new : Manifest) : List Nat :=
  (fromTo 0 new.shards.length).filter (fun k => match old.shards[k]?, new.shards[k]? with
    | some a, some b => a.digest ≠ b.digest
    | _, _ => true)

/-- Offset of shard k among shards laid one after another in index order. -/
def offsetAmong (man : Manifest) (ks : List Nat) (k : Nat) : Nat := fetchBytes man (ks.filter (fun j => decide (j < k)))

def ModelSlot.changed (x : ModelSlot) : List Nat := match x.man, x.swap with
  | some a, some w => changedShards a w.man
  | _, _ => []

def ModelSlot.stageAddr (x : ModelSlot) (k : Nat) : Nat := match x.swap with
  | some w => x.stageBase + offsetAmong w.man x.changed k
  | none => x.stageBase

/-- Where a fetch puts shard k: its ADDR, or its place in the staging area. -/
def ModelSlot.target (x : ModelSlot) (fill : Bool) (sh : Shard) (k : Nat) : Nat := if fill then x.stageAddr k else sh.addr

def bulkHead (op shard srank offset : Nat) : FlitWord :=
  BitVec.ofNat 256 (op + shard * 2 ^ 16 + srank * 2 ^ 32 + offset * 2 ^ 64)

/-- A REQ for the shard in hand, from what has come of it on. -/
def State.askPeer (s : State) (m : Nat) (fill : Bool) : State :=
  let x := s.slotOf m
  match x.job fill, x.jobMan fill with
  | some f, some man =>
    if f.src ≠ 1 then s
    else
      let s1 := s.sendRank 4 f.peer 0 0 0
        [(bulkHead 1 f.shard s.ownRank (f.got.length / 32), false), (BitVec.ofNat 256 (leNat man.mver), false)]
      s1.setSlot m (x.setJob fill (some { f with since := s.tm.run }))
  | _, _ => s

/-- A fetch ends with a status: a load leaves the slot EMPTY, a repair leaves it DEGRADED, a fill leaves STAGE FAILED. -/
def State.endFetch (s : State) (m : Nat) (fill : Bool) (status : Nat) : State :=
  let x := s.slotOf m
  match x.job fill with
  | none => s
  | some f =>
    let x1 : ModelSlot := if fill then { x with stage := .failed, fill := none }
      else if f.repair then { x with fetch := none } else ModelSlot.reset
    (s.setSlot m x1).complete f.seq status 0

/-- The shard in hand has passed: the next one, or the end. -/
def State.shardPassed (s : State) (m : Nat) (fill : Bool) : State :=
  let x := s.slotOf m
  match x.job fill with
  | none => s
  | some f =>
    let x1 := if f.repair then { x with quar := x.quar.erase f.shard } else x
    if f.done + 1 < f.shards.length then
      (s.setSlot m (x1.setJob fill (some { f with
        done := f.done + 1, again := false, got := [], spoilt := [], retries := 0, asked := false }))).askPeer m fill
    else if fill then s.setSlot m { x1 with fill := none, stage := .staged }
    else
      let st : ModelSt := if f.repair ∧ x1.quar ≠ [] then .degraded else .ready
      let s1 := (s.setSlot m { x1 with fetch := none, st := st }).complete f.seq 0 0
      if st = .ready then s1.modelEvent m else s1

/-- The fetch of a slot that goes on now: its load or repair, unless that waits for a peer's data, then the fill. -/
def ModelSlot.fillNext (x : ModelSlot) : Bool :=
  match x.fetch, x.man with
  | some f, some man => x.fill.isSome && f.src = 1 && decide (f.got.length < ((man.shards[f.shard]?).map (fun y => y.size)).getD 0)
  | _, _ => x.fill.isSome

/-- What ends a fetch before its shard is written: a destination or source that cannot be reached, or the host's error; 0 nothing. -/
def State.fetchStop (s : State) (f : Fetch) (dst off n : Nat) (hostErr : Bool) : Nat :=
  if s.rangeStatus dst n ≠ 0 then s.rangeStatus dst n
  else if f.src = 0 ∧ s.hostLadleStatus ≠ 0 then s.hostLadleStatus
  else if f.src = 0 ∧ hostErr then stHostError
  else if f.src = 2 then s.rangeStatus off n
  else 0

/-- A shard goes to its place from the host, a peer's data or LPDDR6, poison with it. -/
def State.putShard (s : State) (f : Fetch) (dst off n : Nat) : State :=
  let q := s.awaitBanks dst n
  let rd := if f.src = 2 then (q.awaitBanks off n).devCheck off n false else (q, [])
  let bs := if f.src = 0 then s.hostRead off n else if f.src = 1 then f.got.take n else rd.1.dvRead off n
  let s1 := (rd.1.devStore dst bs).copyPoison off dst rd.2
  if f.src = 1 then f.spoilt.foldl (fun (x : State) o => x.markCw ((dst + o) / 64)) s1 else s1

/-- SHARD_CHECK: the next shard of a fetch of model m is written by a privileged Ladle channel, read back and checked. `hostErr`: the host answers its
read with an error. (DESIGN CHOICE, assumption 69) -/
def execShardCheck (m : BitVec 3) (hostErr : Bool) (s : State) : Res :=
  let n := m.toNat
  let x := s.slotOf n
  let fill := x.fillNext
  match x.job fill, x.jobMan fill with
  | some f, some man =>
    match man.shards[f.shard]? with
    | none => .next s
    | some sh =>
      let dst := x.target fill sh f.shard
      let off := f.data + offsetAmong man f.shards f.shard
      if f.src = 1 ∧ f.got.length < sh.size then .next s
      else if s.fetchStop f dst off sh.size hostErr ≠ 0 then .next (s.endFetch n fill (s.fetchStop f dst off sh.size hostErr))
      else .next (s.withLp (s.rangeChans dst sh.size ++ (if f.src = 2 then s.rangeChans off sh.size else [])) (fun q =>
        let c := (q.putShard f dst off sh.size).checkShard sh dst
        if c.2 = 0 then c.1.shardPassed n fill
        else if f.again then c.1.endFetch n fill (causeStatus c.2)
        else (c.1.setSlot n (x.setJob fill (some { f with again := true, got := [], spoilt := [], asked := false }))).askPeer n fill))
  | _, _ => .next s

/-! ## MODEL_LOAD, MODEL_UNLOAD, SWAP_LAYERS (R323, R328 to R330, R334) -/

def Cmd.fetchOf (c : Cmd) (shards : List Nat) (repair : Bool) : Fetch :=
  { seq := c.seq, src := field c.payload 1 1, peer := field c.payload 4 4, data := field c.payload 0x18 8, repair := repair, shards := shards
    done := 0, again := false, got := [], spoilt := [], retries := 0, since := 0, asked := false }

/-- MODEL_LOAD. A repair that comes while one is in progress waits until that one has ended. (DEDUCED, assumption 70) -/
def State.modelLoad (s : State) (c : Cmd) (hostErr repair : Bool) : State :=
  let f := field c.payload
  let m := f 0 1
  let x := s.slotOf m
  let bs := s.hostRead (f 8 8) (min (f 0x10 4) 278912)
  let man := manifestOf bs
  let base := f 0x20 8
  let size := f 0x28 8
  let status := s.manifestStatus bs (f 0x10 4)
  let busy : Bool := if repair then x.st ≠ .degraded || (match x.man with | some y => y.mver ≠ man.mver | none => true)
    else x.st ≠ .empty
  let shards := if repair then x.quar else fromTo 0 man.shards.length
  let absent := s.loadAbsent man (f 1 1) (f 0x18 8) (fetchBytes man shards) base size
  if hostErr then s.complete c.seq stHostError 0
  else if status ≠ 0 then s.complete c.seq status 0
  else if busy then s.complete c.seq stModelBusy 0
  else if absent then s.complete c.seq stUnitAbsent 0
  else if s.loadOverlap m man base size then s.complete c.seq stOverlap 0
  else if x.fetch.isSome then s
  else
    let x1 : ModelSlot := if repair then { x with fetch := some (c.fetchOf shards true) }
      else { st := .loading, stage := .none, man := some man, quar := [], stageBase := base, stageSize := size
             fetch := some (c.fetchOf shards false), fill := none, swap := none }
    ((s.setSlot m x1).started c.seq 0).askPeer m false

/-- MODEL_LOAD without REPAIR, and with it. `hostErr`: the host answers the read of the manifest with an error. -/
def execModelLoad (seq : Dword) (hostErr : Bool) (s : State) : Res :=
  s.runCmd seq 0x40 (fun c => if field c.payload 2 1 = 0 then s.modelLoad c hostErr false else s)

def execModelLoadRepair (seq : Dword) (hostErr : Bool) (s : State) : Res :=
  s.runCmd seq 0x40 (fun c => if field c.payload 2 1 = 1 then s.modelLoad c hostErr true else s)

/-- DEDUCED, assumption 70. -/
def execModelUnload (seq : Dword) (s : State) : Res :=
  s.runCmd seq 0x41 (fun c =>
    let m := field c.payload 0 1
    let x := s.slotOf m
    if s.handlesOf m ≠ [] then s.complete c.seq stModelInUse 0
    else if x.stage = .filling ∨ x.stage = .staged ∨ x.fetch.isSome ∨ (x.st ≠ .ready ∧ x.st ≠ .degraded) then s.complete c.seq stModelBusy 0
    else (s.setSlot m ModelSlot.reset).complete c.seq 0 0)

/-- The new manifest of a swap does not match the resident one. -/
def swapMismatch (old new : Manifest) : Bool :=
  old.family ≠ new.family || old.tiers ≠ new.tiers || old.mver = new.mver || old.shards.length ≠ new.shards.length ||
    (old.shards.zip new.shards).any (fun p => p.1.addr ≠ p.2.addr || p.1.size ≠ p.2.size || p.1.layer ≠ p.2.layer || p.1.format ≠ p.2.format)

/-- DEDUCED, assumption 70. -/
def execSwapLayers (seq : Dword) (hostErr : Bool) (s : State) : Res :=
  s.runCmd seq 0x42 (fun c =>
    let f := field c.payload
    let m := f 0 1
    let x := s.slotOf m
    let bs := s.hostRead (f 8 8) (min (f 0x10 4) 278912)
    let man := manifestOf bs
    let status := s.manifestStatus bs (f 0x10 4)
    let changed := match x.man with | some y => changedShards y man | none => []
    let bytes := fetchBytes man changed
    if hostErr then s.complete c.seq stHostError 0
    else if status ≠ 0 then s.complete c.seq status 0
    else if s.loadAbsent man (f 1 1) (f 0x18 8) bytes 0 0 then s.complete c.seq stUnitAbsent 0
    else if x.st ≠ .ready ∨ x.stage = .filling ∨ x.stage = .staged then s.complete c.seq stModelBusy 0
    else if (match x.man with | some y => swapMismatch y man | none => true) then s.complete c.seq stSwapMismatch 0
    else if x.stageSize < bytes then s.complete c.seq stNoStaging 0
    else
      let layers := (changed.filterMap (fun k => (man.shards[k]?).map (fun y => y.layer))).foldl (fun a l => insertNat l a) []
      let w : Swap := { seq := c.seq, man := man, recompute := f 2 1 % 2 = 1, fleet := f 2 1 / 2 = 1, released := false, layers := layers }
      let x1 : ModelSlot := { x with
        swap := some w, stage := if changed = [] then .staged else .filling
        fill := if changed = [] then none else some (c.fetchOf changed false) }
      ((s.setSlot m x1).started c.seq 0).askPeer m true)

/-! ## Peer transfers (R325) -/

/-- DESIGN CHOICE, assumption 69. -/
def State.popBulk (s : State) : State := { s with fleet := { s.fleet with bulkIn := s.fleet.bulkIn.drop 1 } }

/-- Address of a shard of a version that this module can serve: of a resident model, or staged; neither quarantined, nor rewritten by a swap, nor in
the layer whose rewriting is next. -/
def State.servable (s : State) (mver : List Byte) (k : Nat) : Option (Nat × Nat) :=
  (fromTo 0 8).findSome? (fun m =>
    let x := s.slotOf m
    let busy (j : Nat) : Bool := match x.fetch with
      | some f => (f.shards.drop f.done).contains j
      | none => false
    let rewriting (y : Shard) (j : Nat) : Bool := x.st = .swapping && x.changed.contains j && (match x.swap with
      | some w => !(w.layers.drop 1).contains y.layer | none => false)
    let old : Option (Nat × Nat) := match x.man with
      | some man => if x.st ≠ ModelSt.empty && man.mver = mver then
          (match man.shards[k]? with
           | some y => if x.quar.contains k || busy k || rewriting y k then none else some (y.addr, y.size)
           | none => none)
        else none
      | none => none
    let new : Option (Nat × Nat) := match x.swap with
      | some w => if x.stage = StageSt.staged && w.man.mver = mver then
          (match w.man.shards[k]? with
           | some y => if x.changed.contains k then some (x.stageAddr k, y.size)
               else if x.quar.contains k then none else some (y.addr, y.size)
           | none => none)
        else none
      | none => none
    old.orElse (fun _ => new))

/-- DATA packets for bytes [o, size) of a range, up to 480 bytes each; what cannot be read goes as poison. -/
def State.sendShard (s : State) (r k a size o : Nat) : State :=
  if size ≤ o then s
  else
    let bad := s.devStatus (a + o) (size - o) ≠ 0
    let c := if bad then (s, []) else (s.devReady (a + o) (size - o)).devCheck (a + o) (size - o) false
    let bs := c.1.dvRead (a + o) (size - o)
    let parts := chunksOf 480 (bs.length / 480 + 1) bs
    (parts.zipIdx).foldl (fun q p =>
      let at_ := o + 480 * p.2
      let data := ((chunksOf 32 16 p.1).zipIdx).map (fun d => (bytesFlit d.1, decide bad || c.2.contains ((a + at_ + 32 * d.2) / 64)))
      q.sendRank 4 r 0 0 0 ((bulkHead 2 k s.ownRank (at_ / 32), false) :: data)) c.1

def bulkOp (p : NPkt) : Nat := pktField p 0 8

/-- BULK_REQ: answered with DATA, or NOSHARD. A packet that is no REQ, DATA or NOSHARD is discarded. -/
def execBulkReq (s : State) : Res :=
  match s.fleet.bulkIn with
  | [] => .next s
  | p :: _ =>
    let k := pktField p 16 16
    let r := pktField p 32 20
    let o := pktField p 64 25
    let mver := match p.data with
      | _ :: d :: _ => flitBytes d.1
      | _ => []
    if bulkOp p = 2 ∨ bulkOp p = 3 then .next s
    else if bulkOp p ≠ 1 then .next s.popBulk
    else
      let s1 := s.popBulk
      match (if s.fld wgtCfg 31 1 = 1 then s.servable mver k else none) with
      | some w => .next (s1.sendShard r k w.1 w.2 (32 * o))
      | none => .next (s1.sendRank 4 r 0 0 0 [(bulkHead 3 k s.ownRank o, false)])

/-- The model, and which of its fetches, whose shard in hand a peer's packet is for. -/
def State.fetchFrom (s : State) (r k : Nat) : Option (Nat × Bool) :=
  (((fromTo 0 8).map (fun m => (m, false))) ++ (fromTo 0 8).map (fun m => (m, true))).find? (fun w => match (s.slotOf w.1).job w.2 with
    | some f => f.src = 1 && f.peer = r && f.shard = k
    | none => false)

def peerMs : Nat := 1000 * usU

/-- A re-request of the shard in hand; after three the command ends with PEER_TIMEOUT. (DESIGN CHOICE, assumption 69) -/
def State.reRequest (s : State) (m : Nat) (fill : Bool) : State :=
  let x := s.slotOf m
  match x.job fill with
  | none => s
  | some f =>
    if 3 ≤ f.retries then s.endFetch m fill stPeerTimeout
    else (s.setSlot m (x.setJob fill (some { f with retries := f.retries + 1, asked := true }))).askPeer m fill

/-- BULK_DATA: taken at the next expected offset; on a gap the rest is asked for again, once for an offset. (DESIGN CHOICE, assumption 69) -/
def execBulkData (s : State) : Res :=
  match s.fleet.bulkIn with
  | [] => .next s
  | p :: _ =>
    let o := 32 * pktField p 64 25
    if bulkOp p ≠ 2 then .next s
    else match s.fetchFrom (pktField p 32 20) (pktField p 16 16) with
      | none => .next s.popBulk
      | some (m, fill) =>
        let s1 := s.popBulk
        let x := s1.slotOf m
        match x.job fill with
        | none => .next s1
        | some f =>
          if o = f.got.length then
            .next (s1.setSlot m (x.setJob fill (some { f with
              got := f.got ++ (p.data.drop 1).flatMap (fun d => flitBytes d.1)
              spoilt := f.spoilt ++ (((p.data.drop 1).zipIdx).filter (fun d => d.1.2)).map (fun d => o + 32 * d.2)
              since := s.tm.run, asked := false })))
          else if f.got.length < o ∧ !f.asked then .next (s1.reRequest m fill)
          else .next s1

def execBulkNoshard (s : State) : Res :=
  match s.fleet.bulkIn with
  | [] => .next s
  | p :: _ =>
    if bulkOp p ≠ 3 then .next s
    else match s.fetchFrom (pktField p 32 20) (pktField p 16 16) with
      | none => .next s.popBulk
      | some (m, fill) => .next (s.popBulk.endFetch m fill stPeerFail)

/-- PEER_LIMIT ms have passed without DATA for a fetch from a peer; a packet that has arrived by then counts (R35). -/
def State.peerLate (s : State) (m : Nat) (fill : Bool) : Bool :=
  let x := s.slotOf m
  match x.job fill, x.jobMan fill with
  | some f, some man =>
    let here : Bool := s.fleet.bulkIn.any (fun p => bulkOp p = 2 && s.fetchFrom (pktField p 32 20) (pktField p 16 16) = some (m, fill))
    f.src = 1 && (match man.shards[f.shard]? with | some y => decide (f.got.length < y.size) | none => false) && !here &&
      s.passed f.since (s.fld wgtCfg 0 16 * peerMs)
  | _, _ => false

/-- PEER_LIMIT_EXPIRY of a fetch of model m: of its load or repair, else of the fill. (DESIGN CHOICE, assumption 69) -/
def execPeerLimitExpiry (m : BitVec 3) (s : State) : Res :=
  let n := m.toNat
  .next (if s.peerLate n false then s.reRequest n false else if s.peerLate n true then s.reRequest n true else s)

/-! ## Digest scrub (R326) -/

/-- Positions that the scrubber checks, in its order: model × 8,192 + staged × 4,096 + shard. The shards of a model under repair are skipped. -/
def State.scrubList (s : State) : List Nat :=
  (fromTo 0 8).flatMap (fun m =>
    let x := s.slotOf m
    let repair : Bool := match x.fetch with | some f => f.repair | none => false
    if x.st = .empty ∨ x.st = .loading ∨ x.st = .swapping then []
    else
      (match x.man with
       | some y => if repair then [] else (fromTo 0 y.shards.length).map (fun k => m * 8192 + k)
       | none => []) ++
      (if x.stage = .staged then x.changed.map (fun k => m * 8192 + 4096 + k) else []))

/-- DESIGN CHOICE, assumption 69. -/
def execDigestScrub (s : State) : Res :=
  if s.fld (mgtReg 0xB004) 31 1 = 0 then .next s
  else
    let l := s.scrubList
    match (l.find? (fun p => decide (s.wgt.scrubPos ≤ p))).orElse (fun _ => l.head?) with
    | none => .next s
    | some p =>
      let m := p / 8192
      let staged := p / 4096 % 2 = 1
      let k := p % 4096
      let x := s.slotOf m
      let man := if staged then x.swap.map (fun w => w.man) else x.man
      let s1 : State := { s with wgt := { s.wgt with scrubPos := p + 1 } }
      match man.bind (fun y => y.shards[k]?) with
      | none => .next s1
      | some sh =>
        let a := if staged then x.stageAddr k else sh.addr
        .next (s.withLp (s.rangeChans a sh.size) (fun q =>
          let c := (({ q with wgt := { q.wgt with scrubPos := p + 1 } } : State).bump (mgtReg 0xB010) 1).checkShard sh a
          if c.2 = 0 ∨ (!decide staged ∧ x.quar.contains k) then c.1 else c.1.quarantine m k c.2 true staged))

/-- A vault reports CONTENT_LOST: every resident shard in it is quarantined (R150, R327). (DEDUCED, assumption 70) -/
def State.vaultLost (s : State) (v : Nat) : State :=
  (fromTo 0 8).foldl (fun a m =>
    let x := a.slotOf m
    if x.st = .empty ∨ x.st = .loading then a
    else match x.man with
      | none => a
      | some y => ((y.shards.zipIdx).filter (fun k => k.1.addr / vaultSize = v && !x.quar.contains k.2)).foldl
          (fun b k => b.quarantine m k.2 3 false false) a) s

/-! ## Swapping in place (R331 to R333) -/

/-- Every live request with KV prefills its positions again (R332). -/
def State.recomputeKv (s : State) (m : Nat) : State :=
  (s.handlesOf m).foldl (fun a h =>
    let q := a.req h
    if 0 < q.n ∧ q.st ≠ .cold then a.setReq h { q with redo := some 0 } else a) s

/-- The swap is over: the new manifest is in force, the barrier falls, the boundary goes on. (DEDUCED, assumption 70) -/
def State.endSwap (s : State) (m : Nat) (w : Swap) (x : ModelSlot) (status : Nat) : State :=
  let x1 : ModelSlot := { x with man := some w.man, swap := none, stage := .none, st := if status = 0 ∧ x.quar = [] then .ready else .degraded }
  let s1 := if w.recompute then (s.setSlot m x1).recomputeKv m else s.setSlot m x1
  ((s1.modServing m (fun y => { y with barrier := false })).complete w.seq status 0).boundaryRest m

/-- A changed shard goes from staging to its ADDR on privileged channels and is checked there: the cause of its failure, 0 for none (R331). -/
def State.swapShard (s : State) (x : ModelSlot) (y : Shard) (k : Nat) : State × Nat :=
  let src := x.stageAddr k
  if s.rangeStatus src y.size ≠ 0 ∨ s.rangeStatus y.addr y.size ≠ 0 then (s, 3)
  else
    let rd := (s.awaitBanks y.addr y.size).devCheck src y.size false
    ((rd.1.devStore y.addr (rd.1.dvRead src y.size)).copyPoison src y.addr rd.2).checkShard y y.addr

/-- Changed shards of layer l. -/
def ModelSlot.layerShards (x : ModelSlot) (man : Manifest) (l : Nat) : List (Nat × Shard) :=
  x.changed.filterMap (fun k => match man.shards[k]? with
    | some y => if y.layer = l then some (k, y) else none
    | none => none)

/-- The next changed layer, copied and checked: the swap goes on, or ends. -/
def State.swapLayer (s : State) (n : Nat) (x : ModelSlot) (w : Swap) (l : Nat) (rest : List Nat) : State :=
  let ks := x.layerShards w.man l
  let r := ks.foldl (fun (a : State × List (Nat × Nat)) k =>
    let c := a.1.swapShard x k.2 k.1
    (c.1, if c.2 = 0 then a.2 else a.2 ++ [(k.1, c.2)])) (s, [])
  if r.2 ≠ [] then
    let s1 := r.2.foldl (fun (q : State) f => q.quarantine n f.1 f.2 false false) r.1
    s1.endSwap n w (s1.slotOf n) stSwapFailed
  else
    let x1 : ModelSlot := { x with quar := x.quar.filter (fun k => !ks.any (fun j => j.1 = k)) }
    if rest = [] then r.1.endSwap n { w with layers := [] } x1 0
    else r.1.setSlot n { x1 with swap := some { w with layers := rest } }

/-- SWAP_LAYER_COPY: the next changed layer of model m is copied from staging and checked in place. (DEDUCED, assumption 70) -/
def execSwapLayerCopy (m : BitVec 3) (s : State) : Res :=
  let n := m.toNat
  let x := s.slotOf n
  match x.st, x.swap with
  | .swapping, some w =>
    match w.layers with
    | [] => .next (s.endSwap n w x 0)
    | l :: rest =>
      .next (s.withLp (((x.layerShards w.man l).flatMap (fun k => s.rangeChans (x.stageAddr k.1) k.2.size ++ s.rangeChans k.2.addr k.2.size)).eraseDups)
        (fun q => q.swapLayer n x w l rest))
  | _, _ => .next s

/-- The fleet action of kind 4 at its beat. (DEDUCED, assumption 70) -/
def execSwapLayersAction (s : State) : Res :=
  s.takeAction 4 (fun a q =>
    let m := a.arg % 8
    let v := a.arg / 2 ^ 32
    let x := q.slotOf m
    let skip := q.raise 0x203 (m + v % 2 ^ 32 * 2 ^ 32)
    match x.swap with
    | none => skip
    | some w =>
      if !w.fleet ∨ w.man.version ≠ v ∨ a.arg % 2 ^ 32 / 8 ≠ 0 ∨ x.st = .swapping then skip
      else if x.stage = .staged then q.setSlot m { x with swap := some { w with released := true } }
      else (q.setSlot m { x with swap := none, stage := .none, fill := none }).complete w.seq stSwapNotStaged 0)

/-! ## Keys (R321) -/

/-- A slot whose key a resident model's manifest names. -/
def State.keyInUse (s : State) (k : Nat) : Bool :=
  (fromTo 0 8).any (fun m => (s.slotOf m).st ≠ .empty && (match (s.slotOf m).man with | some y => y.keyslot = k | none => false))

def State.keyWait (s : State) (c : Cmd) (slot : Nat) (key : Option (List Byte)) : State :=
  { s.started c.seq 0 with wgt := { (s.started c.seq 0).wgt with flashWait := s.wgt.flashWait ++ [(c.seq, slot, key)] } }

/-- DEDUCED, assumption 71. -/
def execModelKeyEnrol (seq : Dword) (hostErr : Bool) (s : State) : Res :=
  s.runCmd seq 0x43 (fun c =>
    let k := field c.payload 0 1
    if field c.payload 1 1 ≠ 1 then s
    else if s.fld wgtCfg 30 1 = 0 then s.complete c.seq stNotPermitted 0
    else if hostErr then s.complete c.seq stHostError 0
    else if (smFind s.wgt.keys k).isSome then s.complete c.seq stKeySlot 0
    else s.keyWait c k (some (s.hostRead (field c.payload 8 8) 57)))

def execModelKeyRevoke (seq : Dword) (s : State) : Res :=
  s.runCmd seq 0x43 (fun c =>
    let k := field c.payload 0 1
    if field c.payload 1 1 ≠ 2 then s
    else if s.fld wgtCfg 30 1 = 0 then s.complete c.seq stNotPermitted 0
    else if (smFind s.wgt.keys k).isNone ∨ s.keyInUse k then s.complete c.seq stKeySlot 0
    else s.keyWait c k none)

/-- Module flash holds the oldest key change: MODEL_KEY completes. -/
def State.keyWritten (s : State) : State :=
  match s.wgt.flashWait with
  | [] => s
  | w :: rest =>
    let keys := match w.2.2 with | some k => smSet s.wgt.keys w.2.1 k | none => smDel s.wgt.keys w.2.1
    ({ s with wgt := { s.wgt with keys := keys, flashWait := rest } } : State).complete w.1 0 0

end Sys2Proof.Machine
end

