-- ==== Sys2Proof/Machine/Resets.lean ====
section
/-!
DEFINITION. Resets: of the whole chip, of the host interface, of a domain, and the pins and power stages around them (R335 to R346, R355 to
R358, R391, R393, R396).
-/

namespace Sys2Proof.Machine

open Sys2Proof

def stDomainState : Nat := 0x0300

/-! ## Whole-chip reset (R336, R337) -/

/-- RST_CAUSE after a whole-chip reset with source bit `b`: a POR first clears the other bits. -/
def State.causeWith (s : State) (b : Nat) : Word :=
  if b = 0 then 1 else word32 (withField (s.reg (rstReg 0)).toNat b 1 1)

/-- Every register at its reset value, every slot and table empty, no device memory listed; module flash, the stages, the host's memory
and the commands under way from outside stay, and the PCI Express link trains anew (R347). MODE_REQ is taken where the die has rails: a restart keeps what the reset before it took (R242). `cause` is RST_CAUSE afterwards. (DESIGN CHOICE, assumptions 2 and 10; DEDUCED, assumption 77) -/
def State.chipReset (s : State) (cause : Word) : State :=
  let f := State.fresh s.variant (Config.journalSeed s.freeCtr)
  { f with
    pending := s.pending, freeCtr := s.freeCtr + 1, hostMem := s.hostMem, outbox := s.outbox, flash := s.flash
    module := { s.module with i3c := none, linkUp := false }
    tm := { f.tm with refLost := s.tm.refLost, refFrom := 0 }
    wgt := { f.wgt with keys := s.wgt.keys }
    boot := { f.boot with meso := if s.module.rails = .on then s.fld (clkReg 0) 0 1 = 1 else s.boot.meso }
    regs := smSet f.regs (rstReg 0) cause }

def State.resetFrom (s : State) (b : Nat) : State := s.chipReset (s.causeWith b)

def State.setRails (s : State) (r : RailsOff) : State := { s with module := { s.module with rails := r } }

def State.setTrip (s : State) (low : Bool) : State :=
  if s.module.thermtrip = low then s
  else ({ s with module := { s.module with thermtrip := low } } : State).out (.pins low s.module.faultPin)

/-- POR: the die rails reach power-good. Rails that a trip or a fatal fault holds off come back by their own restarts. (DESIGN CHOICE, assumption 76) -/
def execPor (s : State) : Res :=
  match s.module.rails with
  | .on | .input => .next ((s.resetFrom 0).setRails .on)
  | _ => .next s

def execPerst (s : State) : Res :=
  if s.module.rails ≠ .on then .next s
  else
    let s1 := s.resetFrom 1
    .next { s1 with module := { s1.module with perstLow := true } }

/-- PERST_N rises: bring-up may start (R393). -/
def execPerstNRising (s : State) : Res := .next { s with module := { s.module with perstLow := false } }

def execHotrst (s : State) : Res :=
  .next (if s.awake then s.resetFrom 2 else s)

/-- The PCI Express link finishes training (R348). -/
def execPcieLinkUp (s : State) : Res :=
  if !s.awake ∨ s.tm.refLost then .next s else .next { s with module := { s.module with linkUp := true } }

/-- FLR (R299): HIF registers and rings. (DEDUCED, assumption 77) -/
def execFlr (s : State) : Res :=
  if !s.awake then .next s
  else
    let s1 := s.setBit (rstReg 0) 3
    .next { s1 with
      regs := s1.regs.filter (fun r => !(decide (hifReg 0 ≤ r.1) && decide (r.1 < hifReg 0x10000)))
      events := [], evLost := false, evForward := []
      host := { s1.host with
        sq := [], waiting := [], cq := PRing.reset, eq := PRing.reset, roundCnt := 0, heldRound := false
        cmds := s1.host.cmds.map (fun c => if c.ring < 64 then { c with ring := 0xFF } else c) } }

/-- A write of a whole-chip reset bit, or a due RESET_DOMAIN with KIND 7. -/
def State.mgmtReset (s : State) : State := s.resetFrom 4

/-! ## Unlocking (R374). Requester 0 is the host, 1 Ermond's firmware; block 0 RST, 1 MGT. -/

/-- DESIGN CHOICE, assumption 87. -/
def State.isUnlocked (s : State) (req block : Nat) : Bool := s.acc.unlocked.contains (req * 2 + block)

def State.setUnlocked (s : State) (req block : Nat) (on : Bool) : State :=
  let rest := s.acc.unlocked.filter (fun k => k ≠ req * 2 + block)
  { s with acc := { s.acc with unlocked := if on then (req * 2 + block) :: rest else rest } }

/-- A refused access is counted in MGT_ACC_ERR and recorded in MGT_ACC_LAST: kind 1 locked RWK write, 2 partial write, 3 oversize
write (R370, R374). -/
def State.refuseAccess (s : State) (req kind a : Nat) : State :=
  (s.bumpF (mgtReg 4) (if kind = 1 then 24 else if kind = 2 then 16 else 8) 8 1).setReg (mgtReg 8)
    (word32 (2 ^ 31 + kind * 2 ^ 28 + req * 2 ^ 27 + a % 2 ^ 26))

/-- A write of RST_CTRL by a requester, its RWK guard observed. -/
def State.writeCtrl (s : State) (req : Nat) (v : Word) : State :=
  if !s.isUnlocked req 0 then s.refuseAccess req 1 (rstReg 4)
  else if fieldOf v.toNat 31 1 = 1 then s.mgmtReset
  else s.setUnlocked req 0 false

def execChipResetWrite (req : BitVec 1) (value : Word) (s : State) : Res :=
  .next (if s.reaches ∧ s.fnServes req.toNat then s.writeCtrl req.toNat value else s)

/-! ## Watchdog, thermal trip, chip-fatal faults, input (R338, R339, R358, R396) -/

def wdogMs : Nat := 1000 * usU

def execWdog (s : State) : Res :=
  if !s.awake ∨ s.boot.stages < 4 ∨ s.fld (rstReg 0xC) 31 1 = 0 ∨ !s.passed s.boot.wdogFrom (s.fld (rstReg 0xC) 0 16 * wdogMs) then .next s
  else .next (((s.setFault true).resetFrom 5).setFault s.module.faultPin)

def execWdogRestart (s : State) : Res :=
  if s.boot.stages < 4 then .next s else .next { s with boot := { s.boot with wdogFrom := s.tm.run } }

/-- A junction reads 115 °C: THERMTRIP_N, rails off, the trip latched. (DESIGN CHOICE, assumption 76) -/
def execTherm (s : State) : Res :=
  if s.module.rails ≠ .on then .next s
  else
    let s1 := (s.resetFrom 6).setTrip true
    .next { s1 with module := { s1.module with rails := .therm, thermLatch := true } }

/-- At least 10 s later, with the stages' sensor below 90 °C, the stages restart the die; the cause shown is THERM alone. (DESIGN CHOICE, assumption 76) -/
def execThermRestart (temp : BitVec 8) (s : State) : Res :=
  if s.module.rails ≠ .therm ∨ 90 ≤ temp.toNat ∨ s.tm.run < 10 * secU then .next s
  else .next (((s.chipReset (word32 (2 ^ 6))).setRails .on).setTrip false)

/-- HLT_FATAL as the latch of a cause and index shows it. -/
def fatalCode (cause index : Nat) : Nat := 2 ^ 31 + cause % 256 * 2 ^ 8 + index % 256

/-- A chip-fatal fault: FAULT_N low, the code latched by the stages, the rails cut. -/
def State.chipFatal (s : State) (cause index : Nat) : State :=
  if s.module.rails ≠ .on then s
  else
    let s1 := (s.setFault true).resetFrom 0
    { s1 with module := { s1.module with rails := .fatal, fatalLatch := fatalCode cause index } }

/-- CHIP_FATAL with a cause (1 to 6) and the number of the region, supervisor or stage. (DESIGN CHOICE, assumption 76) -/
def execChipFatal (cause index : BitVec 8) (s : State) : Res :=
  .next (if 1 ≤ cause.toNat ∧ cause.toNat ≤ 6 then s.chipFatal cause.toNat index.toNat else s)

/-- The loss of REFCLK, found after 1 µs, has lasted 10 µs. (DEDUCED, assumption 76) -/
def execRefLossFatal (s : State) : Res := .next (if s.tm.refLost ∧ s.passed s.tm.refFrom (9 * usU) then s.chipFatal 1 0 else s)

/-- REFCLK edges return, or first arrive: the PLLs track it again, FAULT_N is released. -/
def execRefclkRestored (s : State) : Res :=
  if !s.tm.refLost then .next s
  else
    let s1 : State := { s with tm := { s.tm with refLost := false } }
    .next (if s.module.fatalLatch = 0 then s1.setFault false else s1)

/-- 1 s after a chip-fatal fault the stages restart the die, as from a POR. (DESIGN CHOICE, assumption 76) -/
def execFatalRestart (s : State) : Res :=
  if s.module.rails ≠ .fatal ∨ s.tm.run < secU then .next s else .next ((s.resetFrom 0).setRails .on)

/-- The 48 V input leaves its range (in 0.1 V: below 42.0 V or above 58 V): the rails drop, and the latches and pins with them. (DESIGN CHOICE, assumption 76) -/
def execInputShutdown (volts : BitVec 16) (s : State) : Res :=
  if 420 ≤ volts.toNat ∧ volts.toNat ≤ 580 then .next s
  else
    let s1 := (((s.resetFrom 0).setFault false).setTrip false)
    .next { s1 with module := { s1.module with rails := .input, fatalLatch := 0, thermLatch := false } }

/-! ## RESET_DOMAIN (R340 to R345) -/

def Cmd.kind (c : Cmd) : Nat := field c.payload 0 1
def Cmd.index (c : Cmd) : Nat := field c.payload 1 1

def State.postDomain (s : State) (c : Cmd) (release : Bool) : State :=
  if c.kind ≠ 7 ∧ !s.domainPresent c.kind c.index then s.complete c.seq stUnitAbsent 0
  else
    let s1 := s.started c.seq 0
    { s1 with boot := { s1.boot with
        domOrders := s1.boot.domOrders ++ [{ seq := c.seq, kind := c.kind, index := c.index, release := release, beat := field c.payload 8 8 }] } }

def execResetDomainReset (seq : Dword) (s : State) : Res :=
  s.runCmd seq 0x22 (fun c => if field c.payload 2 1 = 1 ∧ c.kind ≠ 7 then s.postDomain c false else s)

def execResetDomainRelease (seq : Dword) (s : State) : Res :=
  s.runCmd seq 0x22 (fun c => if field c.payload 2 1 = 2 ∧ c.kind ≠ 7 then s.postDomain c true else s)

def execResetDomainChip (seq : Dword) (s : State) : Res :=
  s.runCmd seq 0x22 (fun c => if c.kind = 7 then s.postDomain c false else s)

/-- The oldest order of a domain, once its beat has begun. -/
def State.dueOrder (s : State) (kind index : Nat) : Option DomOrder :=
  match s.boot.domOrders.find? (fun o => o.kind = kind && o.index = index) with
  | some o => if s.gateOpen o.beat then some o else none
  | none => none

def State.dropOrder (s : State) (o : DomOrder) : State := { s with boot := { s.boot with domOrders := s.boot.domOrders.erase o } }

def State.domainEvent (s : State) (kind index st : Nat) : State := s.raise 0x301 (kind + index * 2 ^ 8 + st * 2 ^ 16)

/-! ### What the rise of a wrapper does (R343) -/

/-- A Ladle channel that addresses the domain faults with RESP_ERROR; its command completes with ABORTED_RESET. -/
def State.respErrors (s : State) (l : Nat) (names : LDesc → Bool) : State :=
  (fromTo 0 16).foldl (fun q k =>
    match (q.lchan l k).tr with
    | some tr => if names tr.d then q.ladleFault l k 4 tr.d.flow stAbortedReset else q
    | none => q) s

/-- Another Ladle's transfer into the intake of unit u has data there that nothing answers any more: it faults with RESP_ERROR. -/
def State.intakeErrors (s : State) (u : Nat) : State :=
  (fromTo 0 66).foldl (fun q l => (fromTo 0 16).foldl (fun w k =>
    match (w.lchan l k).tr with
    | some tr => if tr.d.dkind = 3 ∧ tr.d.dst % 256 = u ∧ 0 < tr.done then w.ladleFault l k 4 tr.d.flow stAbortedReset else w
    | none => w) q) s

/-- What stands at an intake goes. -/
def State.clearIntake (s : State) (p : OwnPort) : State := { s with intakeQ := smDel s.intakeQ (ownKey p) }

/-- A Ladle's channels are emptied without a pulse, a packet under way ends in poison; the commands that waited on them complete with
ABORTED_RESET, and transfers of other Ladles into its intake fault (R186, R343). -/
def State.emptyLadle (s : State) (l : Nat) : State :=
  let x := s.ladle l
  let cmds := (x.ch.flatMap (fun c => c.2.slots)).map (fun w => w.2)
  let s1 := (s.clearIntake (ladlePort l)).setLadle l { x.cut (fun _ => true) with ch := [], intake := [] }
  (cmds.foldl (fun (q : State) c => q.endCmd c stAbortedReset) s1).intakeErrors (unitCode l)

/-- A Skillet item in progress is abandoned; none of its records is sent, and what its intake holds goes (R13, R150). -/
def State.abandonSkillet (s : State) (v : Nat) : State :=
  let k := s.skillet v
  (if k.busy then (s.setSkillet v SkilletState.reset).stopUnit (sklUnit v) else s).clearIntake (.skillet (BitVec.ofNat 6 v))

def State.selfRefresh (s : State) (v : Nat) (on : Bool) : State := s.modVault v (fun x => { x with selfref := on })

def clusterTiles (c : Nat) : List Nat := (fromTo 0 64).map (tileAt c)

/-- A tile of a reset cluster: its Colander closes with ZEROED 0 and it enters ISOLATED. Its runs stop, their commands with
ABORTED_RESET. -/
def State.isolateTile (s : State) (t : Nat) : State :=
  let s1 := ((s.closeColander t).modRouter t (fun r => { r with col := .fenced, zeroed := false })).failReinstate t
  let cmds := (s1.replays.filter (fun q => q.tiles.contains t && !q.stopped)).filterMap (fun q => q.cmd)
  let s2 := cmds.foldl (fun (q : State) c => q.complete c stAbortedReset 0) s1
  let s3 := (s2.stopRuns t).serveHalted t
  let s4 := s3.modTile t (fun x => { x with st := .isolated, pendStart := none })
  if s4.power.active.contains (teUnit t) then s4.stopUnit (teUnit t) else s4

/-- DEDUCED, assumption 78. -/
def State.isolateCluster (s : State) (c : Nat) : State :=
  let s1 := (clusterTiles c).foldl State.isolateTile s
  let s2 := (s1.modCluster c (fun x => { x with isolated := true })).selfRefresh c true
  (s2.abandonSkillet c).emptyLadle c

/-- Every row that the Sieve holds fails its draw. -/
def State.failRows (s : State) : State :=
  let rows := s.srv.rows ++ (match s.srv.part with | some r => [r] | none => [])
  rows.foldl (fun (q : State) r => (q.bump (sveReg 0x14) 1).returnRow r.model r.handle none)
    { s with srv := { s.srv with rows := [], part := none } }

/-- What the rise of a domain's wrapper does at once. -/
def State.wrapperRises (s : State) (kind index : Nat) : State :=
  if kind = 1 then s.isolateCluster index
  else if kind = 2 then ((s.selfRefresh index true).abandonSkillet index).respErrors index (onVault index)
  else if kind = 3 then
    (if carries (s.nport index) then s.declareDown index 5 .down
     else s.modNport index (fun x =>
      if x.st = .train ∨ x.st = .probation then { x with st := .down, lanes := 0, downFrom := s.tm.run } else x))
  else if kind = 4 then
    (fromTo 0 66).foldl (fun q l => q.respErrors l (onChannel index)) ((s.setLpch index { s.lpch index with st := .selfref }).stopUnit (lpUnit index))
  else if kind = 5 then s.failRows
  else s.emptyLadle (64 + index)

/-- R344: every RUNNING tile outside the domain whose running segment names it halts with PEER_RESET. -/
def State.haltPeers (s : State) (kind index : Nat) : State :=
  (s.tiles.map (fun t => t.1)).foldl (fun q t =>
    let x := q.tile t
    let named : Bool := match q.findSeg x.seg with | some g => q.segNames g kind index | none => false
    if x.st = .running ∧ !(kind = 1 ∧ clusterOf t = index) ∧ named then q.halt t 6 rsnPeerReset 0 (peerInfo kind index) else q) s

/-- DOMAIN_RESET_EFFECT: a due RESET order of a domain. KIND 7 resets the chip. (DEDUCED, assumption 78) -/
def execDomainResetEffect (kind : BitVec 3) (index : BitVec 6) (s : State) : Res :=
  let k := kind.toNat
  let i := index.toNat
  match s.dueOrder k i with
  | none => .next s
  | some o =>
    if o.release then .next s
    else
      let s1 := s.dropOrder o
      if k = 7 then .next s1.mgmtReset
      else if s.domain k i ≠ .run ∨ (k = 2 ∧ s.domain 1 i ≠ .run) then .next (s1.complete o.seq stDomainState 0)
      else
        let s2 := (((s1.setBit (rstReg 0) 7).setDomain k i .reset).wrapperRises k i).haltPeers k i
        let s3 : State := { s2 with boot := { s2.boot with resetting := smSet s2.boot.resetting (domKey k i) o.seq } }
        .next (s3.domainEvent k i 1)

/-- A tile's logic after its reset: its scrub position stands (R121), as do the faults of its array and the credits of its router, which is not
reset (R13). -/
def TileState.afterReset (x : TileState) : TileState :=
  { TileState.reset with
    scrubPos := x.scrubPos, scrubPasses := x.scrubPasses, scrubSpan := x.scrubSpan, scrubDone := x.scrubDone
    injCredit := x.injCredit, cellFaults := x.cellFaults }

/-- What the reset of a domain's logic leaves: a cluster's tiles, controller and Ladle, a port's link layer, the Sieve. The packets that a port has
accepted, and those that its failed link left, stand as after any other fall of it (R205, R206). (DEDUCED, assumption 78) -/
def State.resetLogic (s : State) (kind index : Nat) : State :=
  if kind = 1 then
    let s1 := (clusterTiles index).foldl (fun q t => q.setTile t { (q.tile t).afterReset with st := .isolated }) s
    let s2 := s1.modCluster index (fun x => { ClusterState.reset with epoch := x.epoch, epochAt := x.epochAt, isolated := true })
    let s3 := (s2.setLadle index LadleState.reset).setReg (ldlReg index 8) 0
    { s3 with unlocked := s3.unlocked.erase index }
  else if kind = 3 then s.modNport index (fun x => { x with times := [], ctl := [] })
  else s

/-- DOMAIN_HELD: the domain's logic has finished its reset; RESET_DOMAIN completes. -/
def execDomainHeld (kind : BitVec 3) (index : BitVec 6) (s : State) : Res :=
  let k := kind.toNat
  let i := index.toNat
  if s.domain k i ≠ .reset then .next s
  else
    let s1 := (s.resetLogic k i).setDomain k i .held
    let s2 : State := { s1 with boot := { s1.boot with resetting := smDel s1.boot.resetting (domKey k i) } }
    .next (match smFind s.boot.resetting (domKey k i) with
      | some seq => s2.complete seq 0 0
      | none => s2)

/-- DOMAIN_RELEASE_EFFECT: a due RELEASE order; the command completes at the entry to RESTORE, and a port starts to train. -/
def execDomainReleaseEffect (kind : BitVec 3) (index : BitVec 6) (s : State) : Res :=
  let k := kind.toNat
  let i := index.toNat
  match s.dueOrder k i with
  | none => .next s
  | some o =>
    if !o.release then .next s
    else
      let s1 := s.dropOrder o
      if s.domain k i ≠ .held then .next (s1.complete o.seq stDomainState 0)
      else
        let s2 := (s1.setDomain k i .restore).complete o.seq 0 0
        .next (if k = 3 then s2.startTraining i else s2)

/-- A vault could not keep its contents: CONTENT_LOST, its bytes unspecified, its pages and shards lost (R150, R327). (DESIGN CHOICE, assumption 2) -/
def State.contentLost (s : State) (v : Nat) : State :=
  let s1 := ((s.setBit (vltReg v 4) 28).health (partVault v) 2).vaultLost v
  { s1.dvWrite (v * vaultSize) ((fromTo 0 vaultSize).map (Config.undefByte s1.freeCtr)) with freeCtr := s1.freeCtr + 1 }

/-- A vault leaves self-refresh, its contents kept or not. -/
def State.wakeVault (s : State) (v : Nat) (kept : Bool) : State :=
  let s1 := s.selfRefresh v false
  if kept then s1 else s1.contentLost v

/-- A tile of a released cluster: zero-filled, IDLE, its Colander FENCED with ZEROED 1. -/
def State.restoreTile (s : State) (t : Nat) : State :=
  let lo := tmAddr t 0 0
  let hi := tmAddr (t + 1) 0 0
  let s1 : State := { s with
    tileMem := memClear s.tileMem lo hi
    wordErr := s.wordErr.filter (fun p => !(decide (lo ≤ p.1 * 32) && decide (p.1 * 32 < hi))) }
  (s1.setTile t (s1.tile t).afterReset).modRouter t (fun r => { r with zeroed := true })

/-- The restore steps of a domain can be complete: a port has served its probation, or is not to train (R345). -/
def State.restored (s : State) (kind index : Nat) : Bool :=
  let x := s.nport index
  kind ≠ 3 || carries x || x.st = .off || x.st = .loop

/-- DOMAIN_RESTORE_COMPLETE. `kept`: a vault's contents stood; `passes`: the rates at which an LPDDR6 channel trains. -/
def execDomainRestoreComplete (kind : BitVec 3) (index : BitVec 6) (kept : Bool) (passes : List (BitVec 2)) (s : State) : Res :=
  let k := kind.toNat
  let i := index.toNat
  if s.domain k i ≠ .restore ∨ !s.restored k i then .next s
  else
    let s1 := s.setDomain k i .run
    let s2 :=
      if k = 1 then
        let q := ((clusterTiles i).foldl State.restoreTile s1).modCluster i (fun x => { x with isolated := false })
        let w := (q.clearIntake (.skillet (BitVec.ofNat 6 i))).clearIntake (.ladle (BitVec.ofNat 6 i))
        if q.domain 2 i = .run then w.wakeVault i kept else w
      else if k = 2 then (if s1.domain 1 i = .run then s1.wakeVault i kept else s1)
      else if k = 4 then
        let x := s1.lpch i
        let rmax := s1.fld (lpxReg 4) 24 2
        match (fromTo rmax (3 - rmax)).find? (fun r => passes.any (fun p => p.toNat = r)) with
        | some r => s1.setLpch i { x with st := .up, rate := r, powerDown := false }
        | none => ((s1.setLpch i { x with st := .down }).raise 0x14 (i + x.temp * 2 ^ 8)).health (partLp i) 2
      else if k = 5 then (s1.setReg (sveReg 8) 0).setReg (sveReg 0xC) 0
      else if k = 6 then ((s1.clearIntake (ladlePort (64 + i))).emptyLadle (64 + i)).setReg (ldlReg (64 + i) 8) 0
      else s1
    .next (s2.domainEvent k i 0)

/-! ## Cluster-fatal faults (R355 to R357) -/

/-- The management order for a cluster's reset, two beats ahead. (DEDUCED, assumption 78) -/
def clusterResetDesc (c beat : Nat) : List Byte :=
  leBytes 2 0x22 ++ List.replicate 14 0 ++ leBytes 1 1 ++ leBytes 1 c ++ [1] ++ List.replicate 5 0 ++ leBytes 8 beat ++ List.replicate 32 0

/-- A cluster's region loses ADPLL lock: its units stop at once, held starts among them, and run no ballast (R269, R271). -/
def State.loseLock (s : State) (c : Nat) : State :=
  let other (u : Nat) : Bool := unitCluster u ≠ c
  ({ s with
    unlocked := if s.unlocked.contains c then s.unlocked else c :: s.unlocked
    power := { s.power with
      active := s.power.active.filter other, granted := s.power.granted.filter other, held := s.power.held.filter other } } : State).rebalance

/-- CLUSTER_FATAL: causes 1 controller memory, 2 loss of ADPLL lock, 3 heartbeat. (DEDUCED, assumption 78) -/
def execClusterFatal (cluster : BitVec 6) (cause : BitVec 4) (s : State) : Res :=
  let c := cluster.toNat
  if s.nClusters ≤ c then .next s
  else
    let already := decide (s.domain 1 c ≠ .run) || (s.cluster c).isolated
    let order := s.fld (mgtReg 0xC000) 31 1 = 1 && !already
    let s0 := if cause = 2 then s.loseLock c else s
    let s1 := s0.setReg (mgtReg 0xC010) (word32 (2 ^ 31 + bit order * 2 ^ 30 + cause.toNat * 2 ^ 8 + c))
    let s2 := (s1.health (partCluster c) 2).raise 0x401 (c + cause.toNat * 2 ^ 8 + bit order * 2 ^ 12)
    if order then
      let seq := s2.host.next
      let s3 := s2.accept 0xFE 0 (clusterResetDesc c (s.beat.toNat + 2)) false
      .next (match s3.cmdReady seq 0x22 with
        | some q => s3.postDomain q false
        | none => s3)
    else .next s2

end Sys2Proof.Machine
end

