-- ==== Sys2Proof/Machine/Boot.lean ====
section
/-!
DEFINITION. Bring-up, identity, module flash, attestation and management (R347 to R354, R390).
-/

namespace Sys2Proof.Machine

open Sys2Proof

/-! ## Module flash (R321, R351, R352) -/

/-- The newest copy whose digest checks, and how many newer ones do not. -/
def FlashRecord.inForce (r : FlashRecord) : Option (List Byte) := (r.copies.find? (fun c => shake256 32 c.1 = c.2)).map (fun c => c.1)
def FlashRecord.skipped (r : FlashRecord) : Nat := (r.copies.takeWhile (fun c => shake256 32 c.1 ≠ c.2)).length

/-- A change appended to a record. -/
def FlashRecord.append (r : FlashRecord) (content : List Byte) : FlashRecord :=
  { copies := (content, shake256 32 content) :: r.copies, left := r.left - 1 }

/-- A record is read: RECORD_CORRUPT for each copy skipped. -/
def State.readRecord (s : State) (k : Nat) (r : FlashRecord) : State := (fromTo 0 r.skipped).foldl (fun (q : State) _ => q.raise 0x303 k) s

def State.secVer (s : State) : Nat := match s.flash.secVer.inForce with | some bs => (bs.headD 0).toNat | none => 0

def State.fwSlot (s : State) (b : Nat) : List Byte := smGet s.flash.fw b []

/-- A slot is signed with the vendor key, whose digest the fuses hold (R349). -/
def fwSigned (img : List Byte) : Bool :=
  shake256 32 (Config.fwKey img) = Config.fuseDigest && ed448Verify (Config.fwKey img) (Config.fwBody img) (Config.fwSignature img)

/-- A slot's firmware may run (R349). -/
def State.fwValid (s : State) (b : Nat) : Bool := fwSigned (s.fwSlot b) && decide (s.secVer ≤ Config.fwSvn (s.fwSlot b))

/-- The image that the ROM has started: a later write of its slot does not change it. -/
def State.runningFw (s : State) : List Byte := s.boot.running
def State.runningSvn (s : State) : Nat := s.fld (rstReg 0x40) 8 8

/-! ## Bring-up (R347 to R350) -/

/-- Milliseconds since the release of reset: of 1,000 beats each (GEN_STATUS.ELAPSED). (DEDUCED, assumption 83) -/
def State.elapsed (s : State) : Nat := min 0xFFFF (s.tm.beats / 1000)

/-- Bring-up stops with a cause in GEN_STATUS.ERR; ELAPSED stands from here on. (DESIGN CHOICE, assumption 75) -/
def State.bringupError (s : State) (err : Nat) : State := (s.setFld (genReg 4) 24 4 err).setFld (genReg 4) 0 16 s.elapsed

/-- A stage is complete: GEN_STATUS shows it, READY at the last. (DESIGN CHOICE, assumption 75) -/
def State.stageDone (s : State) (k : Nat) : State :=
  let s1 := s.setFld (genReg 4) 29 3 k
  { (if k = 7 then (s1.setFld (genReg 4) 28 1 1).setFld (genReg 4) 0 16 s.elapsed else s1) with boot := { s1.boot with stages := k + 1 } }

/-- Stage ROM: the UDS, a valid firmware slot, DSEED and CDI. `fail`: the PUF key is not recovered; `unread`: module flash cannot be read.
(DEDUCED, assumption 73) -/
def State.bootRom (s : State) (fail unread : Bool) : State :=
  if unread then s.bringupError 4
  else if fail then s.bringupError 2
  else
    let s0 := s.readRecord 0 s.flash.secVer
    let slot := if s.fwValid 0 then some 0 else if s.fwValid 1 then some 1 else none
    match slot with
    | none => (s0.setBit (rstReg 0x40) 30).bringupError 1
    | some b =>
      let img := s.fwSlot b
      let w := b * 2 ^ 31 + b * 2 ^ 30 + Config.fwSvn img % 256 * 2 ^ 8
      let s1 := s0.setReg (rstReg 0x40) (word32 w)
      let s2 := if b = 1 then s1.raise 0x302 1 else s1
      ({ s2 with boot := { s2.boot with
          running := img
          dseed := shake256 57 (Config.uds ++ [0x44]), cdi := shake256 64 (Config.uds ++ shake256 32 img) } } : State).stageDone 1

/-- Stage CAL: the crossings are calibrated, with their latencies, or MESO mode (R242). -/
def State.calibrate (s : State) (fail : Bool) (lat : List Byte) : State :=
  let meso := s.boot.meso || fail
  let s1 := s.setFld (clkReg 0) 31 1 (bit meso)
  let bs := if meso then [] else lat.take 25
  let s2 := (fromTo 0 7).foldl (fun (q : State) i => q.setReg (clkReg (0x10 + 4 * i)) (word32 (field bs (4 * i) 4))) s1
  let s3 := if fail && !s.boot.meso then (s2.setFld (clkReg 0) 30 1 1).raise 0x44 0 else s2.setFld (clkReg 0) 30 1 0
  s3.stageDone 2

/-- Stage FIRMWARE: DICE layers built, the watchdog started, the stages' fatal latch copied to HLT_FATAL, Hot-Join asked for. (DESIGN CHOICE, assumption 76) -/
def State.startFirmware (s : State) : State :=
  let s1 := s.setFld (rstReg 0x40) 29 1 1
  let s2 := if s1.module.fatalLatch ≠ 0 then s1.setReg (mgtReg 0xC00C) (word32 s1.module.fatalLatch) else s1
  let s3 : State := { s2 with module := { s2.module with fatalLatch := 0 }, boot := { s2.boot with wdogFrom := s2.tm.run } }
  (((if s3.tm.refLost then s3 else s3.setFault false)).out .hotJoin).stageDone 3

/-- Entry 0 of the journal (R295, R296). (DESIGN CHOICE, assumption 75) -/
def State.startJournal (s : State) : State :=
  let b := s.beat.toNat
  let head := entryHead 0 0xFF 0xFF 0 b 0
  let chain := chainOf s.host.seed head (List.replicate 64 0)
  let e := head ++ jrnDone b 0 ++ List.replicate 5 0 ++ leBytes 16 chain.toNat
  let s1 := s.dvWrite (jrnAddr 0) e
  { s1 with host := { s1.host with chain := chain } }

/-- Stage VAULTS: every present vault trained; the journal begins in V0. (DESIGN CHOICE, assumption 75) -/
def State.trainVaults (s : State) (fail : Bool) : State :=
  if fail then s.bringupError 3
  else (((fromTo 0 s.nClusters).foldl (fun (q : State) v => q.modVault v (fun x => { x with trained := true })) s).startJournal).stageDone 4

/-- Stage TABLES: link IDs from the identity record, where module flash can be read. -/
def State.writeTables (s : State) (unread : Bool) : State :=
  if unread then s.bringupError 4
  else
  let s1 := (s.readRecord 1 s.flash.repair).readRecord 2 s.flash.ident
  let id := match s.flash.ident.inForce with | some c => Config.linkId c | none => 0
  ((fromTo 0 s.nPorts).foldl (fun (q : State) n => q.setReg (nbpReg n 0x14) (id.setWidth 32)) s1).stageDone 6

/-- Stage READY: the Novbo ports begin training. -/
def State.becomeReady (s : State) : State :=
  let s1 := s.stageDone 7
  (fromTo 0 s.nPorts).foldl (fun (q : State) n =>
    if q.fld (nbpReg n 0) 0 1 = 1 ∧ (q.nport n).st = .off then q.modNport n (fun x => { x with st := .train }) else q) s1

/-- BRINGUP_STAGE: the next stage completes, or bring-up stops with a cause. `fail`: the PUF key, the calibration or a vault fails, by stage; `unread`:
module flash cannot be read; `lat`: the crossings' latencies. (DESIGN CHOICE, assumption 75) -/
def execBringupStage (fail unread : Bool) (lat : List Byte) (s : State) : Res :=
  if !s.awake ∨ s.tm.refLost ∨ s.fld (genReg 4) 24 4 ≠ 0 then .next s
  else match s.boot.stages with
    | 0 => .next (s.stageDone 0)
    | 1 => .next (s.bootRom fail unread)
    | 2 => .next (s.calibrate fail lat)
    | 3 => .next s.startFirmware
    | 4 => .next (s.trainVaults fail)
    | 5 => .next (if s.full ∧ (fromTo 0 32).any (fun c => (s.lpch c).st = .untrained) then s else s.stageDone 5)
    | 6 => .next (s.writeTables unread)
    | 7 => .next s.becomeReady
    | _ => .next s

/-! ## Commits and updates (R348, R351, R352) -/

/-- A write of RST_SEC_COMMIT by a requester, its RWK guard observed. -/
def State.writeSecCommit (s : State) (req : Nat) (v : Word) : State :=
  if !s.isUnlocked req 0 then s.refuseAccess req 1 (rstReg 0x48)
  else
    let s1 := s.setUnlocked req 0 false
    if fieldOf v.toNat 31 1 = 1 ∧ s.ready ∧ s.boot.commit = none ∧ s.secVer < s.runningSvn ∧ 0 < s.flash.secVer.left then
      { s1 with boot := { s1.boot with commit := some s.runningSvn } }
    else s1

def execSecCommit (req : BitVec 1) (value : Word) (s : State) : Res :=
  .next (if s.reaches ∧ s.fnServes req.toNat then s.writeSecCommit req.toNat value else s)

/-- Module flash holds a change: of the security version record, or the oldest one of a key slot. -/
def execFlashWriteComplete (sec : Bool) (s : State) : Res :=
  if sec then
    match s.boot.commit with
    | none => .next s
    | some v => .next { s with
        flash := { s.flash with secVer := s.flash.secVer.append [BitVec.ofNat 8 v] }
        boot := { s.boot with commit := none } }
  else .next s.keyWritten

/-- PLDM for Firmware Update: a firmware slot is written; a service package only if the vendor signed it and a change is left. The ROM
answers too where it found no valid firmware. (DEDUCED, assumption 74) -/
def execPldmFirmwareUpdate (target : PldmTarget) (image : List Byte) (s : State) : Res :=
  if !s.mctpUp ∧ !(s.awake ∧ s.fld (genReg 4) 24 4 = 1) then .next s
  else
    let put (f : Flash) : Res := .next (({ s with flash := f } : State).mctpOut (.pldmUpdate true))
    let refuse : Res := .next (s.mctpOut (.pldmUpdate false))
    match target with
    | .slotA => put { s.flash with fw := smSet s.flash.fw 0 image }
    | .slotB => put { s.flash with fw := smSet s.flash.fw 1 image }
    | .repair =>
      if Config.packageSigned image ∧ 0 < s.flash.repair.left then put { s.flash with repair := s.flash.repair.append image } else refuse
    | .ident =>
      if Config.packageSigned image ∧ 0 < s.flash.ident.left then put { s.flash with ident := s.flash.ident.append image } else refuse

/-- PLDM type 2: input voltage and power, stage and stack temperature as last sampled, the hottest junction, the pins. (DEDUCED, assumption 74) -/
def execPldmPlatformMonitoring (s : State) : Res :=
  if !s.mctpUp then .next s
  else
    let hottest := s.regions.foldl (fun a r => max a r.2.temp) 0
    .next (s.mctpOut (.pldmPlatform s.power.vin s.power.avg s.power.tStage s.power.tStack hottest s.module.thermtrip s.module.faultPin))

/-- The I3C controller assigns a dynamic address, by ENTDAA, or by SETDASA to the static address it names (R390). -/
def execDynamicAddressAssignment (addr : BitVec 7) (static : Option (BitVec 7)) (s : State) : Res :=
  let mine : Bool := match static with
    | none => s.module.i3c.isNone
    | some a => s.module.i3c.isNone && s.fld (mgtReg 0x14) 0 7 = a.toNat
  .next (if s.mctpUp ∧ mine then { s with module := { s.module with i3c := some addr.toNat } } else s)

/-! ## SPDM (R353, R354) -/

def State.spdm (s : State) (doe : Bool) : SpdmState := smGet s.boot.spdm (bit doe) SpdmState.reset
def State.setSpdm (s : State) (doe : Bool) (x : SpdmState) : State := { s with boot := { s.boot with spdm := smSet s.boot.spdm (bit doe) x } }

/-- The transport answers: DOE while the link is up, MCTP while its target is. -/
def State.spdmUp (s : State) (doe : Bool) : Bool := if doe then s.awake && decide (4 ≤ s.boot.stages) && s.module.linkUp else s.mctpUp

/-- An answer, where the transport is up. -/
def State.answer (s : State) (doe : Bool) (r : SpdmResp) : Res := .next (if !s.spdmUp doe then s else if doe then s.out (.spdm doe r) else s.mctpOut (.spdm doe r))

/-- DEDUCED, assumption 74. -/
def execGetVersion (doe : Bool) (s : State) : Res := (if s.spdmUp doe then s.setSpdm doe SpdmState.reset else s).answer doe (.versions [0x12, 0x13])

def execGetCapabilities (doe : Bool) (version : BitVec 8) (s : State) : Res :=
  if s.spdmUp doe ∧ (version = 0x12 ∨ version = 0x13) then
    (s.setSpdm doe { s.spdm doe with version := some version.toNat, caps := true }).answer doe .capabilities
  else s.answer doe .error

/-- The requester offers algorithms; Ed448 with SHA3-512 is agreed, or nothing. -/
def execNegotiateAlgorithms (doe : Bool) (ed448 sha3 : Bool) (s : State) : Res :=
  if s.spdmUp doe ∧ (s.spdm doe).caps ∧ ed448 ∧ sha3 then (s.setSpdm doe { s.spdm doe with algs := true }).answer doe .algorithms
  else s.answer doe .error

/-- The alias key (R350). -/
def State.aliasPrivate (s : State) : List Byte := Config.aliasKey s.boot.cdi

/-- The alias certificate: the DeviceID key, which is that of DSEED, signs the alias public key, the firmware's digest and its SVN (R350).
(DEDUCED, assumption 73) -/
def State.aliasCert (s : State) : List Byte :=
  let tbs := Config.aliasTbs (ed448Public s.boot.dseed) (ed448Public s.aliasPrivate) (shake256 32 s.runningFw) s.runningSvn
  Config.x509 tbs (ed448Sign s.boot.dseed tbs)

/-- The chain of slot 0 to the alias certificate (R350, R353). (DEDUCED, assumption 73) -/
def State.certChain (s : State) : List Byte := Config.deviceChain ++ s.aliasCert

def execGetDigests (doe : Bool) (s : State) : Res :=
  s.answer doe (if (s.spdm doe).algs then .digest (sha3512 s.certChain) else .error)

def execGetCertificate (doe : Bool) (slot : BitVec 8) (off len : BitVec 16) (s : State) : Res :=
  let c := s.certChain
  s.answer doe (if (s.spdm doe).algs ∧ slot = 0 ∧ off.toNat < c.length then
    .certificate ((c.drop off.toNat).take len.toNat) (c.length - off.toNat - len.toNat) else .error)

/-- The measurement blocks (R354). -/
def State.measured (s : State) : Nat → List Byte
  | 1 => Config.romImage
  | 2 => s.runningFw
  | 3 => [BitVec.ofNat 8 s.secVer, BitVec.ofNat 8 s.runningSvn]
  | 4 => (s.flash.repair.inForce).getD []
  | 5 => leBytes 4 (s.reg (genReg 8)).toNat ++ leBytes 4 (s.reg (genReg 0xC)).toNat
  | _ => (fromTo 0 8).flatMap (fun k => smGet s.wgt.keys k (List.replicate 57 0))

/-- DEDUCED, assumption 74. -/
def State.measurement (s : State) (i : Nat) : Nat × List Byte := (i, sha3512 (s.measured i))

/-- DEDUCED, assumption 74. -/
def execChallenge (doe : Bool) (slot : BitVec 8) (nonce : List Byte) (s : State) : Res :=
  s.answer doe (if (s.spdm doe).algs ∧ slot = 0 then
    .challengeAuth (ed448Sign s.aliasPrivate (Config.spdmTranscript nonce (sha3512 s.certChain))) else .error)

/-- GET_MEASUREMENTS of one block, of all (0xFF), or of their number (0); signed where a nonce comes with it. (DEDUCED, assumption 74) -/
def execGetMeasurements (doe : Bool) (index : BitVec 8) (nonce : Option (List Byte)) (s : State) : Res :=
  let blocks := if index = 0xFF then (fromTo 1 6).map s.measurement
    else if 1 ≤ index.toNat ∧ index.toNat ≤ 6 then [s.measurement index.toNat] else []
  let sig := nonce.map (fun n => ed448Sign s.aliasPrivate (Config.spdmTranscript n (blocks.flatMap (fun b => b.2))))
  s.answer doe (if (s.spdm doe).algs ∧ (index = 0 ∨ blocks ≠ []) then .measurements blocks 6 sig else .error)

end Sys2Proof.Machine
end

