-- ==== Sys2Proof/Machine/Health.lean ====
section
/-!
DEFINITION. Health scores, margin measurements, pattern checker, loopback generator and memory test (R363 to R368).
-/

namespace Sys2Proof.Machine

open Sys2Proof

/-! ## Health scores (R363) -/

/-- SCORE_DECAY, every DECAY minutes: every score loses an eighth, at one instant. (DESIGN CHOICE, assumption 82) -/
def execScoreDecay (s : State) : Res :=
  if !s.passed s.boot.decayFrom (s.fld (mgtReg 0xC000) 0 16 * 60 * secU) then .next s
  else .next (((fromTo 0 178).filter s.partPresent).foldl (fun (q : State) k =>
    let v := q.fld (hltScore k) 0 16
    if v = 0 then q else q.setScore k (v - v / 8)) { s with boot := { s.boot with decayFrom := s.tm.run } })

/-! ## Margining (R365) -/

def marginCtrl : Nat := mgtReg 0xC014

/-- A write of HLT_MARGIN_CTRL: dropped while GO reads 1. -/
def State.writeMargin (s : State) (v : Word) : State :=
  if s.fld marginCtrl 31 1 = 1 then s else s.setReg marginCtrl ((v &&& 0x8007037F#32) ||| (s.reg marginCtrl &&& 0x40000000#32))

def execMarginStart (value : Word) (s : State) : Res :=
  .next (if s.reaches ∧ value.getLsbD 31 then s.writeMargin value else s)

/-- The target of a measurement is present and in the state that its kind requires. (DESIGN CHOICE, assumption 79) -/
def State.marginOk (s : State) (kind target : Nat) : Bool :=
  if kind = 1 then s.portOk target && ((s.nport target).st = .up || (s.nport target).st = .probation || (s.nport target).st = .handback)
  else if kind = 2 then s.regionOk target
  else if kind = 3 then s.regionOk target && decide (target < 64)
  else kind = 4 && s.portOk target && s.fld (nbpReg target 0x74) 31 1 = 1

/-- MARGIN_COMPLETE: the readings that the measurement gives are written, or ERR is set with both results zero. (DESIGN CHOICE, assumption 79) -/
def execMarginComplete (res0 res1 : Word) (s : State) : Res :=
  let kind := s.fld marginCtrl 16 3
  let target := s.fld marginCtrl 0 7
  if s.fld marginCtrl 31 1 = 0 then .next s
  else
    let ok := s.marginOk kind target
    let r0 : Word := if kind = 2 ∨ kind = 3 then res0 &&& 0xFFFF#32 else res0
    let r1 : Word := if kind = 2 then 0 else if kind = 3 then word32 (smGet s.points target 2) else res1 &&& 0xFFFF#32
    let s1 := (s.setFld marginCtrl 31 1 0).setFld marginCtrl 30 1 (bit (!ok))
    .next ((s1.setReg (mgtReg 0xC018) (if ok then r0 else 0)).setReg (mgtReg 0xC01C) (if ok then r1 else 0))

/-! ## Pattern generator and checker (R366) -/

def prbsCtrl : Nat := mgtReg 0xC020

/-- EN may be set: the port is in LOOP at L1 or L2, or its peer is set to L4. -/
def State.prbsAllowed (s : State) (n : Nat) (peerL4 : Bool) : Bool :=
  s.portOk n && (((s.nport n).st = .loop && (s.fld (nbpReg n 0) 26 3 = 1 || s.fld (nbpReg n 0) 26 3 = 2)) || peerL4)

/-- Symbol errors that the checker has counted on the lanes selected since the register was last written, while EN was 1. -/
def State.prbsCount (s : State) (errs : List Word) : State :=
  if s.fld prbsCtrl 31 1 = 1 then
    ((errs.take 4).zipIdx).foldl (fun (q : State) e =>
      if s.fld prbsCtrl e.2 1 = 1 then q.bump (mgtReg (0xC024 + 4 * e.2)) e.1.toNat else q) s
  else s

/-- A write of HLT_PRBS_CTRL; PATTERN 2 and 3 store 1. EN set where it was 0 clears the counts; where it stays 1 they go on. (DEDUCED, assumption 43) -/
def State.writePrbs (s : State) (v : Word) (peerL4 : Bool) (errs : List Word) : State :=
  let n := v.toNat
  let s1 := s.prbsCount errs
  let was := decide (s.fld prbsCtrl 31 1 = 1)
  let want := decide (fieldOf n 31 1 = 1)
  let en := want && s.prbsAllowed (fieldOf n 16 5) peerL4
  let pat := if 1 < fieldOf n 24 2 then 1 else fieldOf n 24 2
  let s2 := s1.setReg prbsCtrl (word32 (bit en * 2 ^ 31 + bit (want && !en) * 2 ^ 30 + pat * 2 ^ 24 + fieldOf n 16 5 * 2 ^ 16 + fieldOf n 0 4))
  let s3 := if was then s2.out (.pattern (s.fld prbsCtrl 16 5) (s.fld prbsCtrl 24 2) 0) else s2
  let s4 := if en then s3.out (.pattern (fieldOf n 16 5) pat (fieldOf n 0 4)) else s3
  if en && !was then (fromTo 0 4).foldl (fun (q : State) i => q.setReg (mgtReg (0xC024 + 4 * i)) 0) s4 else s4

/-- PRBS_ENABLE. `peerL4`: the port faces a peer set to L4; `errs`: the errors counted on each lane since the register was last written. (DESIGN CHOICE,
assumption 79) -/
def execPrbsEnable (value : Word) (peerL4 : Bool) (errs : List Word) (s : State) : Res :=
  .next (if s.reaches then s.writePrbs value peerL4 errs else s)

/-! ## Loopback packet generator (R367) -/

def lbgCtrl : Nat := mgtReg 0xC034

/-- The generator's packets that have not left are dropped. -/
def State.lbgStop (s : State) : State :=
  { s with nports := s.nports.map (fun p => (p.1, { p.2 with ctl := p.2.ctl.filter (fun q => !isLbg q) })) }

def lbgLen (n : Nat) : Nat := if n = 0 then 1 else if 16 < n then 16 else n

/-- A write of HLT_LBG_CTRL ends a run in progress; with GO at 1 it clears the counts and starts one. `peerL5`: the port faces a peer set to L5.
(DESIGN CHOICE, assumption 79) -/
def State.writeLbg (s : State) (v : Word) (peerL5 : Bool) : State :=
  let n := v.toNat
  let s1 := (if s.fld lbgCtrl 31 1 = 1 then s.lbgStop else s).setReg lbgCtrl
    (word32 (fieldOf n 26 6 * 2 ^ 26 + lbgLen (fieldOf n 21 5) * 2 ^ 21 + fieldOf n 0 16))
  if fieldOf n 31 1 = 1 then
    let s2 := ((s1.setReg (mgtReg 0xC038) 0).setReg (mgtReg 0xC03C) 0).setReg (mgtReg 0xC040) 0
    let s3 : State := { s2 with boot := { s2.boot with lbgLast := s2.tm.run, lbgOut := [], lbgPeer := peerL5 } }
    let p := fieldOf n 26 5
    if s3.portOk p ∧ 0 < fieldOf n 0 16 then s3.modNport p (fun x => { x with ctl := x.ctl ++ [s3.lbgPkt 0] }) else s3
  else s1

/-- DESIGN CHOICE, assumption 80. -/
def execLbgStart (value : Word) (peerL5 : Bool) (s : State) : Res :=
  .next (if s.reaches ∧ value.getLsbD 31 then s.writeLbg value peerL5 else s)

/-- LBG_COMPLETE: COUNT packets are counted, or 10 ms have passed since the last was sent. (DESIGN CHOICE, assumption 80) -/
def execLbgComplete (s : State) : Res :=
  let counted := s.fld (mgtReg 0xC03C) 0 32 + s.fld (mgtReg 0xC040) 0 32
  if s.fld lbgCtrl 31 1 = 1 ∧ (s.fld lbgCtrl 0 16 ≤ counted ∨ s.passed s.boot.lbgLast (10000 * usU)) then
    .next (s.lbgStop.setFld lbgCtrl 31 1 0)
  else .next s

/-! ## Memory test (R368) -/

def memtestCtrl : Nat := mgtReg 0xC04C

/-- Base and length in bytes of the range. -/
def State.memtestBase (s : State) : Nat := (s.reg (mgtReg 0xC044)).toNat + (s.reg (mgtReg 0xC048)).toNat * 2 ^ 32
def State.memtestLen (s : State) : Nat := 4096 * s.fld memtestCtrl 0 24

/-- The range lies within one vault or one LPX half. -/
def inOneUnit (a n : Nat) : Bool := (decide ((a + n - 1) / vaultSize < 64) && a / vaultSize = (a + n - 1) / vaultSize) || inLpxHalf a n

/-- DESIGN CHOICE, assumption 81. -/
def State.memtestRefused (s : State) (a n : Nat) : Bool :=
  n = 0 || !inOneUnit a n || s.rangeAbsent a n || overlaps a n 0x2FC00000 0x400000 ||
    (s.claimedBy 8).any (fun c => overlaps a n c.1 c.2) ||
    (decide (lpxBase ≤ a) && (fromTo (16 * lpHalf a) 16).any (fun c => (s.lpch c).st = .down))

/-- A write of HLT_MEMTEST_CTRL: dropped while GO reads 1; with GO at 1 the test starts or is refused. (DESIGN CHOICE, assumption 79) -/
def State.writeMemtest (s : State) (v : Word) : State :=
  if s.fld memtestCtrl 31 1 = 1 then s
  else
    let s1 := s.setReg memtestCtrl ((v &&& 0x30FFFFFF#32) ||| (s.reg memtestCtrl &&& 0x40000000#32))
    if !v.getLsbD 31 then s1
    else if s1.memtestRefused s1.memtestBase s1.memtestLen then s1.setFld memtestCtrl 30 1 1
    else (((s1.setFld memtestCtrl 30 1 0).setFld memtestCtrl 31 1 1).setReg (mgtReg 0xC050) 0).setReg (mgtReg 0xC054) 0xFFFFFFFF

/-- DESIGN CHOICE, assumption 79. -/
def execMemtestStart (value : Word) (s : State) : Res :=
  .next (if s.reaches ∧ value.getLsbD 31 then s.writeMemtest value else s)

/-- The pattern over n bytes from a: zeros, ones, each 8-byte word's own address. (DESIGN CHOICE, assumptions 8 and 81) -/
def memtestPattern (pat a n : Nat) : List Byte :=
  if pat = 0 then List.replicate n 0
  else if pat = 1 then List.replicate n 0xFF
  else (fromTo 0 (n / 8)).flatMap (fun i => leBytes 8 (a + 8 * i))

/-- MEMTEST_COMPLETE: the range holds the pattern, read back by the scrub requester; `bad` are the 8-byte words, by index from the base, that
did not match after correction. What the cells of the range hold wrong, its marks, shows when they are read back. A unit that has gone out of service since the
start, and answers with errors, ends the test with ERR. (DESIGN CHOICE, assumptions 79 and 81) -/
def execMemtestComplete (bad : List (BitVec 33)) (s : State) : Res :=
  if s.fld memtestCtrl 31 1 = 0 then .next s
  else
    let a := s.memtestBase
    let n := s.memtestLen
    let pat := s.fld memtestCtrl 28 2
    let words := (bad.map BitVec.toNat).eraseDups.filter (fun i => 8 * i < n)
    if s.devStatus a n ≠ 0 then .next ((s.setFld memtestCtrl 31 1 0).setFld memtestCtrl 30 1 1)
    else .next (s.withLp (s.rangeChans a n) (fun q0 =>
      let q := q0.devReady a n
      let s1 := { (if pat = 3 then q.devFree a n else q.devStore a (memtestPattern pat a n)) with cwErr := q.cwErr }
      let s2 := ((s1.devCheck a n true).1.bump (mgtReg 0xC050) words.length).setFld memtestCtrl 31 1 0
      match words with
      | [] => s2
      | w :: r => s2.setReg (mgtReg 0xC054) (word32 (8 * r.foldl min w))))

end Sys2Proof.Machine
end

