-- ==== Sys2Proof/Machine/Views.lean ====
section
/-!
DEFINITION. What a read of each register returns: the stored fields, with the fields that show the machine's state put in (the register tables
of every chapter, R4, R369, R375, R380).
-/

namespace Sys2Proof.Machine

open Sys2Proof

/-- Fields put together: (lowest bit, value). -/
def pack (fs : List (Nat × Nat)) : Nat := fs.foldl (fun a f => a + f.2 * 2 ^ f.1) 0

/-! ## Presence (R4) -/

def RegAddr.cluster (a : RegAddr) : Nat :=
  match a.win with | .til | .rtr => a.unit / 64 | _ => a.unit

def RegAddr.tile (a : RegAddr) : Nat := tileAt (a.unit / 64) (a.unit % 64)

/-- The unit of a register is absent on this module. (DEDUCED, assumption 86) -/
def State.regAbsent (s : State) (a : RegAddr) : Bool :=
  match a.win with
  | .til | .rtr | .msh | .ldl | .goo | .ari | .ktl | .vlt => decide (s.nClusters ≤ a.cluster)
  | .nbp => decide (s.nPorts ≤ a.unit)
  | .skl | .lpx | .sve => !s.full
  | .clk => decide (0x100 ≤ a.off) && !s.regionOk ((a.off - 0x100) / 0x10)
  | .vtm => decide (0x100 ≤ a.off) && !s.portOk ((a.off - 0x100) / 4)
  | .mgt => decide (0xC100 ≤ a.off) && !s.partPresent ((a.off - 0xC100) / 4)
  | _ => false

/-! ## State codes -/

def colCode : ColSt → Nat
  | .opened => 0 | .fenced => 1 | .pendingTo _ => 2

def lpCode : LpSt → Nat
  | .untrained => 0 | .up => 1 | .selfref => 2 | .down => 3

def lchCode : LChSt → Nat
  | .idle => 0 | .active => 1 | .waitResp => 2 | .fault => 3

def nportCode : NSt → Nat
  | .off => 0 | .train => 1 | .up => 2 | .lockloss => 3 | .down => 4 | .probation => 5 | .handback => 6 | .loop => 7

def reqCode : ReqSt → Nat
  | .free => 0 | .active => 1 | .paused => 2 | .held => 3 | .cold => 4 | .cancelling => 5

/-! ## Views by block. `v` is the stored word. -/

/-- A map of at most 64 numbered things, half `h`. -/
def mapHalf (h : Nat) (p : Nat → Bool) : Nat := (fromTo 0 32).foldl (fun a i => a + bit (p (32 * h + i)) * 2 ^ i) 0

/-- DESIGN CHOICE, assumption 75; DEDUCED, assumption 83. -/
def State.genView (s : State) (o v : Nat) : Nat :=
  if o = 4 ∧ fieldOf v 28 1 = 0 ∧ fieldOf v 24 4 = 0 then withField v 0 16 s.elapsed else v

def State.rstView (s : State) (o v : Nat) : Nat :=
  if 0x10 ≤ o ∧ o < 0x40 then mapHalf (o / 4 % 2) (fun i => s.domain ((o - 0x10) / 8 + 1) i ≠ .run)
  else if o = 0x40 then withField v 0 8 s.secVer
  else if o = 0x44 then pack [(16, s.flash.secVer.left), (8, s.flash.repair.left), (0, s.flash.ident.left)]
  else if o = 0x48 then pack [(31, bit s.boot.commit.isSome), (30, bit (s.flash.secVer.left = 0))]
  else v

/-- CEIL_SRC: the first of its codes whose ceiling is the one in force. (DEDUCED, assumption 83) -/
def State.ceilSrc (s : State) (r : Nat) : Nat :=
  let c := s.ceiling r
  if min 4 (s.fld (clkReg 4) 29 3) = c then 0 else if s.fld (clkReg (0x104 + 0x10 * r)) 0 3 = c then 1
  else if s.power.k = c then 2 else 3

def State.regionStatus (s : State) (r : Nat) : Nat :=
  let x := s.region r
  let temp := (smGet s.acc.shadow (clkReg (0x100 + 0x10 * r)) 0).toNat
  if r < 64 then pack [(29, s.point r), (26, s.target r), (23, s.ceiling r), (20, s.ceilSrc r), (19, bit x.stretch), (18, bit x.hot), (0, temp)]
  else pack [(29, 2), (26, 2), (23, 2), (19, bit x.stretch), (18, bit x.hot), (0, temp)]

def State.clkView (s : State) (o v : Nat) : Nat :=
  if o = 8 then withField v 30 1 (bit (!s.tm.refLost && s.unlocked = []))
  else if 0x100 ≤ o ∧ o % 0x10 = 0 then s.regionStatus ((o - 0x100) / 0x10)
  else v

/-- VTM as its logic holds it; a read shows the shadow. -/
def State.vtmView (s : State) (o v : Nat) : Nat :=
  if o = 0xC then
    pack [(29, timeStCode s.tm.st), (28, fieldOf v 28 1), (27, bit s.tm.armed), (26, bit s.tm.stepped), (25, bit s.tm.upHold), (24, bit s.tm.pre)
         , (23, bit s.tm.sat), (21, s.tm.holdCause), (5, s.tm.depth), (0, s.tm.active)]
  else if o = 0x2C then (BitVec.ofInt 32 (Int.tdiv (s.tm.rate * 1000000000) (2 ^ 44))).toNat
  else if o = 0x34 then s.tm.origin / 1000000000 % 2 ^ 32
  else if o = 0x38 then s.tm.origin / 1000000000 / 2 ^ 32 % 2 ^ 32
  else if o = 0x3C then pack [(31, bit s.tm.isLocal), (0, s.tm.origin % 1000000000)]
  else v

/-- A power, kept in units of 0.1 mW, in units of 0.1 W: how it is rounded is not stated. (DESIGN CHOICE, assumption 39) -/
def State.tenths (x : Nat) : Nat := (divFree 4 x 1000).toNat % 2 ^ 16

def State.pwrView (s : State) (o v : Nat) : Nat :=
  let p := s.power
  if o = 0xC then pack [(29, p.k), (28, bit p.capped), (27, bit p.therm), (26, fieldOf v 26 1), (0, p.vin)]
  else if o = 0x10 then pack [(16, p.avg), (0, p.last)]
  else if o = 0x14 then pack [(16, State.tenths p.level), (0, State.tenths s.demand)]
  else if o = 0x18 then pack [(16, p.heldLast), (0, State.tenths (s.weightSum p.ballast))]
  else if o = 0x1C then pack [(24, p.tStage), (16, p.tStack)]
  else v

def State.hifView (s : State) (o v : Nat) : Nat :=
  let ring (r : PRing) : Nat := pack [(16, bit r.phase), (0, r.prod)]
  if o = 4 then pack [(31, fieldOf v 31 1), (30, bit (s.host.heldRound && s.fld (hifReg 0) 31 1 = 1)), (0, s.host.roundCnt)]
  else if o = 0x1C then ring s.host.cq
  else if o = 0x2C then ring s.host.eq
  else if o = 0x3C then pack [(16, s.host.waiting.length), (0, s.host.cmds.length)]
  else if 0x1000 ≤ o ∧ o < 0x1400 ∧ o % 0x10 = 0xC then
    let b := (o - 0x1000) / 0x10
    pack [(16, (s.sq b).tail), (0, s.sqHead b)]
  else v

/-- Channels of Ladle l that are privileged (R182). -/
def privChan (l k : Nat) : Bool :=
  if l < 64 then k = 7 else decide (k < 4) || (l = 65 && k = 15)

def State.ldlView (s : State) (l o v : Nat) : Nat :=
  if 0x100 ≤ o ∧ o % 0x10 = 0 then
    let k := (o - 0x100) / 0x10
    let c := s.lchan l k
    let prio := match c.tr with | some t => t.d.prio | none => 0
    pack [(30, lchCode c.st), (28, prio), (27, bit (privChan l k)), (24, c.slots.length), (23, fieldOf v 23 1), (16, c.drops), (0, c.flow)]
  else v

def State.jrnView (s : State) (o v : Nat) : Nat :=
  if o = 0x10 then s.host.next % 2 ^ 32
  else if o = 0x14 then s.host.next / 2 ^ 32
  else if 0x18 ≤ o ∧ o < 0x28 then fieldOf s.host.seed.toNat (8 * (o - 0x18)) 32
  else v

/-- TTFT and TBT read all ones until recorded, and in NORMAL mode. -/
def State.beatsShown (s : State) (x : Option Nat) : Nat :=
  match x with
  | some b => if s.fld (srvReg 0) 31 1 = 1 then min b 0xFFFFFFFF else 0xFFFFFFFF
  | none => 0xFFFFFFFF

def State.reqInfo (s : State) (i : Nat) : Nat :=
  let q := s.req (s.fld (srvReg 0x80) 0 14)
  if i = 0 then
    pack [(28, reqCode q.st), (20, reasonMask q.reasons), (19, bit (q.st ≠ .free && (s.serving q.model).barrier)), (18, bit q.countOvf)
         , (16, q.prio), (13, q.model)]
  else if i = 1 then q.n
  else if i = 2 then s.beatsShown q.ttft
  else if i = 3 then s.beatsShown q.maxTbt
  else if i = 4 then q.gen.length
  else
    let warm := (q.groups.filter (fun g => !g.2.hot)).length
    pack [(16, warm), (0, q.groups.length - warm)]

def State.srvView (s : State) (o v : Nat) : Nat :=
  if o = 0x1C then
    pack [(16, (s.srv.reqs.filter (fun q => q.2.st ≠ .free)).length), (0, (s.srv.reqs.filter (fun q => q.2.st = .paused)).length)]
  else if 0x40 ≤ o ∧ o < 0x60 then
    let x := s.serving ((o - 0x40) / 4)
    pack [(31, bit x.stalled), (0, x.passed % 2 ^ 31)]
  else if 0x60 ≤ o ∧ o < 0x80 then (s.serving ((o - 0x60) / 4)).last
  else if 0x84 ≤ o ∧ o < 0x9C then s.reqInfo ((o - 0x84) / 4)
  else v

/-- Rows of the steps in flight that the Sieve has still to draw; it draws none where it is not the sampler (R316). -/
def State.rowsToDraw (s : State) : Nat :=
  if s.fld (srvReg 0) 29 2 ≠ 0 then 0
  else ((fromTo 0 8).map (fun m => match (s.serving m).step with
    | some t => (t.members.filter (fun e => e.kind ≠ 1 && (smFind t.rows e.handle).isNone)).length
    | none => 0)).sum

/-- SVE_STATUS. (DEDUCED, assumption 68) -/
def State.sveView (s : State) (o v : Nat) : Nat :=
  if o = 8 then pack [(31, bit (s.srv.part.isSome || s.srv.rows ≠ [])), (30, fieldOf v 30 1), (0, min 4095 s.rowsToDraw)] else v

def State.nbpView (s : State) (n o v : Nat) : Nat :=
  let x := s.nport n
  if o = 8 then
    pack [(28, nportCode x.st), (27, bit x.rate), (26, bit (x.lanes = 0xF)), (25, bit x.adopting), (24, bit (x.haltEgress || x.haltIngress))
         , (23, bit (s.buddy n).isNone), (22, fieldOf v 22 1), (21, fieldOf v 21 1), (0, (x.prob + 999) / 1000)]
  else if o = 0x1C then pack [(20, x.txNext), (8, x.exp)]
  else if o = 0x2C then
    pack [(16, (outstanding x).length), (0, (((outstanding x).foldl (fun a p => a + p.linkLen) 0) + 1023) / 1024)]
  else if o = 0x60 then (fromTo 0 4).foldl (fun a k => a + (if x.lanes.getLsbD k then 0xC0 else 0) * 256 ^ k) 0
  else v

def State.lpxView (s : State) (o v : Nat) : Nat :=
  if 0x100 ≤ o ∧ o % 0x10 = 0 then
    let x := s.lpch ((o - 0x100) / 0x10)
    pack [(30, lpCode x.st), (28, x.rate), (27, bit x.hot), (26, fieldOf v 26 1), (16, min 15 x.refmult), (0, (smGet s.acc.shadow (lpxReg o) 0).toNat)]
  else v

/-- KEY_ID of an enrolled key: the first 24 bits of its SHAKE256-256, read as the CHAIN is, little-endian (R321). (DEDUCED, assumption 83) -/
def State.keyView (s : State) (k : Nat) : Nat :=
  match smFind s.wgt.keys k with
  | some key => pack [(31, 1), (0, leNat ((shake256 32 key).take 3))]
  | none => 0

def State.modelView (s : State) (m : Nat) (ver : Bool) : Nat :=
  let x := s.slotOf m
  if ver then (if x.st = .empty then 0 else x.version)
  else pack [(29, stCode x.st), (27, stageCode x.stage), (13, x.quar.length), (0, match x.man with | some y => y.shards.length | none => 0)]

def State.mgtView (s : State) (o v : Nat) : Nat :=
  let warn : Bool := s.fld (mgtReg 0x8000) 0 1 = 0
  if o = 0x10 then (if 4 ≤ s.boot.stages then (Config.heartbeat s.tm.beats).toNat else 0)
  else if o = 0x8004 then
    pack [(3, bit (s.alarmMap ≠ [])), (2, bit (s.reg (mgtReg 0x8028) ≠ 0 || s.reg (mgtReg 0x802C) ≠ 0)), (0, fieldOf v 0 2)]
  else if o = 0x8028 ∨ o = 0x802C then (if warn then v else mapHalf ((o - 0x8028) / 4) (fun c => s.alarmMap.contains c))
  else if o = 0xA014 then
    let f (b : RankBank) (lo : Nat) : List (Nat × Nat) := [(lo + 3, bit b.isDrained), (lo + 2, bit b.valid), (lo, b.tag.toNat)]
    pack ((16, s.fleet.cur.toNat) :: (f s.fleet.bank1 12 ++ f s.fleet.bank0 4))
  else if o = 0xA028 then withField v 27 5 s.fleet.actions.length
  else if 0xB020 ≤ o ∧ o < 0xB040 then s.keyView ((o - 0xB020) / 4)
  else if 0xB040 ≤ o ∧ o < 0xB080 then s.modelView ((o - 0xB040) / 8) (o % 8 = 4)
  else v

def State.engView (s : State) (t e : Nat) : Nat :=
  match (s.tile t).engines.toList[e]? with
  | none => 0
  | some y =>
    let held : Bool := y.head.any (fun h => (s.lacking t h).isSome)
    let gated : Bool := y.head.any (fun h => decide (s.beatAt (clusterOf t) < h.b0))
    tilPc held gated y

def State.tilView (s : State) (t o v : Nat) : Nat :=
  let x := s.tile t
  let h := x.halt
  let rec_ (f : HaltRec → Nat) : Nat := match h with | some r => f r | none => 0
  if o = 4 then tilStatus x
  else if o = 0xC then pack [(16, x.seg.toNat), (0, x.count.toNat % 2 ^ 16)]
  else if o = 0x10 then rec_ (fun r => pack [(31, 1), (24, r.engine), (16, r.reason), (0, t)])
  else if o = 0x14 then rec_ (fun r => r.pc % 2 ^ 16)
  else if o = 0x18 then rec_ (fun r => r.bundle % 2 ^ 24)
  else if o = 0x1C then rec_ (fun r => r.beat % 2 ^ 32)
  else if o = 0x20 then rec_ (fun r => r.beat / 2 ^ 32)
  else if o = 0x24 then rec_ (fun r => r.info % 2 ^ 32)
  else if 0x30 ≤ o ∧ o < 0x44 then s.engView t ((o - 0x30) / 4)
  else if 0x80 ≤ o ∧ o < 0x100 then (x.tally (BitVec.ofNat 5 ((o - 0x80) / 4))).toNat
  else if 0x100 ≤ o ∧ o < 0x200 then (x.param (BitVec.ofNat 6 ((o - 0x100) / 4))).toNat
  else if o = 0x20C then withField v 31 1 (bit x.zbusy)
  else if o = 0x220 ∨ o = 0x224 then v
  else if o = 0x248 then pack [(16, x.scrubPasses), (0, x.scrubPos)]
  else v

def State.rtrView (s : State) (t o v : Nat) : Nat :=
  let r := s.router t
  let f (b : RouteBank) (lo : Nat) : List (Nat × Nat) := [(lo + 3, bit (s.bankDrained t b)), (lo + 2, bit b.valid), (lo, b.tag.toNat)]
  let e (b : RouteBank) (k : Nat) : Nat := (b.entries.toList.getD (2 * k + 1) 0).toNat * 2 ^ 16 + (b.entries.toList.getD (2 * k) 0).toNat
  if o = 0 then pack [(30, colCode r.col), (29, bit r.zeroed), (28, fieldOf v 28 1), (0, fieldOf v 0 16)]
  else if o = 4 then pack (f r.bank1 12 ++ f r.bank0 4)
  else if 0x70 ≤ o ∧ o < 0xB8 then e r.bank0 ((o - 0x70) / 4)
  else if 0xB8 ≤ o then e r.bank1 ((o - 0xB8) / 4)
  else v

/-- The switch of route epoch that is pending first (R140, R229). (DEDUCED, assumption 83) -/
def State.nextSwitch (s : State) : Option Action :=
  (s.fleet.actions.filter (fun a => a.kind = 1)).foldl (fun (b : Option Action) a => match b with
    | some x => if a.beat < x.beat then some a else some x
    | none => some a) none

def State.mshView (s : State) (c o v : Nat) : Nat :=
  let ts := clusterTiles c
  if o = 0 then
    let w := match s.nextSwitch with | some a => 2 ^ 31 + a.arg % 4 * 2 ^ 8 | none => 0
    w + pack [(5, bit (ts.all (fun t => s.bankDrained t (s.router t).bank1))), (4, bit (ts.all (fun t => s.bankDrained t (s.router t).bank0)))
             , (0, (s.cluster c).epoch.toNat)]
  else if o = 8 then (match s.nextSwitch with | some a => a.beat % 2 ^ 32 | none => 0)
  else if o = 0xC then (match s.nextSwitch with | some a => a.beat / 2 ^ 32 | none => 0)
  else if o = 0x10 ∨ o = 0x14 then mapHalf ((o - 0x10) / 4) (fun l => (s.router (tileAt c l)).col ≠ .opened)
  else v

def State.ktlView (s : State) (c o v : Nat) : Nat :=
  if o = 0 then
    let tes (us : List Nat) : Nat := (us.filter (fun u => u < 4096 && clusterOf u = c)).length
    pack [(16, tes s.power.active), (8, bit (s.power.active.contains (sklUnit c))), (7, bit (s.power.ballast.contains (sklUnit c)))
         , (0, tes s.power.ballast)]
  else v

def State.vltView (s : State) (n o v : Nat) : Nat :=
  let x := s.vault n
  if o = 4 then
    pack [(31, bit x.trained), (30, bit x.hotref), (29, bit x.selfref), (27, fieldOf v 27 2), (0, (smGet s.acc.shadow (vltReg n 4) 0).toNat)]
  else if o = 0x1C then pack [(23, x.scrubPasses), (0, x.scrubPos)]
  else v

def State.sklView (s : State) (n o v : Nat) : Nat :=
  if o = 0x8000 then
    let q := smGet s.intakeQ (ownKey (.skillet (BitVec.ofNat 6 n))) []
    pack [(31, bit (s.skillet n).busy), (30, fieldOf v 30 1), (0, q.foldl (fun a p => a + 1 + p.data.length) 0)]
  else v

/-- The value of a register of the fast domain, or of one of the slow domain as its own logic holds it. (DESIGN CHOICE, assumption 14) -/
def State.regNow (s : State) (a : RegAddr) : Word :=
  let v := (s.reg a.key).toNat
  word32 (match a.win with
    | .gen => s.genView a.off v
    | .rst => s.rstView a.off v
    | .clk => s.clkView a.off v
    | .vtm => s.vtmView a.off v
    | .pwr => s.pwrView a.off v
    | .hif => s.hifView a.off v
    | .hl => s.ldlView (64 + a.unit) a.off v
    | .jrn => s.jrnView a.off v
    | .srv => s.srvView a.off v
    | .sve => s.sveView a.off v
    | .nbp => s.nbpView a.unit a.off v
    | .lpx => s.lpxView a.off v
    | .mgt => s.mgtView a.off v
    | .til => s.tilView a.tile a.off v
    | .rtr => s.rtrView a.tile a.off v
    | .msh => s.mshView a.unit a.off v
    | .ldl => s.ldlView a.unit a.off v
    | .goo => if a.off = 4 then withField v 17 1 (bit (s.tiles.any (fun p => clusterOf p.1 = a.unit && p.2.st = .running))) else v
    | .ari => v
    | .ktl => s.ktlView a.unit a.off v
    | .vlt => s.vltView a.unit a.off v
    | .skl => s.sklView a.unit a.off v)

/-! ## Shadows (R375) -/

def RegAddr.slow (a : RegAddr) : Bool := a.win = .vtm || a.win = .pwr

/-- Offsets of the registers of a table. -/
def tableOffs (ds : List RegDesc) : List Nat := ds.flatMap (fun d => (fromTo 0 d.count).map (fun i => d.off + d.stride * i))

/-- Every shadow takes the value of its register. -/
def State.refreshShadows (s : State) : State :=
  let regs (w : Win) : List (Nat × Word) := (tableOffs w.regs).map (fun o => let a : RegAddr := ⟨w, 0, o⟩; (a.key, s.regNow a))
  let temps : List (Nat × Word) :=
    s.regions.map (fun r => (clkReg (0x100 + 0x10 * r.1), word32 r.2.temp)) ++ s.lp.map (fun c => (lpxReg (0x100 + 0x10 * c.1), word32 c.2.temp)) ++
      s.vaults.map (fun x => (vltReg x.1 4, word32 x.2.temp))
  { s with acc := { s.acc with shadow := (regs .vtm ++ regs .pwr ++ temps).foldl (fun m p => smSet m p.1 p.2) s.acc.shadow } }

/-- What a read of a register returns (R4, R369, R375): 0 where none is implemented or its unit is absent; write-only bits read 0. -/
def State.regRead (s : State) (a : RegAddr) : Word :=
  match a.desc with
  | none => 0
  | some (d, _) =>
    if s.regAbsent a then 0
    else if a.slow then (match smFind s.acc.shadow a.key with | some w => w | none => a.reset s.variant)
    else s.regNow a &&& ~~~(word32 d.wo)

end Sys2Proof.Machine
end

