-- ==== Sys2Proof/Machine/Registers.lean ====
section
/-!
DEFINITION. Register accesses through BAR0, the slow domain, and the host's accesses through BAR2 and BAR4 (R275 to R278, R369 to R382).
-/

namespace Sys2Proof.Machine

open Sys2Proof

/-- The state that a total meaning answers. -/
def stateOf (s : State) (r : Res) : State := match r with | .next t => t | _ => s

/-! ## Values that store others -/

def atLeast (lo w : Nat) (m v : Nat) : Nat := if fieldOf v lo w < m then withField v lo w m else v
def atMost (lo w : Nat) (m v : Nat) : Nat := if m < fieldOf v lo w then withField v lo w m else v

/-- "A write of v stores w" of the register tables, over the value that the access codes give. -/
def State.storeRule (s : State) (a : RegAddr) (v : Nat) : Nat :=
  match a.win with
  | .rst => if a.off = 0xC then atLeast 0 16 100 v else v
  | .clk =>
    if a.off = 4 then atLeast 0 16 1 (atMost 29 3 4 v)
    else if 0x100 ≤ a.off ∧ a.off % 0x10 = 4 then atMost 0 3 4 v else v
  | .vtm =>
    if a.off = 4 then atLeast 0 8 1 (atLeast 8 8 1 v)
    else if a.off = 8 then atLeast 0 16 1 v
    else if 0x80 ≤ a.off ∧ a.off < 0x100 ∧ a.off % 0x20 = 0x10 then
      let w := max 8 v
      let p := (s.reg (vtmReg (a.off - 4))).toNat
      if p ≠ 0 ∧ p ≤ w then p / 2 else w
    else v
  | .pwr => if a.off = 0 then atMost 24 8 100 (atLeast 24 8 1 v) else v
  | .hif =>
    let size := 2 ^ s.host.bar2
    if a.off = 8 then v / (min size (2 ^ 32)) * (min size (2 ^ 32))
    else if a.off = 0xC then v / (size / 2 ^ 32 + bit (size < 2 ^ 32)) * (size / 2 ^ 32 + bit (size < 2 ^ 32))
    else if a.off = 0x10 ∨ a.off = 0x20 ∨ (0x1000 ≤ a.off ∧ a.off % 0x10 = 0) then v / 4096 * 4096
    else v
  | .hl | .ldl => if a.off = 4 then atLeast 0 16 1 v else v
  | .jrn => if a.off = 8 then v / 4096 * 4096 else v
  | .srv =>
    if a.off = 0 then
      let k := fieldOf v 29 2
      let w := if k = 3 ∨ (k = 0 ∧ !s.full) then withField v 29 2 1 else v
      atMost 0 14 8192 (atLeast 0 14 64 w)
    else if a.off = 4 then (if fieldOf v 0 16 = 0 then withField v 0 16 2 else v)
    else v
  | .nbp => if a.off = 4 then atMost 0 10 1000 (atLeast 0 10 1 v) else v
  | .lpx => if a.off = 4 then atLeast 0 16 1 (atLeast 16 8 1 (atMost 24 2 2 v)) else v
  | .mgt =>
    if a.off = 0x18 then (if 1 < fieldOf v 0 4 then withField v 0 4 0 else v)
    else if a.off = 0x8000 then atLeast 8 4 2 v
    else if a.off = 0xA018 ∨ a.off = 0xB000 then atLeast 0 16 1 v
    else if a.off = 0xB004 then atMost 0 11 1440 (atLeast 0 11 1 v)
    else if a.off = 0xC000 then atLeast 0 16 1 v
    else if a.off = 0xC044 then v / 4096 * 4096
    else v
  | .til => if a.off = 0x208 then atLeast 16 8 1 v else v
  | .msh => if a.off = 4 then atLeast 0 16 1 v else v
  | .goo => if a.off = 0 then atLeast 8 4 2 v else v
  | .vlt => if a.off = 8 then atLeast 0 16 1 v else v
  | _ => v

/-! ## The access codes (R369, R374) -/

/-- Requesters' key blocks: RST and MGT. -/
def keyBlock (a : RegAddr) : Nat := if a.win = .rst then 0 else 1

/-- A write by the access codes alone: RW stores, W1C clears; RWK stores while the block is unlocked for the requester, and the block then
locks; while it is locked, the write of an RWK field is refused. -/
def State.plainWrite (s : State) (req : Nat) (a : RegAddr) (d : RegDesc) (v : Word) : State :=
  let open_ := s.isUnlocked req (keyBlock a)
  let rw : Word := word32 (d.rw + (if open_ then d.rwk else 0))
  let old := s.reg a.key
  let new := ((old &&& ~~~rw) ||| (v &&& rw)) &&& ~~~(v &&& word32 d.w1c)
  let s1 := s.setReg a.key (word32 (s.storeRule a new.toNat))
  if d.rwk = 0 then s1 else if open_ then s1.setUnlocked req (keyBlock a) false else s1.refuseAccess req 1 a.key

/-- The bases of rings, of the mirror and the buddy are written only while what uses them is off. -/
def State.writeHeld (s : State) (a : RegAddr) : Bool :=
  match a.win with
  | .hif =>
    if a.off = 0x10 ∨ a.off = 0x14 then s.ringOn (hifReg 0x18)
    else if a.off = 0x20 ∨ a.off = 0x24 then s.ringOn (hifReg 0x28)
    else decide (0x1000 ≤ a.off) && decide (a.off % 0x10 < 8) && s.ringOn (sqReg ((a.off - 0x1000) / 0x10) 8)
  | .jrn => (a.off = 8 || a.off = 0xC) && s.fld (jrnReg 0) 31 1 = 1
  | _ => false

/-! ## Registers that act -/

def keyValue : Word := 0x0000C1A5

/-- NBP_CTRL: CLEAR, RETRAIN, LOOP, ENABLE. (DEDUCED, assumption 86) -/
def State.writeNbpCtrl (s : State) (n : Nat) (v : Word) : State :=
  let s1 := if v.getLsbD 31 then s.portHaltClear n else s
  let s2 := if v.getLsbD 30 then s1.startTraining n else s1
  (s2.portLoop n (fieldOf v.toNat 26 3)).portEnable n (v.getLsbD 0)

/-- NBP_CFG: BUDDY only in OFF. -/
def State.writeNbpCfg (s : State) (n : Nat) (a : RegAddr) (d : RegDesc) (v : Word) : State :=
  let v1 := if (s.nport n).st = .off then v else word32 (withField v.toNat 20 5 (s.fld (nbpReg n 4) 20 5))
  s.plainWrite 0 a d v1

/-- LDL_CTRL: DISABLE and CLR. (DEDUCED, assumption 86) -/
def State.writeLdlCtrl (s : State) (l : Nat) (v : Word) : State :=
  let s1 := if v.getLsbD 31 then s.ladleDisable l else s.setFld (ldlReg l 0) 31 1 0
  ((fromTo 0 (if l < 64 then 8 else 16)).filter (fun k => v.getLsbD k)).foldl (fun (q : State) k => q.ladleClr l k) s1

/-- The two map registers show and clear the WARN or the ALARM map (02). -/
def State.writeMap (s : State) (h : Nat) (a : RegAddr) (d : RegDesc) (v : Word) : State :=
  if s.fld (mgtReg 0x8000) 0 1 = 0 then s.plainWrite 0 a d v
  else { s with alarmMap := s.alarmMap.filter (fun c => !(c / 32 = h && v.getLsbD (c % 32))) }

/-- VTM_CTRL and VTM_CFG, at the slow edge of their effect. -/
def State.writeVtmCtrl (s : State) (v : Word) : State :=
  let s1 := if v.getLsbD 31 then s.snap else s
  if v.getLsbD 30 then { s1 with tm := { s1.tm with armed := true } } else s1

/-- DEDUCED, assumption 42. -/
def State.writeVtmCfg (s : State) (a : RegAddr) (d : RegDesc) (v : Word) : State :=
  (s.plainWrite 0 a d v).sourceChange (fieldOf v.toNat 30 2)

/-- A write takes effect on an implemented register of a present unit. -/
def State.regApply (s : State) (req : Nat) (a : RegAddr) (d : RegDesc) (v : Word) : State :=
  let plain := if s.writeHeld a then s else s.plainWrite req a d v
  let o := a.off
  match a.win with
  | .rst =>
    if o = 4 then s.writeCtrl req v
    else if o = 8 then s.setUnlocked req 0 (v = keyValue)
    else if o = 0x48 then s.writeSecCommit req v
    else plain
  | .vtm =>
    if o = 0 then s.writeVtmCtrl v
    else if o = 4 then s.writeVtmCfg a d v
    else if 0x80 ≤ o ∧ o < 0x100 ∧ o % 0x20 = 0x14 then
      (s.plainWrite req a { d with rw := 0x40000000 } v).pulseEnable ((o - 0x80) / 0x20) (v.getLsbD 31)
    else plain
  | .hif =>
    if o = 0x18 then s.writeRing 64 v.toNat
    else if o = 0x28 then s.writeRing 65 v.toNat
    else if 0x1000 ≤ o ∧ o % 0x10 = 8 then s.writeRing ((o - 0x1000) / 0x10) v.toNat
    else plain
  | .hl => if o = 0 then s.writeLdlCtrl (64 + a.unit) v else plain
  | .ldl => if o = 0 then s.writeLdlCtrl a.unit v else plain
  | .nbp =>
    if o = 0 then s.writeNbpCtrl a.unit v
    else if o = 4 then s.writeNbpCfg a.unit a d v
    else if o = 0x70 then s.writeOptics a.unit v
    else plain
  | .mgt =>
    if o = 0 then s.setUnlocked req 1 (v = keyValue)
    else if o = 0x8028 then s.writeMap 0 a d v
    else if o = 0x802C then s.writeMap 1 a d v
    else if o = 0xA014 then s.writeFltEpoch v.toNat
    else if o = 0xA020 then s.rankAccess req (some v)
    else if o = 0xA024 then s.plainWrite req a { d with rw := 2 ^ s.nPorts - 1 } v
    else if o = 0xC014 then s.writeMargin v
    else if o = 0xC020 then ({ s with freeCtr := s.freeCtr + 1 } : State).writePrbs v (Config.peerFacing s.freeCtr 4) []
    else if o = 0xC034 then ({ s with freeCtr := s.freeCtr + 1 } : State).writeLbg v (Config.peerFacing s.freeCtr 5)
    else if o = 0xC04C then s.writeMemtest v
    else if 0xC100 ≤ o then s.setScore ((o - 0xC100) / 4) (v.toNat % 65536)
    else plain
  | .til =>
    let t := a.tile
    if o = 0 then (if v.getLsbD 31 then plain.clearTile t else plain)
    else if o = 0x210 then (if v.getLsbD 31 then stateOf s (execZeroFill (BitVec.ofNat 12 t) s) else s)
    else if 0x220 ≤ o ∧ o < 0x240 then s.writeTask t ((o - 0x220) / 8) (o % 8 = 4) v
    else plain
  | .rtr => if o = 4 ∨ 0x70 ≤ o then s.writeRtr a.tile o v.toNat else plain
  | _ => plain

/-! ## The slow domain (R376, R377) -/

/-- DESIGN CHOICE, assumption 87. -/
def slowKey (req : Nat) (a : RegAddr) : Nat := req * 2 + bit (a.win = .pwr)

/-- One queued write takes effect. -/
def State.applySlow (s : State) (w : SlowWrite) : State :=
  match decodeReg w.addr with
  | none => s
  | some a => match a.desc with
    | none => s
    | some (d, _) => s.regApply w.req a d w.value

/-- At a slow edge the head of each queue leaves it, to take effect at the second edge after this one, and those under way come one edge nearer. -/
def State.slowQueues (s : State) : State :=
  let out := (s.acc.slowOut.filter (fun w => 1 < w.edges)).map (fun w => { w with edges := w.edges - 1 })
  let heads : List SlowWrite := s.acc.slowQ.filterMap (fun q => match q.2 with
    | p :: _ => some { req := q.1 / 2, addr := p.1, value := p.2, edges := 2 }
    | [] => none)
  let rest := (s.acc.slowQ.map (fun q => (q.1, q.2.drop 1))).filter (fun q => q.2 ≠ [])
  { s with acc := { s.acc with slowOut := out ++ heads, slowQ := rest } }

/-- The writes whose edge has come take effect, the host's before Ermond's; then the bits that events have set since the last edge are set (R373, R376). -/
def State.slowEffects (s : State) : State :=
  let s1 := (s.acc.slowOut.filter (fun w => w.edges ≤ 1)).foldl State.applySlow s
  let s2 := s1.acc.risen.foldl (fun (q : State) r => q.setBit r.1 r.2) s1
  { s2 with acc := { s2.acc with risen := [] } }

/-- A slow edge: time pulses begin and end within the interval before it (R259), Varuni time advances, the shadows are refreshed with the values that
stand before the edge, the writes that left the queues two edges ago take effect, and the queues move (R246, R375, R376). (DESIGN CHOICE, assumptions 1
and 85) -/
def State.slowEdge (s : State) : State :=
  let s1 := s.runPulses
  let s2 : State := { s1 with tm := { s1.tm with now := (s1.tm.now + s1.slowStep) % (2 ^ 64 * secU), run := s1.tm.run + s1.slowStep } }
  s2.refreshShadows.slowEffects.slowQueues

/-- SLOW_WRITE_EFFECT: the slow edge at which a write takes effect. (DESIGN CHOICE, assumption 85) -/
def execSlowWriteEffect (s : State) : Res := .next (if s.acc.slowOut.any (fun w => w.edges ≤ 1) then s.slowEdge else s)

/-- A write to VTM or PWR enters its requester's queue; one that finds eight there is held until a slow edge has made room. (DESIGN CHOICE, assumption
85) -/
def State.queueSlow (s : State) (req : Nat) (a : RegAddr) (v : Word) : State :=
  let k := slowKey req a
  let s1 := if 8 ≤ (smGet s.acc.slowQ k []).length then s.slowEdge else s
  { s1 with acc := { s1.acc with slowQ := smSet s1.acc.slowQ k (smGet s1.acc.slowQ k [] ++ [(a.key, v)]) } }

/-- Slow-domain writes of a requester that have not taken effect. -/
def State.slowWaiting (s : State) (req : Nat) : Bool :=
  s.acc.slowQ.any (fun q => q.1 / 2 = req) || s.acc.slowOut.any (fun w => w.req = req)

/-- A read of GEN_SYNC: slow edges pass until every earlier write of the requester has taken effect, and one more (R377). -/
def State.sync (s : State) (req : Nat) : Nat → State
  | 0 => s.slowEdge
  | n + 1 => if s.slowWaiting req then s.slowEdge.sync req n else s.slowEdge

def State.syncFuel (s : State) : Nat := s.acc.slowQ.foldl (fun a q => a + q.2.length) 4

/-- No command waits: a slow edge passes, while the die has rails; without a reference the slow domain's PLL runs on (R243). With the rails off only the
time that the stages count goes on (R338, R358). (DESIGN CHOICE, assumption 1) -/
def State.idle (s : State) : State :=
  if s.awake then s.slowEdge
  else if s.module.rails = .on then s
  else { s with tm := { s.tm with run := s.tm.run + s.slowStep } }

/-! ## Single dwords (R370, R371, R380, R381) -/

/-- Offsets of _LO registers; _HI is the next register (R371). -/
def isLo (a : RegAddr) : Bool :=
  let o := a.off
  match a.win with
  | .rst => decide (0x10 ≤ o) && decide (o < 0x40) && o % 8 = 0
  | .vtm => o = 0x40 || o = 0x48 || o = 0x50 || o = 0x58
  | .hif => o = 8 || o = 0x10 || o = 0x20 || (decide (0x1000 ≤ o) && decide (o < 0x1400) && o % 0x10 = 0)
  | .jrn => o = 8 || o = 0x10
  | .nbp => o = 0x24
  | .mgt => o = 0x8028 || o = 0xA008 || o = 0xC044 || o = 0xC058
  | .til => o = 0x1C
  | .msh => o = 8 || o = 0x10
  | _ => false

def RegAddr.next (a : RegAddr) : RegAddr := { a with off := a.off + 4 }
/-- DESIGN CHOICE, assumption 87. -/
def isHi (a : RegAddr) : Bool := decide (4 ≤ a.off) && isLo { a with off := a.off - 4 }

/-- DESIGN CHOICE, assumption 87. -/
def latchKey (req : Nat) (a : RegAddr) : Nat := req * 2 ^ 27 + a.key

/-- The register answers: any from full ready on, GEN_ID and GEN_STATUS always (R3, R380). (DESIGN CHOICE, assumption 85) -/
def State.answers (s : State) (a : RegAddr) : Bool := s.awake && (s.ready || (a.win = .gen && decide (a.off < 8)))

/-- One dword read by a requester: the bytes that it enables, and the latch of a pair, whatever it enables (R370, R371). -/
def State.readDword (s : State) (req addr : Nat) (be : BitVec 4 := 0xF) : State :=
  let give (q : State) (w : Word) : State := q.out (.regData req addr (enabledBytes be w))
  match decodeReg addr with
  | none => give s 0
  | some a =>
    if !s.answers a then give s 0
    else if a.win = .gen ∧ a.off = 0x20 then give (s.sync req s.syncFuel) 0
    else if a.win = .mgt ∧ a.off = 0xA020 then s.rankAccess req none be
    else if isLo a ∧ !s.regAbsent a then
      give { s with acc := { s.acc with latches := smSet s.acc.latches (latchKey req a) (s.regRead a.next) } } (s.regRead a)
    else if isHi a ∧ !s.regAbsent a then
      let lo : RegAddr := { a with off := a.off - 4 }
      give s (match smFind s.acc.latches (latchKey req lo) with | some w => w | none => a.reset s.variant)
    else give s (s.regRead a)

/-- The reset domain of a register (R340, R381): routers lie outside the cluster's. -/
def regDomain (a : RegAddr) : Option (Nat × Nat) :=
  match a.win with
  | .til | .msh | .ldl | .goo | .ari | .ktl => some (1, a.cluster)
  | .vlt | .skl => some (2, a.unit)
  | .nbp => some (3, a.unit)
  | .lpx => if 0x100 ≤ a.off then some (4, (a.off - 0x100) / 0x10) else none
  | .sve => some (5, 0)
  | .hl => some (6, a.unit)
  | _ => none

/-- The register's domain is out of RUN (R381). -/
def State.domainHolds (s : State) (a : RegAddr) : Bool :=
  match regDomain a with | some (k, i) => !s.inRun k i | none => false

/-- One dword written by a requester. -/
def State.writeDword (s : State) (req addr : Nat) (v : Word) : State :=
  match decodeReg addr with
  | none => s
  | some a => match a.desc with
    | none => s
    | some (d, _) =>
      if !s.reaches ∨ s.regAbsent a ∨ s.domainHolds a then s
      else if a.slow then s.queueSlow req a v
      else s.regApply req a d v

/-! ## Requests -/

/-- A requester's BAR0 request of n dwords: performed by `f` where the die runs; in D3hot the host's read completes with Unsupported Request and its
write is dropped and logged (R274). -/
def State.bar0Request (s : State) (req addr n : Nat) (write : Bool) (f : State) : State :=
  if !s.awake then s
  else if s.fnServes req then f
  else if write then s.logUnsupported ⟨0, addr, n, true⟩
  else s.out (.barData addr none false)

/-- Byte enables of dword i of a read of n more dwords than one: the first's, the last's, all of those between (R370). -/
def beAt (first last : BitVec 4) (n i : Nat) : BitVec 4 := if i = 0 then first else if i = n then last else 0xF

/-- LO_READ: a read request of 1 to 16 dwords, from a LO register on, with the byte enables of its first and its last dword, served dword by dword in
ascending order; Ermond's port makes single-dword requests only (R370, R371). (DESIGN CHOICE, assumption 84) -/
def execLoRead (req : BitVec 1) (addr : BitVec 26) (dwords first last : BitVec 4) (s : State) : Res :=
  let a := addr.toNat / 4 * 4
  let n := dwords.toNat
  .next (if req ≠ 0 ∧ n ≠ 0 then s
    else s.bar0Request req.toNat a (n + 1) false
      ((fromTo 0 (n + 1)).foldl (fun (q : State) i => q.readDword req.toNat ((a + 4 * i) % 2 ^ 26) (beAt first last n i)) s))

/-- GEN_SYNC. Before full ready it reads zero at once (R3). (DESIGN CHOICE, assumption 85) -/
def execGenSync (req : BitVec 1) (s : State) : Res :=
  .next (s.bar0Request req.toNat (genReg 0x20) 1 false (s.readDword req.toNat (genReg 0x20)))

/-- RANK_TABLE_ACCESS: MGT_FLT_RT_DATA is read, or written. -/
def execRankTableAccess (requester : BitVec 1) (value : Option Word) (s : State) : Res :=
  let r := requester.toNat
  .next (match value with
    | none => s.bar0Request r (mgtReg 0xA020) 1 false (s.readDword r (mgtReg 0xA020))
    | some v => s.bar0Request r (mgtReg 0xA020) 1 true (s.writeDword r (mgtReg 0xA020) v))

/-- UNLOCK: RST_UNLOCK, or MGT_UNLOCK where `mgt` is set (R374). -/
def execUnlock (req : BitVec 1) (mgt : Bool) (value : Word) (s : State) : Res :=
  .next (s.bar0Request req.toNat (if mgt then mgtReg 0 else rstReg 8) 1 true
    (if s.ready then s.setUnlocked req.toNat (bit mgt) (value = keyValue) else s))

/-- A BAR0 write of n dwords, more than 16, is dropped whole, counted, and logged through AER where it is the host's (R370). -/
def State.refuseOversize (s : State) (req a n : Nat) : State :=
  (if req = 0 then s.logUnsupported ⟨0, a, n, true⟩ else s).refuseAccess req 3 a

/-- A BAR0 request of the host of more than 16 dwords (R370). -/
def execOversizeAccess (write : Bool) (addr : BitVec 26) (dwords : BitVec 10) (s : State) : Res :=
  .next (if dwords.toNat ≤ 16 then s
    else s.bar0Request 0 addr.toNat dwords.toNat write
      (if write then s.refuseOversize 0 addr.toNat dwords.toNat else s.out (.barData addr.toNat none false)))

/-- A write of a doorbell, an MSI-X table word or a token consumer index (R278). (DESIGN CHOICE, assumption 84) -/
def State.bar4Write (s : State) (o : Nat) (v : Word) : State :=
  if !s.ready then s
  else if o < 0x40000 then (if o % 0x1000 = 0 then stateOf s (execSubmissionDoorbell (BitVec.ofNat 6 (o / 0x1000)) v s) else s)
  else if o = 0x40000 then stateOf s (execCompletionDoorbell v s)
  else if o = 0x41000 then stateOf s (execEventDoorbell v s)
  else if 0x48000 ≤ o ∧ o < 0x50000 then
    let w := if o % 16 = 12 then v &&& 1#32 else if o % 16 = 0 then v &&& 0xFFFFFFFC#32 else v
    { s with host := { s.host with msix := smSet s.host.msix (o - 0x48000) w } }
  else if 0x100000 ≤ o ∧ o < 0x110000 then { s with host := { s.host with tokenCons := smSet s.host.tokenCons ((o - 0x100000) / 4) v } }
  else s

/-! ## Configuration space (R274, R275, R277) -/

/-- A doubleword of the header of a logged request: a memory request with a 64-bit address, its type and length; what identifies it; the address.
(PRESUMED, assumption 94) -/
def LoggedReq.word (r : LoggedReq) (dw : Nat) : Nat :=
  let a := Config.barBase r.bar + r.offset
  if dw = 0 then (if r.write then 0x60000000 else 0x20000000) + r.dwords % 1024
  else if dw = 1 then Config.tlpId r.bar r.offset % 2 ^ 32
  else if dw = 2 then a / 2 ^ 32 % 2 ^ 32
  else a % 2 ^ 32 / 4 * 4

/-- DESIGN CHOICE, assumption 94. -/
def State.pciRead (s : State) (x : PciItem) : Nat :=
  let p := s.host.pcie
  match x with
  | .vendorId => Config.vendorId.toNat
  | .deviceId => if s.full then 0x9100 else 0x9060
  | .classCode => 0x120000
  | .maxPayload => p.maxPayload
  | .maxRead => p.maxRead
  | .d3hot => bit p.d3hot
  | .aspmL1 => bit p.aspmL1
  | .ecrcGen => bit p.ecrcGen
  | .ecrcCheck => bit p.ecrcCheck
  | .ptm => bit p.ptm
  | .bar2Size => s.host.bar2
  | .msixControl => bit p.msixEnable * 2 ^ 15 + bit p.msixMask * 2 ^ 14 + 2047
  | .aerStatus => bit p.unsupported
  | .aerHeader dw => match p.header with
    | some r => r.word dw.toNat
    | none => 0

/-- A write of an item. Sizes beyond what the function supports store nothing; a larger BAR2 clears the bits of HIF_W2_BASE below its size; writing 1
to the AER status clears it and its header log. (DESIGN CHOICE, assumption 94) -/
def State.pciWrite (s : State) (x : PciItem) (v : Nat) : State :=
  let p := s.host.pcie
  let on := decide (v % 2 = 1)
  let put (q : PcieState) : State := { s with host := { s.host with pcie := q } }
  match x with
  | .vendorId | .deviceId | .classCode | .aerHeader _ => s
  | .maxPayload => if v ≤ 2 then put { p with maxPayload := v } else s
  | .maxRead => if v ≤ 5 then put { p with maxRead := v } else s
  | .d3hot => put { p with d3hot := on }
  | .aspmL1 => put { p with aspmL1 := on }
  | .ecrcGen => put { p with ecrcGen := on }
  | .ecrcCheck => put { p with ecrcCheck := on }
  | .ptm => put { p with ptm := on }
  | .bar2Size =>
    if 28 ≤ v ∧ v ≤ 36 then
      let b := s.pair (hifReg 8) / 2 ^ v * 2 ^ v
      let s1 := (s.setReg (hifReg 8) (BitVec.ofNat 32 b)).setReg (hifReg 0xC) (BitVec.ofNat 32 (b / 2 ^ 32))
      { s1 with host := { s1.host with bar2 := v } }
    else s
  | .msixControl => put { p with msixEnable := v / 2 ^ 15 % 2 = 1, msixMask := v / 2 ^ 14 % 2 = 1 }
  | .aerStatus => if on then put { p with unsupported := false, header := none } else s

/-! ## Writes of registers -/

/-- REGISTER_WRITE: a write request, through BAR0, through BAR4 or to configuration space, of dwords with their byte enables. One to BAR0 with bytes left
out is dropped and counted (R370); configuration space answers once the link has trained (R348). Ermond's port reaches BAR0 only, one dword at a time. -/
def execRegisterWrite (req : BitVec 1) (sp : HostSpace) (addr : BitVec 26) (dwords : List (Word × BitVec 4)) (s : State) : Res :=
  let a := addr.toNat / 4 * 4
  let n := dwords.length
  if !s.awake ∨ (req ≠ 0 ∧ (sp ≠ .bar0 ∨ 1 < n)) then .next s
  else match sp with
    | .bar4 => .next (if !s.fnServes 0 then s.logUnsupported ⟨4, a % 2 ^ 24, n, true⟩
        else (dwords.zipIdx).foldl (fun (q : State) w => if w.1.2 = 0xF then q.bar4Write ((a + 4 * w.2) % 2 ^ 24) w.1.1 else q) s)
    | .bar2 => .next s
    | .config x => .next (match dwords with | [(v, _)] => if s.module.linkUp then s.pciWrite x v.toNat else s | _ => s)
    | .bar0 => .next (s.bar0Request req.toNat a n true
        (if 16 < n then s.refuseOversize req.toNat a n
         else (dwords.zipIdx).foldl (fun (q : State) w =>
          let o := (a + 4 * w.2) % 2 ^ 26
          if w.1.2 = 0xF then q.writeDword req.toNat o w.1.1 else q.refuseAccess req.toNat 2 o) s))

/-! ## BAR2 and BAR4 (R276 to R278) -/

/-- A byte of device memory that a host request reaches: present, in a vault in service (R150) or on an LPDDR6 channel that is up or parked (R166, R171),
not behind a wrapper (R343). (DESIGN CHOICE, assumption 84) -/
def State.bar2Reach (s : State) (a : Nat) : Bool :=
  match s.vaultAt a with
  | some v => s.inRun 2 v && s.vaultServes v
  | none => s.isLpx a && s.domain 4 (lpChan a) = .run && ((s.lpch (lpChan a)).st = .up || s.lpParked (lpChan a))

/-- Device addresses of the 64-byte pieces of a request. -/
def pieces (a n : Nat) : List (Nat × Nat) :=
  if n = 0 then [] else (fromTo (a / 64) ((a + n - 1) / 64 + 1 - a / 64)).map (fun c => (max a (64 * c), min (a + n) (64 * c + 64) - max a (64 * c)))

/-- LPDDR6 channels that the pieces of a host request reach. -/
def State.bar2Chans (s : State) (ps : List (Nat × Nat)) : List Nat := ((ps.filter (fun p => s.isLpx p.1)).map (fun p => lpChan p.1)).eraseDups

/-- A host request goes on with the LPDDR6 channels that it reaches at work, or waits where one is parked or held by the Kettle, and waits out the refresh
of the banks that it meets (R146, R171, R265, R267). -/
def State.bar2Wake (s : State) (ps : List (Nat × Nat)) (f : State → State) : State :=
  s.withLp (s.bar2Chans ps) (fun q => f (ps.foldl (fun w p => w.awaitBanks p.1 p.2) q))

/-- Bytes of device memory that a Ladle transfer, waiting or in progress, reads or writes (R277). -/
def State.ladleUses (s : State) (a n : Nat) : Bool :=
  s.ladles.any (fun l => l.2.ch.any (fun c => c.2.slots.any (fun w =>
    (w.1.skind = 0 && overlaps w.1.src (spanBytes w.1 w.1.sfix) a n) || (w.1.dkind = 0 && overlaps w.1.dst (spanBytes w.1 w.1.dfix) a n))))

/-- The host writes one piece: what a transfer uses becomes unspecified (R277). (DESIGN CHOICE, assumption 7) -/
def State.bar2Store (s : State) (a : Nat) (bs : List Byte) (poison : Bool) : State :=
  if s.ladleUses a bs.length then s.devFree a bs.length else s.devStoreUnit a bs poison

/-- DESIGN CHOICE, assumption 84. -/
def State.bar4Word (s : State) (o : Nat) : Word :=
  if 0x48000 ≤ o ∧ o < 0x50000 then smGet s.host.msix (o - 0x48000) (if o % 16 = 12 then 1 else 0)
  else if 0x50000 ≤ o ∧ o < 0x50100 then word32 (mapHalf ((o - 0x50000) / 4) (fun v => s.host.pba.contains v))
  else if 0x100000 ≤ o ∧ o < 0x110000 then smGet s.host.tokenCons ((o - 0x100000) / 4) 0
  else 0

/-- A read of device memory by the host: poisoned where a codeword cannot be corrected. -/
def State.hostLoad (s : State) (o a n : Nat) : State :=
  let r := s.devCheck a n false
  r.1.out (.barData o (some (r.1.dvRead a n)) (r.2 ≠ []))

/-- BAR2_READ: a read of device memory through BAR2, of whole dwords through BAR4, or of an item of configuration space. (DESIGN CHOICE, assumption 84) -/
def execBar2Read (sp : HostSpace) (off : BitVec 36) (len : BitVec 13) (s : State) : Res :=
  let n := len.toNat
  let o := off.toNat
  let put (q : State) (d : List Byte) : Res := .next (q.out (.barData o (some d) false))
  if !s.awake ∨ n = 0 then .next s
  else if !s.fnServes 0 ∧ (sp = .bar2 ∨ sp = .bar4) then .next (s.out (.barData o none false))
  else match sp with
    | .bar0 => .next s
    | .config x => if s.module.linkUp then put s (leBytes 4 (s.pciRead x)) else .next s
    | .bar4 =>
      if !s.ready then put s (List.replicate n 0)
      else if 0xC00000 ≤ o ∧ o + n ≤ 0x1000000 then
        let a := o - 0xC00000 + 0x2FC00000
        if s.bar2Reach a then .next (s.bar2Wake (pieces a n) (fun q => q.hostLoad o a n)) else .next (s.out (.barData o none false))
      else put s ((fromTo 0 ((n + 3) / 4)).flatMap (fun i => leBytes 4 (s.bar4Word (o / 4 * 4 + 4 * i)).toNat))
    | .bar2 =>
      let a := s.pair (hifReg 8) + o
      if 2 ^ s.host.bar2 < o + n then .next s
      else if !s.ready then put s (List.replicate n 0)
      else if (pieces a n).all (fun p => s.bar2Reach p.1) then .next (s.bar2Wake (pieces a n) (fun q => q.hostLoad o a n))
      else .next (s.out (.barData o none false))

/-- BAR2_WRITE: bytes outside present memory are dropped and logged, those in the journal area dropped; a poisoned write leaves poison. (DESIGN CHOICE,
assumptions 7 and 84) -/
def execBar2Write (off : BitVec 36) (data : List Byte) (poison : Bool) (s : State) : Res :=
  let o := off.toNat
  let log : LoggedReq := ⟨2, o, (data.length + 3) / 4, true⟩
  if !s.awake ∨ 2 ^ s.host.bar2 < o + data.length then .next s
  else if !s.fnServes 0 then .next (s.logUnsupported log)
  else if !s.ready then .next s
  else
    let a := s.pair (hifReg 8) + o
    let ps := pieces a data.length
    let good := ps.filter (fun p => s.bar2Reach p.1 && !inJournal p.1)
    let s1 := if ps.all (fun p => s.bar2Reach p.1) then s else s.logUnsupported log
    .next (s1.bar2Wake good (fun w => good.foldl (fun (q : State) p => q.bar2Store p.1 ((data.drop (p.1 - a)).take p.2) poison) w))

end Sys2Proof.Machine
end

