-- ==== Sys2Proof/Machine/Segments.lean ====
section
/-!
DEFINITION. Segment images: reading, the checks of the plan loader in their order, and loading and unloading (R18, R76 to R80, R131, R203,
R261, R262, R289).
-/

namespace Sys2Proof.Machine

open Sys2Proof

/-- A tile stream record: tile, program, the words of engines 0 to 4 (R79). -/
structure TileRec where
  tile : Nat
  program : Nat
  words : List (List Dword)
  rsvd : Nat
deriving DecidableEq, Repr

/-- An ownership list of the image: tile ID and port code of a router list, or a Novbo port's egress; its entries as read. -/
structure ListRec where
  novbo : Bool
  place : Nat
  code : Nat
  entries : List Nat
  rsvd : Bool
deriving DecidableEq, Repr

structure Image where
  bytes : List Byte
  sections : List (Nat × Nat × Nat × Nat)
deriving DecidableEq, Repr

def Image.f (i : Image) (off n : Nat) : Nat := field i.bytes off n

/-- DESIGN CHOICE, assumption 57. -/
def readImage (bs : List Byte) : Image :=
  let f := field bs
  { bytes := bs
    sections := (fromTo 0 (f 0x1A 2)).map (fun k =>
      let o := 0x100 + 16 * k
      (f o 2, f (o + 2) 2, f (o + 4) 4, f (o + 8) 8)) }

/-- TYPE, COUNT and OFFSET of the one section of a type. -/
def Image.section (i : Image) (ty : Nat) : Option (Nat × Nat) :=
  (i.sections.find? (fun s => s.1 = ty)).map (fun s => (s.2.2.1, s.2.2.2))

/-! Records of varying length: read one after another from an offset; the end of the last record comes with them. -/

def tileRecs (bs : List Byte) : Nat → Nat → List TileRec × Nat
  | 0, o => ([], o)
  | n + 1, o =>
    let counts := (fromTo 0 5).map (fun e => field bs (o + 4 + 2 * e) 2)
    let words := counts.zipIdx.map (fun c =>
      let start := o + 16 + 8 * (counts.take c.2).foldl (· + ·) 0
      (fromTo 0 c.1).map (fun k => BitVec.ofNat 64 (field bs (start + 8 * k) 8)))
    let next := o + 16 + 8 * counts.foldl (· + ·) 0
    let rest := tileRecs bs n next
    ({ tile := field bs o 2, program := field bs (o + 2) 2, words := words, rsvd := field bs (o + 14) 2 } :: rest.1, rest.2)

def routerRecs (bs : List Byte) : Nat → Nat → List ListRec × Nat
  | 0, o => ([], o)
  | n + 1, o =>
    let k := field bs (o + 4) 2
    let es := (fromTo 0 k).map (fun j => field bs (o + 8 + 4 * j) 4)
    let rest := routerRecs bs n (o + 8 + 4 * k)
    ({ novbo := false, place := field bs o 2, code := field bs (o + 2) 1, entries := es
       rsvd := field bs (o + 3) 1 ≠ 0 || field bs (o + 6) 2 ≠ 0 } :: rest.1, rest.2)

def novboRecs (bs : List Byte) : Nat → Nat → List ListRec × Nat
  | 0, o => ([], o)
  | n + 1, o =>
    let k := field bs (o + 2) 2
    let lst := field bs (o + 1) 1
    let w := if lst = 2 then 16 else 8
    let es := (fromTo 0 k).map (fun j => field bs (o + 8 + w * j) w)
    let rest := novboRecs bs n (o + 8 + w * k)
    ({ novbo := true, place := field bs o 1, code := lst, entries := es, rsvd := field bs (o + 4) 4 ≠ 0 } :: rest.1, rest.2)

/-- Budget records: cluster, entries, reserved bits. -/
def budgetRecs (bs : List Byte) : Nat → Nat → List (Nat × List Nat × Bool) × Nat
  | 0, o => ([], o)
  | n + 1, o =>
    let k := field bs (o + 2) 2
    let es := (fromTo 0 k).map (fun j => field bs (o + 8 + 4 * j) 4)
    let rest := budgetRecs bs n (o + 8 + 4 * k)
    ((field bs o 1, es, field bs (o + 1) 1 ≠ 0 || field bs (o + 4) 4 ≠ 0) :: rest.1, rest.2)

def Image.tiles (i : Image) : List TileRec := match i.section 1 with | some s => (tileRecs i.bytes s.1 s.2).1 | none => []
def Image.lists (i : Image) : List ListRec :=
  (match i.section 3 with | some s => (routerRecs i.bytes s.1 s.2).1 | none => []) ++
  (match i.section 4 with | some s => (novboRecs i.bytes s.1 s.2).1 | none => [])
def Image.budgets (i : Image) : List (Nat × List Nat × Bool) := match i.section 5 with | some s => (budgetRecs i.bytes s.1 s.2).1 | none => []
def Image.gates (i : Image) : List Nat := match i.section 6 with
  | some s => (fromTo 0 s.1).map (fun k => i.f (s.2 + 8 * k) 8)
  | none => []
def Image.segId (i : Image) : Nat := i.f 0x10 2
def Image.slot (i : Image) : Nat := i.f 0x16 1
def Image.gateCount (i : Image) : Nat := i.f 0x14 2

/-- Bytes of a program's side table (R77, R79). A program record holds the table's offset, counted from the image's start, and its entry count, 8 bytes
each. (DEDUCED, assumption 57) -/
def Image.sideTable (i : Image) (program : Nat) : List Byte :=
  match i.section 2 with
  | some s => if program < s.1 then (i.bytes.drop (i.f (s.2 + 16 * program) 8)).take (8 * i.f (s.2 + 16 * program + 8) 8) else []
  | none => []

/-- Offset in a vault at which the side table of a slot's program of n bytes lies, clear of the journal. (DESIGN CHOICE, assumption 57) -/
def sideOffset (slot program n : Nat) : Nat := 8 * (Config.sidePlace slot program % ((0x2FC00000 - n) / 8 + 1))

/-! ## Flow descriptors -/

/-- A flow descriptor of 128 bits held in two words of NE instruction memory, bits 63:0 in the first (R72, R76). (DEDUCED, assumption 57) -/
def descOf (a b : Dword) : FlowDesc :=
  let g (lo w : Nat) : Nat := fieldOf (b.toNat * 2 ^ 64 + a.toNat) lo w
  { flow := BitVec.ofNat 16 (g 0 16), kind := BitVec.ofNat 2 (g 16 2), dest := BitVec.ofNat 12 (g 18 12), spanEnd := BitVec.ofNat 12 (g 30 12)
    dmem := BitVec.ofNat 2 (g 42 2), dbase := BitVec.ofNat 17 (g 44 17), hsig := g 61 1 = 1, htally := BitVec.ofNat 5 (g 62 5)
    hinc := BitVec.ofNat 8 (g 67 8), unit := BitVec.ofNat 2 (g 75 2), vault := BitVec.ofNat 6 (g 77 6) }

/-- Reserved bits 127:83 of a descriptor are not zero (R72). -/
def descRsvd (b : Dword) : Bool := decide (2 ^ 19 ≤ b.toNat)

/-- Descriptors of a record, numbered from 0, and the length of its NE stream before them. -/
def TileRec.descs (r : TileRec) : List FlowDesc × Nat :=
  let ne := r.words.getD 4 []
  let n := min (Config.descCount ne) (min 64 (ne.length / 2))
  let k := ne.length - 2 * n
  ((fromTo 0 n).map (fun j => descOf (ne.getD (k + 2 * j) 0) (ne.getD (k + 2 * j + 1) 0)), k)

/-! ## Places of the lists -/

/-- The port of an ownership list (R131, R153, R176, R177, R203, R313). -/
def ListRec.port (r : ListRec) : Option OwnPort :=
  if r.novbo then (if r.place < 18 ∧ r.code = 1 then some (.novbo (BitVec.ofNat 5 r.place)) else none)
  else if r.place < 4096 then
    (if 1 ≤ r.code ∧ r.code ≤ 6 then some (.router (BitVec.ofNat 12 r.place) (portOfCode r.code)) else none)
  else if r.code ≠ 6 then none
  else if 0xF000 ≤ r.place ∧ r.place < 0xF040 then some (.skillet (BitVec.ofNat 6 r.place))
  else if 0xF040 ≤ r.place ∧ r.place < 0xF080 then some (.ladle (BitVec.ofNat 6 r.place))
  else if r.place = 0xF080 ∨ r.place = 0xF081 then some (.hostLadle (BitVec.ofNat 1 r.place))
  else if r.place = 0xF082 ∨ r.place = 0xF083 then some (.lpx (BitVec.ofNat 1 r.place))
  else if r.place = 0xF084 then some .sieve
  else none

/-- The unit of a list exists here (R4). -/
def State.portPresent (s : State) : OwnPort → Bool
  | .router t _ => s.tileOk t.toNat
  | .skillet v => s.full && decide (v.toNat < s.nClusters)
  | .ladle c => decide (c.toNat < s.nClusters)
  | .hostLadle _ => true
  | .lpx _ => s.full
  | .sieve => s.full
  | .novbo n => decide (n.toNat < s.nPorts)

def entryOf (novbo : Bool) (e : Nat) : OwnEntry :=
  { flow := BitVec.ofNat 16 e, gate := BitVec.ofNat 12 (fieldOf e 16 12), drank := if novbo then BitVec.ofNat 20 (fieldOf e 32 20) else 0 }

def ingressOf (e : Nat) : IngressEntry :=
  { flow := e % 65536, dest := fieldOf e 16 12, spanEnd := fieldOf e 32 12, kind := fieldOf e 48 2, unit := fieldOf e 56 8
    dmem := fieldOf e 64 2, htally := fieldOf e 72 5, hinc := fieldOf e 80 8 }

/-- An ingress entry whose reserved bits are set or whose HINC is 0 (R203). (DESIGN CHOICE, assumption 57) -/
def ingressBad (e : Nat) : Bool :=
  fieldOf e 28 4 ≠ 0 || fieldOf e 44 4 ≠ 0 || fieldOf e 50 6 ≠ 0 || fieldOf e 66 6 ≠ 0 || fieldOf e 77 3 ≠ 0 ||
    fieldOf e 80 8 = 0 || fieldOf e 88 40 ≠ 0

/-! ## The checks of R80 -/

def Image.digestOk (i : Image) : Bool :=
  shake256 32 (i.bytes.take 0x28 ++ List.replicate 32 0 ++ i.bytes.drop 0x48) = (i.bytes.drop 0x28).take 32

/-- End of the records of a section. -/
def Image.sectionEnd (i : Image) (ty count off : Nat) : Nat :=
  match ty with
  | 1 => (tileRecs i.bytes count off).2
  | 2 => off + 16 * count
  | 3 => (routerRecs i.bytes count off).2
  | 4 => (novboRecs i.bytes count off).2
  | 5 => (budgetRecs i.bytes count off).2
  | 8 => off + 4 * count
  | _ => off + 8 * count

/-- The segments loaded beside an image. -/
def State.otherSegs (s : State) (i : Image) : List Segment := s.segs.filter (fun g => g.id.toNat ≠ i.segId)

/-- A flow of the image's ingress table of a port that its buddy's table names too, here or in another loaded segment (R203). -/
def State.pairClash (s : State) (i : Image) : Bool :=
  let ins := (i.lists.filter (fun r => r.novbo && r.code = 2)).map (fun r => (r.place, r.entries.map (fun e => e % 65536)))
  let all := ins ++ (s.otherSegs i).flatMap (fun g => g.ingress.map (fun w => (w.1, w.2.map (fun e => e.flow))))
  ins.any (fun r => match s.buddy r.1 with
    | some b => all.any (fun q => q.1 = b && q.2.any (fun e => r.2.contains e))
    | none => false)

/-- The two intakes that a cluster port chooses between by flow. -/
def otherIntake : OwnPort → Option OwnPort
  | .skillet v => some (.ladle v)
  | .ladle v => some (.skillet v)
  | _ => none

/-- A flow that would be named in the lists of a cluster's Skillet and of its Ladle, in the image or in another loaded segment (R176). -/
def State.intakeClash (s : State) (i : Image) : Bool :=
  let new := i.lists.filterMap (fun r => (r.port).map (fun p => (p, r.entries.map (fun e => e % 65536))))
  let all := new ++ (s.otherSegs i).flatMap (fun g => g.own.map (fun w => (w.1, w.2.map (fun e => e.flow.toNat))))
  new.any (fun r => match otherIntake r.1 with
    | some b => all.any (fun q => q.1 = b && q.2.any (fun e => r.2.contains e))
    | none => false)

/-- An ingress entry of a KIND that the port does not inject: a row multicast at NBP0 to NBP8, a column multicast at the others (R201). -/
def ListRec.kindBad (r : ListRec) : Bool :=
  r.novbo && r.code = 2 && r.entries.any (fun e => fieldOf e 48 2 = (if r.place < 9 then 1 else 2))

/-- A budget record that is malformed, or two of one cluster (R262). (DESIGN CHOICE, assumption 57) -/
def Image.budgetBad (i : Image) : Bool :=
  i.budgets.any (fun r => r.2.2 ||
    r.2.1.any (fun e => fieldOf e 26 6 ≠ 0 || fieldOf e 23 1 ≠ 0 || fieldOf e 12 4 ≠ 0 || decide (64 < fieldOf e 16 7) || decide (i.gateCount ≤ e % 4096)) ||
    r.2.1.head?.map (fun e => e % 4096) ≠ some 0 ||
    (r.2.1.zip (r.2.1.drop 1)).any (fun w => decide (w.2 % 4096 ≤ w.1 % 4096))) ||
  (i.budgets.map (fun r => r.1)).eraseDups.length ≠ i.budgets.length

/-- A list record that is malformed: reserved bits, a gate that is not there, or LIST of a Novbo port neither 1 nor 2. (DESIGN CHOICE, assumption 57) -/
def ListRec.bad (r : ListRec) (gates : Nat) : Bool :=
  r.rsvd ||
  (if r.novbo then
    (if r.code = 1 then r.entries.any (fun e => fieldOf e 28 4 ≠ 0 || fieldOf e 52 12 ≠ 0 || decide (gates ≤ fieldOf e 16 12))
     else if r.code = 2 then r.entries.any ingressBad else true)
  else r.entries.any (fun e => fieldOf e 28 4 ≠ 0 || decide (gates ≤ fieldOf e 16 12)))

/-- A reserved bit of one of the record's descriptors is set (R72). -/
def TileRec.descBad (r : TileRec) : Bool :=
  let ne := r.words.getD 4 []
  (fromTo 0 r.descs.1.length).any (fun j => descRsvd (ne.getD (r.descs.2 + 2 * j + 1) 0))

/-- The router outputs that a packet takes, from the router where it enters the mesh on (R126 to R128). -/
def State.flowOuts (s : State) (h : FlitWord) (entry : Nat) : Nat → Nat → List (Nat × RPort)
  | 0, _ => []
  | fuel + 1, t => match s.routeAt t h entry with
    | .bad _ => []
    | .outs ps => ps.map (fun p => (t, p)) ++ (match ps.find? (fun p => p ≠ .loc ∧ p ≠ .cluster) with
      | some p => match neighbour t p with
        | some n => s.flowOuts h entry fuel n
        | none => []
      | none => [])

/-- A router output on the path of one of the segment's descriptors has no entry of its flow in the image (R18, R131). -/
def State.routesUnlisted (s : State) (i : Image) : Bool :=
  let lists := i.lists.filterMap (fun r => (r.port).map (fun p => (p, r.entries.map (fun e => e % 65536))))
  i.tiles.any (fun r => r.descs.1.any (fun d =>
    (s.flowOuts (nsendHdr r.tile (s.cluster (clusterOf r.tile)).epoch.toNat d false 0 0) r.tile 130 r.tile).any (fun w =>
      !lists.any (fun l => l.1 = .router (BitVec.ofNat 12 w.1) w.2 && l.2.contains d.flow.toNat))))

/-- The parts that R18 asks for are missing. The loader sees what a segment uses so: router outputs by the paths of its descriptors, Novbo ports by UNITS,
heavy units by a tensor-engine stream that holds more than its END, by a Skillet descriptor, or by UNITS bit 0. (DESIGN CHOICE, assumption 57) -/
def State.partsMissing (s : State) (i : Image) : Bool :=
  let units := i.f 0x1C 4
  let heavy := i.tiles.any (fun r => decide (1 < (r.words.getD 1 []).length) || r.descs.1.any (fun d => d.kind = 3 && d.unit = 0)) || units % 2 = 1
  s.routesUnlisted i ||
    (fromTo 0 18).any (fun n => fieldOf units (3 + n) 1 = 1 && !i.lists.any (fun r => r.novbo && r.place = n && r.entries ≠ [])) ||
    (heavy && i.budgets = [])

/-- DESIGN CHOICE, assumption 57. -/
def State.imageFormatBad (s : State) (i : Image) : Bool :=
  let f := i.f
  let units := f 0x1C 4
  let count (ty : Nat) : Nat := (i.sections.filter (fun x => x.1 = ty)).length
  let once := [1, 2, 6, 7, 8].all (fun ty => count ty = 1) && [3, 4, 5].all (fun ty => decide (count ty ≤ 1))
  let needs := s.partsMissing i
  let g := i.gates
  let side := (match i.section 7 with
    | some x => (fromTo 0 x.1).any (fun k => let w := i.f (x.2 + 8 * k) 8; fieldOf w 19 5 ≠ 0 || fieldOf w 48 16 ≠ 0)
    | none => false)
  let place := (match i.section 8 with
    | some x => (fromTo 0 x.1).any (fun k => i.f (x.2 + 4 * k) 4 / 4096 ≠ 0)
    | none => false)
  f 6 2 ≠ 0 || !(zeroOutside ((i.bytes.drop 0x48).take 184) []) || units / 2 ^ 21 ≠ 0 ||
    i.sections.any (fun x => x.2.1 ≠ 0 || x.1 = 0 || decide (8 < x.1) || x.2.2.2 % 64 ≠ 0 || decide (i.bytes.length < x.2.2.2) ||
      decide (i.bytes.length < i.sectionEnd x.1 x.2.2.1 x.2.2.2)) ||
    decide (i.bytes.length < 0x100 + 16 * f 0x1A 2) || !once || needs ||
    decide (f 0x14 2 = 0 ∨ 4096 < f 0x14 2) || g.length ≠ f 0x14 2 || g.head? ≠ some 0 || g.any (fun w => w / 2 ^ 33 ≠ 0) ||
    decide (7 < i.slot) || decide (3 < f 0x17 1) || decide (f 0x18 2 = 0 ∨ 4096 < f 0x18 2) || i.tiles.length ≠ f 0x18 2 ||
    i.tiles.any (fun r => r.rsvd ≠ 0 || r.descBad) || side || place || i.lists.any (fun r => r.bad i.gateCount) || i.budgetBad || s.pairClash i ||
    s.intakeClash i || i.lists.any ListRec.kindBad

/-- A unit code of a PLAN packet of KIND 3 names an absent unit (R4, R127). -/
def State.unitGone (s : State) (u : Nat) : Bool := if u < 64 then decide (s.nClusters ≤ u) else !s.full && (u = 0x40 || u = 0x41 || u = 0x42)

/-- A destination names an absent tile or unit: KIND 0 DEST; KINDs 1 and 2 DEST to SPAN_END; KIND 3 UNIT (R4, R72, R203). -/
def State.destAbsent (s : State) (kind dest spanEnd : Nat) (unitGone : Bool) : Bool :=
  if kind = 3 then unitGone else !s.tileOk dest || ((kind = 1 || kind = 2) && !s.tileOk spanEnd)

def State.descAbsent (s : State) (d : FlowDesc) : Bool := s.destAbsent d.kind.toNat d.dest.toNat d.spanEnd.toNat (!s.full)
def State.ingressAbsent (s : State) (e : IngressEntry) : Bool := s.destAbsent e.kind e.dest e.spanEnd (s.unitGone e.unit)

/-- UNITS, a tile, a destination or a port names an absent unit, or a budget a Skillet that is not there. (DESIGN CHOICE, assumption 57) -/
def State.imageAbsent (s : State) (i : Image) : Bool :=
  let units := i.f 0x1C 4
  (units % 8 ≠ 0 && !s.full) || (fromTo 0 18).any (fun n => fieldOf units (3 + n) 1 = 1 && decide (s.nPorts ≤ n)) ||
    i.tiles.any (fun r => !s.tileOk r.tile || r.descs.1.any s.descAbsent) ||
    (match i.section 8 with
      | some x => (fromTo 0 x.1).any (fun k => !s.tileOk (i.f (x.2 + 4 * k) 4 % 4096))
      | none => false) ||
    i.lists.any (fun r => if r.novbo && r.code = 2 then decide (s.nPorts ≤ r.place) || r.entries.any (fun e => s.ingressAbsent (ingressOf e)) else match r.port with
      | some p => !s.portPresent p
      | none => true) ||
    i.budgets.any (fun r => decide (s.nClusters ≤ r.1) || (!s.full && r.2.1.any (fun e => fieldOf e 24 2 ≠ 0)))

/-- DESIGN CHOICE, assumption 57. -/
def State.imageBusy (s : State) (i : Image) : Bool :=
  i.tiles.any (fun r =>
    let x := s.tile r.tile
    (x.st ≠ .idle && x.st ≠ .halted) || (match x.slots[i.slot % 8]'(Nat.mod_lt _ (by decide)) with
      | some v => v.seg.toNat ≠ i.segId
      | none => false)) ||
  s.segs.any (fun g => g.slot.toNat = i.slot && g.id.toNat ≠ i.segId && g.tiles.any (fun t => i.tiles.any (fun r => r.tile = t)))

/-! ## Placement of streams (R76) -/

/-- Words of an engine's memory that the other slots of a tile hold: start and length. -/
def usedRanges (x : TileState) (slot e : Nat) : List (Nat × Nat) :=
  (x.slots.toList.zipIdx).filterMap (fun w => match w.1 with
    | some v => if w.2 = slot then none
      else
        let st := v.streams.getD e (0, 0)
        some (st.1, st.2 + (if e = 4 then 2 * v.descs.length else 0))
    | none => none)

/-- The lowest word address at which n words fit; candidates are 0 and the ends of the used ranges. -/
def firstFit (used : List (Nat × Nat)) (cap n : Nat) : Option Nat :=
  let free (a : Nat) : Bool := decide (a + n ≤ cap) && used.all (fun u => decide (a + n ≤ u.1) || decide (u.1 + u.2 ≤ a))
  ((0 :: used.map (fun u => u.1 + u.2)).filter free).foldl (fun b a => match b with
    | none => some a
    | some c => some (min a c)) none

def engineMemory (e : Nat) : Nat := memCap (4 + e) / 8

/-- Entry PC of each engine's stream of a record, or none where one does not fit. -/
def State.placeStreams (s : State) (slot : Nat) (r : TileRec) : List (Option Nat) :=
  (r.words.zipIdx).map (fun w => firstFit (usedRanges (s.tile r.tile) slot w.2) (engineMemory w.2) w.1.length)

/-- Ownership entries that the loaded segments other than `seg` hold at a router, at a port's egress or ingress; budget entries of a
cluster. (DESIGN CHOICE, assumption 58) -/
def State.entriesHeld (s : State) (seg : Nat) (at_ : OwnPort → Bool) : Nat :=
  (s.segs.filter (fun g => g.id.toNat ≠ seg)).foldl (fun n g => n + (g.own.filter (fun w => at_ w.1)).foldl (fun k w => k + w.2.length) 0) 0

def atRouter (t : Nat) : OwnPort → Bool
  | .router u _ => u.toNat = t
  | _ => false

/-- DESIGN CHOICE, assumption 58. -/
def State.storesFull (s : State) (i : Image) : Bool :=
  let seg := i.segId
  let others := s.segs.filter (fun g => g.id.toNat ≠ seg)
  i.lists.any (fun r =>
    if r.novbo then
      let mine := (i.lists.filter (fun q => q.novbo && q.place = r.place && q.code = r.code)).foldl (fun n q => n + q.entries.length) 0
      let held := if r.code = 1 then s.entriesHeld seg (fun p => p = .novbo (BitVec.ofNat 5 r.place))
        else others.foldl (fun n g => n + (g.ingress.filter (fun w => w.1 = r.place)).foldl (fun k w => k + w.2.length) 0) 0
      decide (1024 < held + mine)
    else if r.place < 4096 then
      let mine := (i.lists.filter (fun q => !q.novbo && q.place = r.place)).foldl (fun n q => n + q.entries.length) 0
      decide (1024 < s.entriesHeld seg (atRouter r.place) + mine)
    else false) ||
  i.budgets.any (fun b => decide (1024 < b.2.1.length +
    others.foldl (fun n g => n + (g.budgets.filter (fun w => w.1 = b.1)).foldl (fun k w => k + w.2.length) 0) 0))

/-- The first check that an image fails, 0 for none; `size` is the length that the command names. (DESIGN CHOICE, assumption 57) -/
def State.imageStatus (s : State) (i : Image) (size : Nat) : Nat :=
  let f := i.f
  if size < 0x100 ∨ f 0 4 ≠ 0x47533950 ∨ f 4 2 ≠ 1 ∨ f 0x20 8 ≠ size then 0x0010
  else if !i.digestOk then 0x0011
  else if f 8 4 ≠ (s.reg (genReg 8)).toNat then 0x0012
  else if f 0xC 4 ≠ 0 ∧ f 0xC 4 ≠ (s.reg (genReg 0xC)).toNat then 0x0013
  else if s.imageFormatBad i then 0x0014
  else if s.imageAbsent i then stUnitAbsent
  else if s.imageBusy i then stSlotBusy
  else if i.tiles.any (fun r => (s.placeStreams i.slot r).any (fun p => p.isNone)) ∨ s.storesFull i then 0x0016
  else 0

/-! ## Unloading and loading -/

/-- The segment's streams, lists, budget entries and gate list go at once, whatever state a list is in (R289). A port that served it takes up
the next replay it holds the order of. -/
def State.dropSegment (s : State) (g : Segment) : State :=
  let s1 := g.tiles.foldl (fun q t => q.modTile t (fun x =>
    { x with slots := match x.slots[g.slot.toNat]'g.slot.isLt with
        | some v => if v.seg = g.id then x.slots.set g.slot.toNat none g.slot.isLt else x.slots
        | none => x.slots })) s
  let s2 : State := { s1 with
    clusters := s1.clusters.map (fun c => (c.1, { c.2 with
      started := c.2.started.filter (fun x => x.seg ≠ g.id), marks := c.2.marks.filter (fun x => x.seg ≠ g.id) }))
    segs := s1.segs.filter (fun h => h.id ≠ g.id)
    replays := s1.replays.filter (fun r => r.seg ≠ g.id)
    ports := s1.ports.map (fun p =>
      let o := p.2
      let later := o.later.filter (fun r => r.seg ≠ g.id)
      (p.1, if o.cur.any (fun r => r.seg = g.id) then { o with st := .done, cur := none, later := later } else { o with later := later })) }
  (g.own.map (fun w => w.1)).foldl (fun q p => q.startNext p ((q.port p).later.length + 1)) s2

def budgetRow (e : Nat) : BudgetEntry :=
  { gate := e % 4096, teMax := fieldOf e 16 7, sklMax := fieldOf e 24 1, sklSend := fieldOf e 25 1 = 1 }

/-- Lists of the image for one port, taken together in order. -/
def gather {α β : Type} [DecidableEq α] (xs : List (α × List β)) : List (α × List β) :=
  ((xs.map (fun x => x.1)).eraseDups).map (fun k => (k, (xs.filter (fun x => x.1 = k)).flatMap (fun x => x.2)))

def State.imageSegment (s : State) (i : Image) : Segment :=
  { id := BitVec.ofNat 16 i.segId, slot := BitVec.ofNat 3 i.slot, task := BitVec.ofNat 2 (i.f 0x17 1), slack := i.f 0x12 2
    units := BitVec.ofNat 32 (i.f 0x1C 4)
    gates := i.gates.map (fun w => (decide (fieldOf w 32 1 = 1), w % 2 ^ 32))
    tiles := i.tiles.map (fun r => r.tile)
    programs := i.tiles.map (fun r => (r.tile, r.program))
    sides := ((i.tiles.map (fun r => r.program)).eraseDups).map (fun p =>
      let n := (i.sideTable p).length
      (p, sideOffset i.slot p n, n / 8))
    own := gather (i.lists.filterMap (fun r => (r.port).map (fun p => (p, r.entries.map (entryOf r.novbo)))))
    budgets := i.budgets.map (fun b => (b.1, b.2.1.map budgetRow))
    ingress := gather ((i.lists.filter (fun r => r.novbo && r.code = 2)).map (fun r => (r.place, r.entries.map ingressOf)))
    job := s.jobId, counter := 0 }

/-- The streams of one tile go into its instruction memories, and its slot names them (R42, R76). -/
def State.loadTile (s : State) (i : Image) (r : TileRec) : State :=
  let places := s.placeStreams i.slot r
  let s1 := (r.words.zipIdx).foldl (fun q w => match places.getD w.2 none with
    | some a => q.tmStore r.tile (4 + w.2) (8 * a) (w.1.flatMap (fun x => leBytes 8 x.toNat))
    | none => q) s
  let ds := r.descs
  let info : SlotInfo :=
    { seg := BitVec.ofNat 16 i.segId
      streams := (r.words.zipIdx).map (fun w => ((places.getD w.2 none).getD 0, if w.2 = 4 then ds.2 else w.1.length))
      descs := ds.1.zipIdx.map (fun d => (d.2, d.1)) }
  s1.modTile r.tile (fun x => { x with slots := x.slots.setIfInBounds i.slot (some info) })

/-- The side tables go into the vaults of the clusters that run their programs, where the vault serves (R77). -/
def State.placeSides (s : State) (i : Image) (g : Segment) : State :=
  ((g.programs.map (fun p => (clusterOf p.1, p.2))).eraseDups).foldl (fun q w =>
    match g.sides.find? (fun x => x.1 = w.2) with
    | some x =>
      let a := w.1 * vaultSize + x.2.1
      if q.vaultServes w.1 then (q.awaitBanks a (8 * x.2.2)).devStore a (i.sideTable w.2) else q
    | none => q) s

/-- Gate offsets written for the slot's former segment go. -/
def dropOffs (slot : Nat) (b : GateBank) : GateBank := ⟨smDel b.base slot, b.offs.filter (fun w => w.1 / 4096 ≠ slot)⟩

def State.loadSegment (s : State) (i : Image) : State :=
  let s1 := match s.findSeg (BitVec.ofNat 16 i.segId) with | some g => s.dropSegment g | none => s
  let g := s1.imageSegment i
  let s2 := i.tiles.foldl (fun q r => q.loadTile i r) s1
  let s3 := (segClusters g).foldl (fun q c => q.modCluster c (fun x =>
    { x with gActive := dropOffs i.slot x.gActive, gShadow := dropOffs i.slot x.gShadow, gPending := dropOffs i.slot x.gPending })) s2
  { s3.placeSides i g with segs := s3.segs ++ [g] }

/-- SEG_LOAD. A fill of a tile's memories with zeros that runs holds the loader's writes there until it ends (R122). `hostErr`: the host answers the read of the image with an error (R276). -/
def execSegLoad (seq : Dword) (hostErr : Bool) (s : State) : Res :=
  s.runCmd seq 2 (fun c =>
    let size := field c.payload 8 8
    let i := readImage (s.hostRead (field c.payload 0 8) size)
    let why := if hostErr then stHostError else s.imageStatus i size
    if why ≠ 0 then s.complete c.seq why (if hostErr then 0 else i.segId + i.slot % 8 * 2 ^ 16)
    else if i.tiles.any (fun r => (s.tile r.tile).zbusy) then s
    else (s.loadSegment i).complete c.seq 0 (i.segId + i.slot * 2 ^ 16))

def execSegUnload (seq : Dword) (s : State) : Res :=
  s.runCmd seq 3 (fun c =>
    match s.findSeg (BitVec.ofNat 16 (field c.payload 0 2)) with
    | none => s.complete c.seq stSegNotLoaded 0
    | some g =>
      if g.slot.toNat ≠ field c.payload 2 1 then s.complete c.seq stSegNotLoaded 0
      else if g.tiles.any (fun t => (s.tile t).st = .running && (s.tile t).seg = g.id) then s.complete c.seq stSlotBusy 0
      else (s.dropSegment g).complete c.seq 0 0)

end Sys2Proof.Machine
end

