-- ==== Sys2Proof/Machine/Whisk.lean ====
section
/-!
DEFINITION. The Whisk (R71): WCOPY, WFILL and WTRN. It alone names scalar data memory (R63).
-/

namespace Sys2Proof.Machine

open Sys2Proof

/-- DESIGN CHOICE, assumption 16. -/
def rangesMeet (am a an bm b bn : Nat) : Bool := am = bm && decide (a < b + bn) && decide (b < a + an)

/-- Reads a source range and writes what `f` makes of it at the destination; where the two overlap the destination is
unspecified (R71). Where both leave the window of one memory the halt names the destination's offset, which R110 does not settle. (DESIGN CHOICE, assumption 16) -/
def whiskMove (k : Issue) (dst src : MRef) (dn sn : Nat) (bad : Bool) (clash : Option Clash) (f : List Byte → List Byte)
    (s : State) : State :=
  let t := k.tile.toNat
  wideAccess .whisk k (fun y => [(dst.mem.toNat, y.mref dst, dn), (src.mem.toNat, y.mref src, sn)]) bad clash (fun q wide =>
    let x := q.tile t
    let task := x.task.toNat
    let d := (q.taskWin t task dst.mem.toNat).1 + (x.eng .whisk).mref dst
    let o := (q.taskWin t task src.mem.toNat).1 + (x.eng .whisk).mref src
    let rd := q.engRead k .whisk src.mem.toNat o sn
    match rd.2.2 with
    | some w => .fail (rd.1.tmFree t dst.mem.toNat d dn) rsnEcc (eccInfo src.mem.toNat w)
    | none =>
      if rangesMeet dst.mem.toNat d dn src.mem.toNat o sn then
        .store { rd.1 with freeCtr := rd.1.freeCtr + 1 } dst.mem.toNat d ((fromTo 0 dn).map (Config.undefByte rd.1.freeCtr)) wide false
      else .store rd.1 dst.mem.toNat d (f rd.2.1) wide false) s

/-- WCOPY: LEN units; LEN is 1 to 255, and 0 halts with FORMAT. -/
def execWcopy (k : Issue) (dst src : MRef) (len : BitVec 8) (clash : Option Clash) (s : State) : Res :=
  .next (whiskMove k dst src (32 * len.toNat) (32 * len.toNat) (len = 0) clash id s)

/-- WFILL: LEN units of a 16-bit pattern, little-endian. -/
def execWfill (k : Issue) (dst : MRef) (pat : BitVec 16) (len : BitVec 8) (clash : Option Clash) (s : State) : Res :=
  let t := k.tile.toNat
  .next (wideAccess .whisk k (fun y => [(dst.mem.toNat, y.mref dst, 32 * len.toNat)]) (len = 0) clash (fun q wide =>
    let x := q.tile t
    let d := (q.taskWin t x.task.toNat dst.mem.toNat).1 + (x.eng .whisk).mref dst
    .store q dst.mem.toNat d ((List.replicate (16 * len.toNat) (leBytes 2 pat.toNat)).flatten) wide false) s)

/-- A 32 × 32 matrix of w-byte elements, row-major, transposed. -/
def transpose32 (w : Nat) (bs : List Byte) : List Byte :=
  (fromTo 0 32).flatMap (fun i => (fromTo 0 32).flatMap (fun j => (bs.drop ((j * 32 + i) * w)).take w))

/-- WTRN: element width 0, 1, 2 for 8, 16, 32 bits; 3 halts with FORMAT. -/
def execWtrn (k : Issue) (dst src : MRef) (ew : BitVec 2) (clash : Option Clash) (s : State) : Res :=
  let w := 2 ^ ew.toNat
  let n := if ew = 3 then 0 else 1024 * w
  .next (whiskMove k dst src n n (ew = 3) clash (transpose32 w) s)

end Sys2Proof.Machine
end

