-- ==== Sys2Proof/Machine/Dispatch.lean ====
section
/-!
DEFINITION. What each command does: one arm per row of the table, in its order.
-/

namespace Sys2Proof.Machine

open Sys2Proof

def exec (i : Instr) (s : State) : Host.Outcome State Fault Refusal :=
  match i with
  | .sync e k => Sys2Proof.Machine.execSync e k s
  | .endStream e k seg => Sys2Proof.Machine.execEnd e k seg s
  | .amov e k ad imm => Sys2Proof.Machine.execAmov e k ad imm s
  | .aadd e k ad imm => Sys2Proof.Machine.execAadd e k ad imm s
  | .apar e k ad p => Sys2Proof.Machine.execApar e k ad p s
  | .loopStart e k n body => Sys2Proof.Machine.execLoopStart e k n body s
  | .loopEnd e k => Sys2Proof.Machine.execLoopEnd e k s
  | .add k gd ga gb => Sys2Proof.Machine.execAdd k gd ga gb s
  | .sub k gd ga gb => Sys2Proof.Machine.execSub k gd ga gb s
  | .and k gd ga gb => Sys2Proof.Machine.execAnd k gd ga gb s
  | .or k gd ga gb => Sys2Proof.Machine.execOr k gd ga gb s
  | .xor k gd ga gb => Sys2Proof.Machine.execXor k gd ga gb s
  | .sll k gd ga gb => Sys2Proof.Machine.execSll k gd ga gb s
  | .srl k gd ga gb => Sys2Proof.Machine.execSrl k gd ga gb s
  | .sra k gd ga gb => Sys2Proof.Machine.execSra k gd ga gb s
  | .slt k gd ga gb => Sys2Proof.Machine.execSlt k gd ga gb s
  | .sltu k gd ga gb => Sys2Proof.Machine.execSltu k gd ga gb s
  | .mul k gd ga gb => Sys2Proof.Machine.execMul k gd ga gb s
  | .mulhu k gd ga gb => Sys2Proof.Machine.execMulhu k gd ga gb s
  | .addi k gd ga imm => Sys2Proof.Machine.execAddi k gd ga imm s
  | .andi k gd ga imm => Sys2Proof.Machine.execAndi k gd ga imm s
  | .ori k gd ga imm => Sys2Proof.Machine.execOri k gd ga imm s
  | .xori k gd ga imm => Sys2Proof.Machine.execXori k gd ga imm s
  | .slli k gd ga imm => Sys2Proof.Machine.execSlli k gd ga imm s
  | .srli k gd ga imm => Sys2Proof.Machine.execSrli k gd ga imm s
  | .srai k gd ga imm => Sys2Proof.Machine.execSrai k gd ga imm s
  | .lui k gd imm => Sys2Proof.Machine.execLui k gd imm s
  | .lw k gd ga imm => Sys2Proof.Machine.execLw k gd ga imm s
  | .sw k gb ga imm => Sys2Proof.Machine.execSw k gb ga imm s
  | .lwn k gd ga mem imm granted => Sys2Proof.Machine.execLwn k gd ga mem imm granted s
  | .swn k gb ga mem imm granted => Sys2Proof.Machine.execSwn k gb ga mem imm granted s
  | .beq k ga gb off => Sys2Proof.Machine.execBeq k ga gb off s
  | .bne k ga gb off => Sys2Proof.Machine.execBne k ga gb off s
  | .blt k ga gb off => Sys2Proof.Machine.execBlt k ga gb off s
  | .bge k ga gb off => Sys2Proof.Machine.execBge k ga gb off s
  | .bltu k ga gb off => Sys2Proof.Machine.execBltu k ga gb off s
  | .bgeu k ga gb off => Sys2Proof.Machine.execBgeu k ga gb off s
  | .j k off => Sys2Proof.Machine.execJ k off s
  | .pget k gd p => Sys2Proof.Machine.execPget k gd p s
  | .pset k ga p => Sys2Proof.Machine.execPset k ga p s
  | .pcommit k => Sys2Proof.Machine.execPcommit k s
  | .lstart k ga ch => Sys2Proof.Machine.execLstart k ga ch s
  | .csend k ga => Sys2Proof.Machine.execCsend k ga s
  | .rdinfo k gd sel => Sys2Proof.Machine.execRdinfo k gd sel s
  | .tcfg k fw fa kb mr => Sys2Proof.Machine.execTcfg k fw fa kb mr s
  | .tmma k acc wref aref pref clash => Sys2Proof.Machine.execTmma k acc wref aref pref clash s
  | .tzero k pref clash => Sys2Proof.Machine.execTzero k pref clash s
  | .vld k vd fmt m clash => Sys2Proof.Machine.execVld k vd fmt m clash s
  | .vst k va fmt m clash => Sys2Proof.Machine.execVst k va fmt m clash s
  | .vadd k vd va vb pr => Sys2Proof.Machine.execVadd k vd va vb pr s
  | .vsub k vd va vb pr => Sys2Proof.Machine.execVsub k vd va vb pr s
  | .vmul k vd va vb pr => Sys2Proof.Machine.execVmul k vd va vb pr s
  | .vfma k vd va vb vc pr => Sys2Proof.Machine.execVfma k vd va vb vc pr s
  | .vmax k vd va vb pr => Sys2Proof.Machine.execVmax k vd va vb pr s
  | .vmin k vd va vb pr => Sys2Proof.Machine.execVmin k vd va vb pr s
  | .vsfn k vd va fn pr => Sys2Proof.Machine.execVsfn k vd va fn pr s
  | .vreds k vd va pr => Sys2Proof.Machine.execVreds k vd va pr s
  | .vredm k vd va pr => Sys2Proof.Machine.execVredm k vd va pr s
  | .vbcst k vd va lane => Sys2Proof.Machine.execVbcst k vd va lane s
  | .vmovi k vd pat => Sys2Proof.Machine.execVmovi k vd pat s
  | .vqst k va fmt m clash => Sys2Proof.Machine.execVqst k va fmt m clash s
  | .wcopy k dst src len clash => Sys2Proof.Machine.execWcopy k dst src len clash s
  | .wfill k dst pat len clash => Sys2Proof.Machine.execWfill k dst pat len clash s
  | .wtrn k dst src ew clash => Sys2Proof.Machine.execWtrn k dst src ew clash s
  | .nsend k fd last len dareg src clash => Sys2Proof.Machine.execNsend k fd last len dareg src clash s
  | .ntally k dtile tally inc => Sys2Proof.Machine.execNtally k dtile tally inc s
  | .instructionComplete t e ix => Sys2Proof.Machine.execInstructionComplete t e ix s
  | .waitTimeout t e => Sys2Proof.Machine.execWaitTimeout t e s
  | .replayStart t slot count => Sys2Proof.Machine.execReplayStart t slot count s
  | .replayDone t => Sys2Proof.Machine.execReplayDone t s
  | .tileHaltReport t => Sys2Proof.Machine.execTileHaltReport t s
  | .narrowAccess t mem busy => Sys2Proof.Machine.execNarrowAccess t mem busy s
  | .narrowStarve t mem => Sys2Proof.Machine.execNarrowStarve t mem s
  | .correctionWriteback t => Sys2Proof.Machine.execCorrectionWriteback t s
  | .tileScrubRead t busy => Sys2Proof.Machine.execTileScrubRead t busy s
  | .zeroFill t => Sys2Proof.Machine.execZeroFill t s
  | .zeroFillComplete t => Sys2Proof.Machine.execZeroFillComplete t s
  | .tileClear t => Sys2Proof.Machine.execTileClear t s
  | .taskRegisterWrite t task isB value => Sys2Proof.Machine.execTaskRegisterWrite t task isB value s
  | .planPacketAtPort t inp out link came => Sys2Proof.Machine.execPlanPacketAtPort t inp out link came s
  | .ownershipPass p => Sys2Proof.Machine.execOwnershipPass p s
  | .replayOrderAtPort p seg count => Sys2Proof.Machine.execReplayOrderAtPort p seg count s
  | .flitForward t out link came => Sys2Proof.Machine.execFlitForward t out link came s
  | .creditReturn t site cls => Sys2Proof.Machine.execCreditReturn t site cls s
  | .packetDelivery t busy => Sys2Proof.Machine.execPacketDelivery t busy s
  | .tallyPacketArrival t => Sys2Proof.Machine.execTallyPacketArrival t s
  | .paramWrite t => Sys2Proof.Machine.execParamWrite t s
  | .paramCommit t => Sys2Proof.Machine.execParamCommit t s
  | .loaderOrder t via order => Sys2Proof.Machine.execLoaderOrder t via order s
  | .fenceTakesEffect t => Sys2Proof.Machine.execFenceTakesEffect t s
  | .reinstateAtBeat t => Sys2Proof.Machine.execReinstateAtBeat t s
  | .drainIntervalExpiry site => Sys2Proof.Machine.execDrainIntervalExpiry site s
  | .routeTableWrite t off value => Sys2Proof.Machine.execRouteTableWrite t off value s
  | .vaultRequest v ch bank waiting => Sys2Proof.Machine.execVaultRequest v ch bank waiting s
  | .vaultRefresh v ch bank => Sys2Proof.Machine.execVaultRefresh v ch bank s
  | .hotrefChange v temp => Sys2Proof.Machine.execHotrefChange v temp s
  | .vaultScrubRead v => Sys2Proof.Machine.execVaultScrubRead v s
  | .score v => Sys2Proof.Machine.execScore v s
  | .attend v => Sys2Proof.Machine.execAttend v s
  | .lpTraining c passes => Sys2Proof.Machine.execLpTraining c passes s
  | .lpDriftCheck c drift => Sys2Proof.Machine.execLpDriftCheck c drift s
  | .lpRefresh c bank => Sys2Proof.Machine.execLpRefresh c bank s
  | .lpPowerDown c park => Sys2Proof.Machine.execLpPowerDown c park s
  | .lpRequest c req => Sys2Proof.Machine.execLpRequest c req s
  | .lpScrubRead c => Sys2Proof.Machine.execLpScrubRead c s
  | .ladleTransferStart l k order => Sys2Proof.Machine.execLadleTransferStart l k order s
  | .ladlePacketSend l cycles => Sys2Proof.Machine.execLadlePacketSend l cycles s
  | .intakePacket p => Sys2Proof.Machine.execIntakePacket p s
  | .ladleLastUnit l k => Sys2Proof.Machine.execLadleLastUnit l k s
  | .ladleResponseComplete l k => Sys2Proof.Machine.execLadleResponseComplete l k s
  | .respTimeout l k => Sys2Proof.Machine.execRespTimeout l k s
  | .respError l k src => Sys2Proof.Machine.execRespError l k src s
  | .ladleDisable l => Sys2Proof.Machine.execLadleDisable l s
  | .ladleClr l k => Sys2Proof.Machine.execLadleClr l k s
  | .portTraining n result => Sys2Proof.Machine.execPortTraining n result s
  | .portRetry n => Sys2Proof.Machine.execPortRetry n s
  | .retrain n => Sys2Proof.Machine.execRetrain n s
  | .novboPacketReceive n corr rx => Sys2Proof.Machine.execNovboPacketReceive n corr rx s
  | .novboAck n w => Sys2Proof.Machine.execNovboAck n w s
  | .novboNak n w => Sys2Proof.Machine.execNovboNak n w s
  | .takeover n w => Sys2Proof.Machine.execTakeover n w s
  | .ident n w => Sys2Proof.Machine.execIdent n w s
  | .pool n w => Sys2Proof.Machine.execPool n w s
  | .ackDue n => Sys2Proof.Machine.execAckDue n s
  | .lcwDue n => Sys2Proof.Machine.execLcwDue n s
  | .replayTimer n => Sys2Proof.Machine.execReplayTimer n s
  | .transmitSlot n sub => Sys2Proof.Machine.execTransmitSlot n sub s
  | .egressPlan n src => Sys2Proof.Machine.execEgressPlan n src s
  | .ingressPlan n => Sys2Proof.Machine.execIngressPlan n s
  | .portHaltClear n => Sys2Proof.Machine.execPortHaltClear n s
  | .lockLoss n lane => Sys2Proof.Machine.execLockLoss n lane s
  | .lockRegained n lane => Sys2Proof.Machine.execLockRegained n lane s
  | .portDown n => Sys2Proof.Machine.execPortDown n s
  | .portEnableWrite n en => Sys2Proof.Machine.execPortEnableWrite n en s
  | .loopWrite n depth => Sys2Proof.Machine.execLoopWrite n depth s
  | .takeoverSend n => Sys2Proof.Machine.execTakeoverSend n s
  | .probationEnd n => Sys2Proof.Machine.execProbationEnd n s
  | .handback n => Sys2Proof.Machine.execHandback n s
  | .handbackMarkerReceive n => Sys2Proof.Machine.execHandbackMarkerReceive n s
  | .opticsPoll n present alarm temp rx => Sys2Proof.Machine.execOpticsPoll n present alarm temp rx s
  | .opticsAccess n x => Sys2Proof.Machine.execOpticsAccess n x s
  | .syncMgmtBulkIngress n => Sys2Proof.Machine.execSyncMgmtBulkIngress n s
  | .prepare => Sys2Proof.Machine.execPrepare s
  | .startAck => Sys2Proof.Machine.execStartAck s
  | .startNack => Sys2Proof.Machine.execStartNack s
  | .commit => Sys2Proof.Machine.execCommit s
  | .abort => Sys2Proof.Machine.execAbort s
  | .syncAction => Sys2Proof.Machine.execSyncAction s
  | .noAck => Sys2Proof.Machine.execNoAck s
  | .abortedNoCommit => Sys2Proof.Machine.execAbortedNoCommit s
  | .jobRun => Sys2Proof.Machine.execJobRun s
  | .epochSwitch => Sys2Proof.Machine.execEpochSwitch s
  | .fenceRank => Sys2Proof.Machine.execFenceRank s
  | .unfenceRank => Sys2Proof.Machine.execUnfenceRank s
  | .swapLayersAction => Sys2Proof.Machine.execSwapLayersAction s
  | .jobEnd => Sys2Proof.Machine.execJobEnd s
  | .ladderStep r slack temp => Sys2Proof.Machine.execLadderStep r slack temp s
  | .upDwellExpiry r temp => Sys2Proof.Machine.execUpDwellExpiry r temp s
  | .thermalStep r temp => Sys2Proof.Machine.execThermalStep r temp s
  | .droopTrip r => Sys2Proof.Machine.execDroopTrip r s
  | .droopClear r => Sys2Proof.Machine.execDroopClear r s
  | .droopLong r => Sys2Proof.Machine.execDroopLong r s
  | .refLoss => Sys2Proof.Machine.execRefLoss s
  | .refLossFatal => Sys2Proof.Machine.execRefLossFatal s
  | .beaconReq => Sys2Proof.Machine.execBeaconReq s
  | .beaconReqReceive n sub => Sys2Proof.Machine.execBeaconReqReceive n sub s
  | .beaconRespReceive n sub => Sys2Proof.Machine.execBeaconRespReceive n sub s
  | .beaconTimeout => Sys2Proof.Machine.execBeaconTimeout s
  | .ppsEdge sub => Sys2Proof.Machine.execPpsEdge sub s
  | .ppsLossInterval => Sys2Proof.Machine.execPpsLossInterval s
  | .ptmDialog host sub => Sys2Proof.Machine.execPtmDialog host sub s
  | .sourceChange src => Sys2Proof.Machine.execSourceChange src s
  | .timeRestep => Sys2Proof.Machine.execTimeRestep s
  | .snap => Sys2Proof.Machine.execSnap s
  | .beatBoundary last late => Sys2Proof.Machine.execBeatBoundary last late s
  | .timePulse k => Sys2Proof.Machine.execTimePulse k s
  | .timePulseEnable k en => Sys2Proof.Machine.execTimePulseEnable k en s
  | .heldStartGrant => Sys2Proof.Machine.execHeldStartGrant s
  | .kettleCapCheck avg stage stack vin => Sys2Proof.Machine.execKettleCapCheck avg stage stack vin s
  | .submissionDoorbell b value => Sys2Proof.Machine.execSubmissionDoorbell b value s
  | .completionDoorbell value => Sys2Proof.Machine.execCompletionDoorbell value s
  | .eventDoorbell value => Sys2Proof.Machine.execEventDoorbell value s
  | .ringEnableWrite ring value => Sys2Proof.Machine.execRingEnableWrite ring value s
  | .acceptanceRound readErr mirrorFail => Sys2Proof.Machine.execAcceptanceRound readErr mirrorFail s
  | .completionWrite => Sys2Proof.Machine.execCompletionWrite s
  | .eventWrite => Sys2Proof.Machine.execEventWrite s
  | .msixMessage vector => Sys2Proof.Machine.execMsixMessage vector s
  | .mctpOrder desc => Sys2Proof.Machine.execMctpOrder desc s
  | .forwardedEventReceive => Sys2Proof.Machine.execForwardedEventReceive s
  | .nop seq => Sys2Proof.Machine.execNop seq s
  | .copy seq => Sys2Proof.Machine.execCopy seq s
  | .segLoad seq hostErr => Sys2Proof.Machine.execSegLoad seq hostErr s
  | .segUnload seq => Sys2Proof.Machine.execSegUnload seq s
  | .replay seq hostErr => Sys2Proof.Machine.execReplay seq hostErr s
  | .jobSetup seq hostErr => Sys2Proof.Machine.execJobSetup seq hostErr s
  | .startJob seq => Sys2Proof.Machine.execStartJob seq s
  | .action seq => Sys2Proof.Machine.execAction seq s
  | .jobClear seq => Sys2Proof.Machine.execJobClear seq s
  | .fenceTile seq => Sys2Proof.Machine.execFenceTile seq s
  | .reinstateTile seq => Sys2Proof.Machine.execReinstateTile seq s
  | .resetDomainReset seq => Sys2Proof.Machine.execResetDomainReset seq s
  | .resetDomainRelease seq => Sys2Proof.Machine.execResetDomainRelease seq s
  | .resetDomainChip seq => Sys2Proof.Machine.execResetDomainChip seq s
  | .powerCap seq => Sys2Proof.Machine.execPowerCap seq s
  | .reqSubmit seq hostErr => Sys2Proof.Machine.execReqSubmit seq hostErr s
  | .reqCancel seq => Sys2Proof.Machine.execReqCancel seq s
  | .reqPause seq => Sys2Proof.Machine.execReqPause seq s
  | .reqResume seq => Sys2Proof.Machine.execReqResume seq s
  | .reqTruncate seq => Sys2Proof.Machine.execReqTruncate seq s
  | .saveContext seq => Sys2Proof.Machine.execSaveContext seq s
  | .restoreContext seq => Sys2Proof.Machine.execRestoreContext seq s
  | .srvConfig seq => Sys2Proof.Machine.execSrvConfig seq s
  | .srvConfigRestart seq => Sys2Proof.Machine.execSrvConfigRestart seq s
  | .modelLoad seq hostErr => Sys2Proof.Machine.execModelLoad seq hostErr s
  | .modelLoadRepair seq hostErr => Sys2Proof.Machine.execModelLoadRepair seq hostErr s
  | .modelUnload seq => Sys2Proof.Machine.execModelUnload seq s
  | .swapLayers seq hostErr => Sys2Proof.Machine.execSwapLayers seq hostErr s
  | .modelKeyEnrol seq hostErr => Sys2Proof.Machine.execModelKeyEnrol seq hostErr s
  | .modelKeyRevoke seq => Sys2Proof.Machine.execModelKeyRevoke seq s
  | .stepBoundary m rows => Sys2Proof.Machine.execStepBoundary m rows s
  | .pageDemotionComplete handle ix => Sys2Proof.Machine.execPageDemotionComplete handle ix s
  | .contextTransferComplete seq hostErr => Sys2Proof.Machine.execContextTransferComplete seq hostErr s
  | .sieveSlice => Sys2Proof.Machine.execSieveSlice s
  | .sieveDraw => Sys2Proof.Machine.execSieveDraw s
  | .shardCheck m hostErr => Sys2Proof.Machine.execShardCheck m hostErr s
  | .bulkReq => Sys2Proof.Machine.execBulkReq s
  | .bulkData => Sys2Proof.Machine.execBulkData s
  | .bulkNoshard => Sys2Proof.Machine.execBulkNoshard s
  | .peerLimitExpiry m => Sys2Proof.Machine.execPeerLimitExpiry m s
  | .digestScrub => Sys2Proof.Machine.execDigestScrub s
  | .swapLayerCopy m => Sys2Proof.Machine.execSwapLayerCopy m s
  | .por => Sys2Proof.Machine.execPor s
  | .perst => Sys2Proof.Machine.execPerst s
  | .hotrst => Sys2Proof.Machine.execHotrst s
  | .flr => Sys2Proof.Machine.execFlr s
  | .chipResetWrite req value => Sys2Proof.Machine.execChipResetWrite req value s
  | .wdog => Sys2Proof.Machine.execWdog s
  | .wdogRestart => Sys2Proof.Machine.execWdogRestart s
  | .therm => Sys2Proof.Machine.execTherm s
  | .thermRestart temp => Sys2Proof.Machine.execThermRestart temp s
  | .chipFatal cause index => Sys2Proof.Machine.execChipFatal cause index s
  | .fatalRestart => Sys2Proof.Machine.execFatalRestart s
  | .clusterFatal cluster cause => Sys2Proof.Machine.execClusterFatal cluster cause s
  | .domainResetEffect kind index => Sys2Proof.Machine.execDomainResetEffect kind index s
  | .domainHeld kind index => Sys2Proof.Machine.execDomainHeld kind index s
  | .domainReleaseEffect kind index => Sys2Proof.Machine.execDomainReleaseEffect kind index s
  | .domainRestoreComplete kind index kept passes => Sys2Proof.Machine.execDomainRestoreComplete kind index kept passes s
  | .bringupStage fail unread lat => Sys2Proof.Machine.execBringupStage fail unread lat s
  | .secCommit req value => Sys2Proof.Machine.execSecCommit req value s
  | .pldmFirmwareUpdate target image => Sys2Proof.Machine.execPldmFirmwareUpdate target image s
  | .pldmPlatformMonitoring => Sys2Proof.Machine.execPldmPlatformMonitoring s
  | .getVersion doe => Sys2Proof.Machine.execGetVersion doe s
  | .getCapabilities doe version => Sys2Proof.Machine.execGetCapabilities doe version s
  | .negotiateAlgorithms doe ed448 sha3 => Sys2Proof.Machine.execNegotiateAlgorithms doe ed448 sha3 s
  | .getDigests doe => Sys2Proof.Machine.execGetDigests doe s
  | .getCertificate doe slot off len => Sys2Proof.Machine.execGetCertificate doe slot off len s
  | .challenge doe slot nonce => Sys2Proof.Machine.execChallenge doe slot nonce s
  | .getMeasurements doe index nonce => Sys2Proof.Machine.execGetMeasurements doe index nonce s
  | .scoreDecay => Sys2Proof.Machine.execScoreDecay s
  | .marginStart value => Sys2Proof.Machine.execMarginStart value s
  | .marginComplete res0 res1 => Sys2Proof.Machine.execMarginComplete res0 res1 s
  | .prbsEnable value peerL4 errs => Sys2Proof.Machine.execPrbsEnable value peerL4 errs s
  | .lbgStart value peerL5 => Sys2Proof.Machine.execLbgStart value peerL5 s
  | .lbgComplete => Sys2Proof.Machine.execLbgComplete s
  | .memtestStart value => Sys2Proof.Machine.execMemtestStart value s
  | .memtestComplete bad => Sys2Proof.Machine.execMemtestComplete bad s
  | .inputShutdown volts => Sys2Proof.Machine.execInputShutdown volts s
  | .bar2Read sp off len => Sys2Proof.Machine.execBar2Read sp off len s
  | .bar2Write off data poison => Sys2Proof.Machine.execBar2Write off data poison s
  | .loRead req addr dwords first last => Sys2Proof.Machine.execLoRead req addr dwords first last s
  | .genSync req => Sys2Proof.Machine.execGenSync req s
  | .unlock req mgt value => Sys2Proof.Machine.execUnlock req mgt value s
  | .rankTableAccess requester value => Sys2Proof.Machine.execRankTableAccess requester value s
  | .oversizeAccess write addr dwords => Sys2Proof.Machine.execOversizeAccess write addr dwords s
  | .slowWriteEffect => Sys2Proof.Machine.execSlowWriteEffect s
  | .registerWrite req sp addr dwords => Sys2Proof.Machine.execRegisterWrite req sp addr dwords s
  | .refclkRestored => Sys2Proof.Machine.execRefclkRestored s
  | .perstNRising => Sys2Proof.Machine.execPerstNRising s
  | .pcieLinkUp => Sys2Proof.Machine.execPcieLinkUp s
  | .flashWriteComplete sec => Sys2Proof.Machine.execFlashWriteComplete sec s
  | .refreshMultiplierChange c mult temp => Sys2Proof.Machine.execRefreshMultiplierChange c mult temp s
  | .dynamicAddressAssignment addr static => Sys2Proof.Machine.execDynamicAddressAssignment addr static s

end Sys2Proof.Machine
end

