-- ==== Sys2Proof/Safety.lean ====
section
/-!
DEFINITION. What claims call a good state, an instruction that may issue, and what stays as it was.
-/

namespace Sys2Proof.Machine

open Sys2Proof

/-- The three byte memories are in canonical form: addresses rising, no listed byte zero. -/
def State.MemOk (s : State) : Prop := memWf s.tileMem = true ∧ memWf s.devMem = true ∧ memWf s.hostMem = true

/-- No byte of tile, device or host memory reads otherwise than before. -/
def SameMem (s u : State) : Prop := u.tileMem = s.tileMem ∧ u.devMem = s.devMem ∧ u.hostMem = s.hostMem

/-! ## Instructions of a tile -/

/-- The waits of an instruction, each with the count it needs (R60). -/
def needOf (x : TileState) (k : Issue) : List (Wait × Nat) :=
  match waitsNeed x k with
  | .ok ws => ws
  | .error _ => []

/-- Every wait count that a PARAM entry gives lies in 1 to 65,535 (R60). -/
def needsKnown (x : TileState) (k : Issue) : Bool :=
  match waitsNeed x k with
  | .ok _ => true
  | .error _ => false

/-- No word of n bytes at a physical offset of a tile memory carries bad symbols (R119, R120). -/
def State.goodWords (s : State) (t mem off n : Nat) : Bool :=
  s.wordErr.all (fun p => !(decide (tmAddr t mem 0 / 32 + off / 32 ≤ p.1) && decide (p.1 * 32 < tmAddr t mem 0 / 32 * 32 + off + n)))

/-- Every write of another engine, or of the receive side, into n bytes at a physical offset of a tile memory is ordered before instruction k of engine
e by a tally (R41). -/
def State.noRace (s : State) (k : Issue) (e : Engine) (mem off n : Nat) : Bool :=
  ((s.tile k.tile.toNat).unseen (engCode e) (waitTallies k)).all (fun w => !(w.mem = mem && decide (w.off < off + n) && decide (off < w.off + w.len)))

/-- The instruction word at an engine's PC has been read, or reads without correction (R119, R120). -/
def State.fetched (s : State) (t : Nat) (e : Engine) : Bool :=
  ((s.tile t).eng e).head.isSome || s.goodWords t (4 + engCode e) (8 * ((s.tile t).eng e).pc) 8

/-- Every condition of R22 but credits and the Kettle's: the tile runs, the engine has not ended, its word is read, the waits are met, the gate
beat has begun in the tile's cluster. -/
def State.canIssue (s : State) (e : Engine) (k : Issue) : Bool :=
  let t := k.tile.toNat
  let x := s.tile t
  decide (x.st = .running) && !(x.eng e).ended && s.tileOk t && !s.unlocked.contains (clusterOf t) && s.fetched t e && needsKnown x k &&
    (unmetWait x (needOf x k)).isNone && s.gateOpenAt (clusterOf t) (s.tileGate t (gateNo k))

/-- The issuing tile once the takes are made (R61). -/
def State.taken (s : State) (k : Issue) : TileState := takeAll (s.tile k.tile.toNat) (needOf (s.tile k.tile.toNat) k)

/-- PC of an engine of the issuing tile. -/
def State.pcOf (s : State) (e : Engine) (k : Issue) : Nat := ((s.tile k.tile.toNat).eng e).pc

/-- A tile but for its engines, its state, its halt record, what it keeps for the Goose's record of the first issue (R30, R31) and which engines its
writes are visible to (R41). -/
def TileState.work (x : TileState) : TileState :=
  { x with st := .idle, halt := none, more := false, haltReported := false, firstIssued := false, firing := [], fresh := []
           engines := Vector.replicate 5 EngineState.reset }

/-- The tiles, the loaded segments and the segments of the ordered replays are the same. -/
def SamePlans (s u : State) : Prop :=
  u.tiles = s.tiles ∧ u.segs = s.segs ∧ u.replays.map (fun r => r.seg) = s.replays.map (fun r => r.seg)

/-- A state with its registers, cluster controllers, events and health records blanked: what counting, a Goose's record or an event
leaves as it was. -/
def State.quiet (s : State) : State :=
  { s with regs := [], clusters := [], alarmMap := [], events := [], evLost := false, evForward := [], hltWarned := [], hltAlerted := [] }

/-- Instruction i issues on engine e with state q for its own effects, `wide` for the banks of its wide accesses, `dest` for the words it writes
until it completes, and next PC `pc`:
every other engine of the tile is as in q, this one moves to `pc` with the instruction outstanding with its signal; memories, other tiles and
units are as in q, and so are registers and events once an instruction of this replay has issued before (the first one is what the cluster
Goose measures, R30). The engine is ordered after the writes that its waits show, and what it writes is not visible to another yet (R41). Left open here: the tile's state and halt record, which change where the new PC lies outside the stream (R49). -/
def IssuesIn (i : Instr) (s : State) (e : Engine) (k : Issue) (q : State) (wide : List (Nat × Nat)) (dest : List (Nat × Nat × Nat)) (heavy : Bool) (pc : Nat) : Prop :=
  ∃ u, exec i s = .next u ∧ (u.tile k.tile.toNat).work = (q.tile k.tile.toNat).work ∧
    (u.tile k.tile.toNat).fresh = (dest.foldl (fun w d => w.wrote (engCode e) d.1 d.2.1 d.2.2) ((q.tile k.tile.toNat).ordered (engCode e) (waitTallies k))).fresh ∧
    (∀ f, f ≠ e → (u.tile k.tile.toNat).eng f = (q.tile k.tile.toNat).eng f) ∧
    (u.tile k.tile.toNat).eng e = { (q.tile k.tile.toNat).eng e with
      pc := pc, head := none, inflight := ((q.tile k.tile.toNat).eng e).inflight ++ [⟨s.pcOf e k, k.signal, wide, dest, heavy, false⟩] } ∧
    u.quiet = (q.setTile k.tile.toNat (u.tile k.tile.toNat)).quiet ∧
    ((s.tile k.tile.toNat).firstIssued = true → u = q.setTile k.tile.toNat (u.tile k.tile.toNat))

/-- Instruction i issues and changes the issuing tile alone, from what it was after the takes to `x`. -/
def Issues (i : Instr) (s : State) (e : Engine) (k : Issue) (x : TileState) : Prop :=
  IssuesIn i s e k (s.setTile k.tile.toNat x) [] [] false (s.pcOf e k + 1)

/-- Physical offset of a task offset for the tile's running task (R109). -/
def State.phys (s : State) (t mem off : Nat) : Nat := (s.taskWin t (s.tile t).task.toNat mem).1 + off

/-- n bytes at a task offset lie in the task's window and start at a multiple of 32 (R63, R110). -/
def State.fits (s : State) (t mem off n : Nat) : Bool :=
  decide (off % 32 = 0) && decide (off + n ≤ (s.taskWin t (s.tile t).task.toNat mem).2)

/-- Instruction i does not issue: the tile halts with this record, `more` where a second condition was met, and nothing else of the
machine changes (R51, R53). -/
def HaltsWith (i : Instr) (s : State) (e : Engine) (k : Issue) (reason info : Nat) (more : Bool) : Prop :=
  let x := s.tile k.tile.toNat
  exec i s = .next (s.setTile k.tile.toNat { x with
    st := .halted, more := x.more || more, haltReported := false
    halt := some ⟨engCode e, reason, s.pcOf e k, 0, s.beatAt (clusterOf k.tile.toNat), info⟩ })

/-! ## Packets and commands -/

/-- The flit at the head of an input has left router t by a link output for its neighbour n: it is gone from the input, takes one credit of the
output and joins the neighbour's input. -/
def FlitMoved (s u : State) (t n : Nat) (out inp : RPort) (cls : Nat) : Prop :=
  ∃ f rest, (s.router t).queue inp cls = f :: rest ∧ (u.router t).queue inp cls = rest ∧
    smGet (u.router t).used (4 * rportCode out + cls) 0 = smGet (s.router t).used (4 * rportCode out + cls) 0 + 1 ∧
    (u.router n).queue (opposite out) cls = (s.router n).queue (opposite out) cls ++ [f]

/-- A flit may move so: unicast by this output, to a neighbour that is dropping nothing of its class, and not itself the neighbour's flow back. -/
def State.linkClear (s : State) (t n : Nat) (out inp : RPort) (cls : Nat) : Bool :=
  s.canLeave t out inp cls && decide (neighbour t out = some n) && decide (smGet (s.router n).dropping (4 * rportCode (opposite out) + cls) 0 = 0) &&
    (match (s.router t).queue inp cls, (s.router t).headHdr inp cls with
      | f :: _, some h => decide (s.routeAt t h f.entry = .outs [out])
      | _, _ => false)

/-- Nothing of a class is being dropped at an input of router t (R133). -/
def State.inputClean (s : State) (t : Nat) (inp : RPort) (cls : Nat) : Bool := decide (smGet (s.router t).dropping (4 * rportCode inp + cls) 0 = 0)

/-- A tile halts with a record, and keeps its registers. -/
def TileHalted (s u : State) (t engine reason pc info : Nat) : Prop :=
  (u.tile t).st = .halted ∧ (u.tile t).halt = some ⟨engine, reason, pc, 0, s.beatAt (clusterOf t), info⟩ ∧ (u.tile t).g = (s.tile t).g ∧
    (u.tile t).tallies = (s.tile t).tallies

/-- The command with this sequence number, waiting in s, has completed in u with a status: it waits no more, and its completion entry waits for the
ring, or has been answered to the management controller (R287, R291). -/
def Completed (s u : State) (seq status : Nat) : Prop :=
  ∀ c, s.findCmd seq = some c → u.findCmd seq = none ∧
    (c.ring < 64 → ∃ e ∈ u.host.waiting, e.tag = c.tag ∧ e.seq = seq ∧ e.status = status ∧ e.ring = c.ring) ∧
    (c.ring = 0xFE → ∃ e, Out.mctpResponse e ∈ u.outbox ∧ e.tag = c.tag ∧ e.seq = seq ∧ e.status = status)

/-- An event of a type other than TILE_HALT waits for the ring in u, where s had room for it and the few that may go before it (R292). -/
def Raised (s u : State) (type detail : Nat) : Prop :=
  (s.events.filter (fun x => !x.ownHalt)).length + 16 ≤ 1024 →
    ∃ e ∈ u.events, e.type = type ∧ e.detail = detail ∧ e.beat = s.beat.toNat

/-- No codeword that n bytes of device memory touch carries bad symbols (R148, R167). -/
def State.goodCws (s : State) (a n : Nat) : Bool :=
  s.cwErr.all (fun p => !(decide (a / 64 ≤ p.1) && decide (p.1 ≤ (a + n - 1) / 64)))

end Sys2Proof.Machine
end

