-- ==== Sys2Proof/Certificates/Slice0/Obligations.lean ====
section
/-!
DEFINITION. The statements for the provers.
-/

open Sys2Proof Sys2Proof.Machine


/-- A step takes the command at the front of the queue and is that command's effect on the state with the queue's rest. -/
def Obligations.StepRunsFrontCommand : Prop :=
  ∀ (s : State) (c : Instr) (r : List Instr), step { s with pending := c :: r } = exec c { s with pending := r }

/-- Every command, in every state, ends in a next state and leaves the queue as it is: no command stops the block, and none puts another in front. -/
def Obligations.CommandsAnswer : Prop :=
  ∀ (c : Instr) (s : State), ∃ u, exec c s = .next u ∧ u.pending = s.pending

/-- On an empty queue a step is a slow edge (the model's choice, assumption 1): Varuni time advances by one slow period, slow-domain writes move one edge
nearer and the heads of their queues leave; with no time pulse on, no register, memory, tile or queue of commands changes. With the rails off only the time
that the power stages count goes on; while PERST_N is low with the rails on nothing happens.
Clauses that rest on the model's own choices: assumption 1. -/
def Obligations.IdleStep : Prop :=
  ∀ (s : State), s.pending = [] →
    (s.awake = true → (∀ w ∈ s.acc.slowOut, w.edges ≠ 0) → (∀ k < 4, (s.pulse k).on = false ∧ (s.pulse k).till = none) →
      ∃ u, step s = .next u ∧ u.tm.now = (s.tm.now + s.slowStep) % (2 ^ 64 * secU) ∧ u.tm.run = s.tm.run + s.slowStep ∧ u.pending = [] ∧ SameMem s u ∧
        u.tiles = s.tiles ∧ u.regs = s.regs ∧ u.beat = s.beat ∧ (∀ w ∈ s.acc.slowOut, { w with edges := w.edges - 1 } ∈ u.acc.slowOut) ∧
        (∀ k a v r, smFind s.acc.slowQ k = some ((a, v) :: r) → (⟨k / 2, a, v, 2⟩ : SlowWrite) ∈ u.acc.slowOut)) ∧
    (s.module.rails ≠ .on → step s = .next { s with tm := { s.tm with run := s.tm.run + s.slowStep } }) ∧
    (s.module.rails = .on → s.module.perstLow = true → step s = .next s)

/-- A module right after a whole-chip reset: no event, command or plan; every tile idle with empty tallies; registers at the values of their tables, which
differ by variant; every byte of memory that nothing has written reads 0 (assumption 2).
The reset state's memories are in canonical form.
Clauses that rest on the model's own choices: assumptions 2, 9, 10, 12. -/
def Obligations.ResetState : Prop :=
  (State.reset.pending = [] ∧ State.reset.variant = .pz9100 ∧ State.reset.ready = false ∧ State.reset.boot.stages = 0 ∧
   ∀ (v : Variant) (seed : BitVec 128),
     let s := State.fresh v seed
     s.pending = [] ∧ s.events = [] ∧ s.beat = 0 ∧ s.outbox = [] ∧ s.host.cmds = [] ∧ s.host.waiting = [] ∧
     (∀ t, (s.tile t).st = .idle ∧ (s.tile t).halt = none ∧ ∀ k, (s.tile t).tally k = 0) ∧
     (∀ a, memGet s.tileMem a = 0 ∧ memGet s.devMem a = 0 ∧ memGet s.hostMem a = 0) ∧
     (∀ n, (s.nport n).st = .off) ∧ (∀ k, (s.srv.reqs.find? (fun q => q.1 = k)) = none) ∧ s.fleet.job = .none ∧
     s.reg (genReg 0x10) = (if v = .pz9060 then 0x30000C00#32 else 0x40001000#32) ∧ s.reg (genReg 8) = 0x50390001#32 ∧
     s.reg (rstReg 0) = 1#32 ∧ s.reg (rstReg 0xC) = 0x800007D0#32 ∧
     s.reg (pwrReg 4) = (if v = .pz9060 then 0x320514#32 else 0x3207D0#32) ∧ s.reg (clkReg 4) = 0x806403E8#32) ∧
  (State.reset.MemOk ∧ ∀ (v : Variant) (seed : BitVec 128), (State.fresh v seed).MemOk)

/-- Every step keeps the memories in canonical form: tile, device and host memory list rising addresses and no byte that reads as an unlisted one does.
Clauses that rest on the model's own choices: assumption 2. -/
def Obligations.StepKeepsMemOk : Prop :=
  ∀ (s u : State), s.MemOk → step s = .next u → u.MemOk

/-- The three memories' one write each: the bytes written read back, every other byte of all three memories reads as before, and the canonical form stays.
Clauses that rest on the model's own choices: assumption 2. -/
def Obligations.MemoryWrites : Prop :=
  ∀ (s : State) (a b : Nat) (bs : List Byte), s.MemOk →
    let outside := b < a ∨ a + bs.length ≤ b
    let rest (u : State) : Prop := u.MemOk ∧ u.tiles = s.tiles ∧ u.regs = s.regs ∧ u.pending = s.pending ∧ u.events = s.events
    ((s.tmWrite a bs).tmRead a bs.length = bs ∧ (outside → memGet (s.tmWrite a bs).tileMem b = memGet s.tileMem b) ∧
      (s.tmWrite a bs).devMem = s.devMem ∧ (s.tmWrite a bs).hostMem = s.hostMem ∧ rest (s.tmWrite a bs)) ∧
    ((s.dvWrite a bs).dvRead a bs.length = bs ∧ (outside → memGet (s.dvWrite a bs).devMem b = memGet s.devMem b) ∧
      (s.dvWrite a bs).tileMem = s.tileMem ∧ (s.dvWrite a bs).hostMem = s.hostMem ∧ rest (s.dvWrite a bs)) ∧
    ((s.hostWrite a bs).hostRead a bs.length = bs ∧ (outside → memGet (s.hostWrite a bs).hostMem b = memGet s.hostMem b) ∧
      (s.hostWrite a bs).tileMem = s.tileMem ∧ (s.hostWrite a bs).devMem = s.devMem ∧ rest (s.hostWrite a bs))

/-- The scalar core's register forms: GD takes what the opcode makes of GA and GB (g0 stays zero, `setGpr`), and nothing else of the
tile changes but the takes, the PC and the instruction outstanding.
The scalar core's immediate forms, LUI, PGET and RDINFO: likewise with GD alone written.
PSET writes SHADOW alone, PCOMMIT copies SHADOW into PENDING and leaves a commit pending; neither changes ACTIVE, which PGET reads.
A register of the scalar core reads what was last written to it, g0 always zero.
Completes, under each clause's conditions on state and operands: add, sub, and, or, xor, sll, srl, sra, slt, sltu, mul, mulhu, addi, andi, ori, xori, slli, srli, srai, lui, pget, pset, pcommit, rdinfo.
Clauses that rest on the model's own choices: assumptions 6, 7. -/
def Obligations.ScalarForms : Prop :=
  (∀ (s : State) (k : Issue) (gd ga gb : BitVec 5), s.canIssue .sc k = true →
     let x := s.taken k
     let a := x.gpr ga
     let b := x.gpr gb
     Issues (.add k gd ga gb) s .sc k (x.setGpr gd (a + b)) ∧
     Issues (.sub k gd ga gb) s .sc k (x.setGpr gd (a - b)) ∧
     Issues (.and k gd ga gb) s .sc k (x.setGpr gd (a &&& b)) ∧
     Issues (.or k gd ga gb) s .sc k (x.setGpr gd (a ||| b)) ∧
     Issues (.xor k gd ga gb) s .sc k (x.setGpr gd (a ^^^ b)) ∧
     Issues (.sll k gd ga gb) s .sc k (x.setGpr gd (a <<< (b.extractLsb' 0 5).toNat)) ∧
     Issues (.srl k gd ga gb) s .sc k (x.setGpr gd (a >>> (b.extractLsb' 0 5).toNat)) ∧
     Issues (.sra k gd ga gb) s .sc k (x.setGpr gd (a.sshiftRight (b.extractLsb' 0 5).toNat)) ∧
     Issues (.slt k gd ga gb) s .sc k (x.setGpr gd (if a.toInt < b.toInt then 1 else 0)) ∧
     Issues (.sltu k gd ga gb) s .sc k (x.setGpr gd (if a.toNat < b.toNat then 1 else 0)) ∧
     Issues (.mul k gd ga gb) s .sc k (x.setGpr gd (a * b)) ∧
     Issues (.mulhu k gd ga gb) s .sc k (x.setGpr gd ((a.setWidth 64 * b.setWidth 64).extractLsb' 32 32))) ∧
  (∀ (s : State) (k : Issue) (gd ga : BitVec 5) (imm : BitVec 24) (p : BitVec 6), s.canIssue .sc k = true →
     let x := s.taken k
     let a := x.gpr ga
     Issues (.addi k gd ga imm) s .sc k (x.setGpr gd (a + imm.signExtend 32)) ∧
     Issues (.andi k gd ga imm) s .sc k (x.setGpr gd (a &&& imm.setWidth 32)) ∧
     Issues (.ori k gd ga imm) s .sc k (x.setGpr gd (a ||| imm.setWidth 32)) ∧
     Issues (.xori k gd ga imm) s .sc k (x.setGpr gd (a ^^^ imm.setWidth 32)) ∧
     (imm.toNat < 32 → Issues (.slli k gd ga imm) s .sc k (x.setGpr gd (a <<< imm.toNat)) ∧
       Issues (.srli k gd ga imm) s .sc k (x.setGpr gd (a >>> imm.toNat)) ∧
       Issues (.srai k gd ga imm) s .sc k (x.setGpr gd (a.sshiftRight imm.toNat))) ∧
     Issues (.lui k gd imm) s .sc k (x.setGpr gd (imm.setWidth 32 <<< 8)) ∧
     Issues (.pget k gd p) s .sc k (x.setGpr gd (x.active[p.toNat]'p.isLt)) ∧
     Issues (.rdinfo k gd 0) s .sc k (x.setGpr gd (k.tile.setWidth 32)) ∧
     Issues (.rdinfo k gd 1) s .sc k (x.setGpr gd (x.count.setWidth 32)) ∧
     Issues (.rdinfo k gd 2) s .sc k (x.setGpr gd (x.seg.setWidth 32)) ∧
     Issues (.rdinfo k gd 3) s .sc k (x.setGpr gd (x.slot.setWidth 32))) ∧
  (∀ (s : State) (k : Issue) (ga : BitVec 5) (p : BitVec 6), s.canIssue .sc k = true →
     let x := s.taken k
     Issues (.pset k ga p) s .sc k { x with shadow := x.shadow.set p.toNat (x.gpr ga) p.isLt } ∧
     Issues (.pcommit k) s .sc k { x with pending := x.shadow, commitPending := true }) ∧
  (∀ (x : TileState) (i j : BitVec 5) (w : Word),
     (x.setGpr i w).gpr j = (if j = 0 then 0 else if j = i then w else x.gpr j) ∧ x.gpr 0 = 0)

/-- A branch goes to PC + OFF where its condition holds, else to the following word; it writes no register.
Loops: a count of 0, immediate or from PARAM, skips the body and its loop-end, another opens the loop; a loop-end repeats the body
while iterations are left.
Completes, under each clause's conditions on state and operands: loopStart, loopEnd, beq, bne, blt, bge, bltu, bgeu, j.
Clauses that rest on the model's own choices: assumption 6. -/
def Obligations.ControlFlow : Prop :=
  (∀ (s : State) (k : Issue) (ga gb : BitVec 5) (off : BitVec 24), s.canIssue .sc k = true →
     let x := s.taken k
     let a := x.gpr ga
     let b := x.gpr gb
     let tgt (c : Prop) [Decidable c] : Nat := if c then (BitVec.ofNat 32 (s.pcOf .sc k) + off.signExtend 32).toNat else s.pcOf .sc k + 1
     let goes (i : Instr) (pc : Nat) : Prop := IssuesIn i s .sc k (s.setTile k.tile.toNat x) [] [] false pc
     goes (.beq k ga gb off) (tgt (a = b)) ∧ goes (.bne k ga gb off) (tgt (a ≠ b)) ∧
     goes (.blt k ga gb off) (tgt (a.toInt < b.toInt)) ∧ goes (.bge k ga gb off) (tgt (b.toInt ≤ a.toInt)) ∧
     goes (.bltu k ga gb off) (tgt (a.toNat < b.toNat)) ∧ goes (.bgeu k ga gb off) (tgt (b.toNat ≤ a.toNat)) ∧
     goes (.j k off) (tgt True)) ∧
  (∀ (s : State) (e : Engine) (k : Issue) (n : LoopCount) (c : Nat) (body : BitVec 16), s.canIssue e k = true →
     let x := s.taken k
     let y := x.eng e
     let t := k.tile.toNat
     let goes (i : Instr) (loops : List LoopFrame) (pc : Nat) : Prop :=
       IssuesIn i s e k (s.setTile t (x.setEng e { y with loops := loops })) [] [] false pc
     (c ≤ 65535 → (match n with
         | .imm i => c = i.toNat
         | .param p => c = (x.active[p.toNat]'p.isLt).toNat) →
       (c = 0 → goes (.loopStart e k n body) y.loops (s.pcOf e k + body.toNat + 2)) ∧
       (c ≠ 0 → goes (.loopStart e k n body) (⟨s.pcOf e k + 1, c - 1⟩ :: y.loops) (s.pcOf e k + 1))) ∧
     (∀ f r, y.loops = f :: r → f.left = 0 → goes (.loopEnd e k) r (s.pcOf e k + 1)) ∧
     (∀ f r, y.loops = f :: r → f.left ≠ 0 → goes (.loopEnd e k) (⟨f.start, f.left - 1⟩ :: r) f.start))

/-- LW and SW at an aligned address below 16 KiB: LW reads the word that the four bytes there spell, SW stores GB there, little-endian.
LWN and SWN with their narrow request granted: a word of WM, AM or PM in the task's window is loaded, or merged into its 32-byte word, which an SWN
that has had its first grant by itself holds already. No instruction of another engine is writing the bytes read.
Completes, under each clause's conditions on state and operands: lw, sw, lwn, swn.
Clauses that rest on the model's own choices: assumptions 6, 7. -/
def Obligations.ScalarMemory : Prop :=
  (∀ (s : State) (k : Issue) (gd ga : BitVec 5) (imm : BitVec 24), s.canIssue .sc k = true →
     let t := k.tile.toNat
     let x := s.taken k
     let a := (x.gpr ga + imm.signExtend 32).toNat
     a < 16384 → a % 4 = 0 →
     (s.goodWords t 3 a 4 = true → s.noRace k .sc 3 a 4 = true →
       Issues (.lw k gd ga imm) s .sc k (x.setGpr gd (BitVec.ofNat 32 (memNat s.tileMem (tmAddr t 3 a) 4)))) ∧
     IssuesIn (.sw k gd ga imm) s .sc k ((s.setTile t x).tmStore t 3 a (leBytes 4 (x.gpr gd).toNat)) [] [(3, a, 4)] false (s.pcOf .sc k + 1)) ∧
  (∀ (s : State) (k : Issue) (gd ga : BitVec 5) (mem : BitVec 2) (imm : BitVec 24), s.canIssue .sc k = true → mem ≠ 3 →
     let t := k.tile.toNat
     let m := mem.toNat
     let x := s.taken k
     let a := (x.gpr ga + imm.signExtend 32).toNat
     let p := s.phys t m a
     let y := x.keepNarrow (s.beatAt (clusterOf t)) (x.narrow.filter (fun r => !(r.src = 1 && r.mem = m)))
     let old := memRead s.tileMem (tmAddr t m (p / 32 * 32)) 32
     a % 4 = 0 → a + 4 ≤ (s.taskWin t x.task.toNat m).2 → scalarGranted s t m true = true →
     (s.goodWords t m p 4 = true → s.noRace k .sc m p 4 = true →
       Issues (.lwn k gd ga mem imm true) s .sc k (y.setGpr gd (BitVec.ofNat 32 (memNat s.tileMem (tmAddr t m p) 4)))) ∧
     (x.swn = none → s.goodWords t m (p / 32 * 32) 32 = true → s.noRace k .sc m (p / 32 * 32) 32 = true →
       IssuesIn (.swn k gd ga mem imm true) s .sc k ((s.setTile t y).tmStore t m (p / 32 * 32)
         (old.take (p % 32) ++ leBytes 4 (x.gpr gd).toNat ++ old.drop (p % 32 + 4))) []
         [(m, p / 32 * 32, (old.take (p % 32) ++ leBytes 4 (x.gpr gd).toNat ++ old.drop (p % 32 + 4)).length)] false (s.pcOf .sc k + 1)) ∧
     (∀ w, x.swn = some w → IssuesIn (.swn k gd ga mem imm true) s .sc k ((s.setTile t { y with swn := none }).tmStore t w.mem w.off w.bytes) []
         [(w.mem, w.off, w.bytes.length)] false (s.pcOf .sc k + 1)))

/-- Conditions met at issue halt the tile, in the order of R53, and the instruction does nothing: a scalar access beyond 16 KiB (BOUND)
or misaligned (FORMAT), both at once with MORE, a shift by 32 or more (reserved bits), AMOV, AADD and APAR in the scalar slot, END of
another segment, a loop count from PARAM above 65,535.
Clauses that rest on the model's own choices: assumptions 6, 17. -/
def Obligations.IssueHalts : Prop :=
  ∀ (s : State) (k : Issue) (gd ga : BitVec 5) (imm : BitVec 24) (ad : BitVec 3) (w : Word) (p : BitVec 6),
    s.canIssue .sc k = true →
    let t := k.tile.toNat
    let x := s.taken k
    let a := (x.gpr ga + imm.signExtend 32).toNat
    let word := memNat s.tileMem (tmAddr t 4 (s.pcOf .sc k * 8)) 4
    let halts (i : Instr) (r info : Nat) (more : Bool) : Prop := HaltsWith i s .sc k r info more
    (∀ i, i = Instr.lw k gd ga imm ∨ i = Instr.sw k gd ga imm →
      (16384 ≤ a → halts i 0x03 (3 * 2 ^ 30 + x.task.toNat * 2 ^ 28 + a % 2 ^ 18) (decide (a % 4 ≠ 0))) ∧
      (a < 16384 → a % 4 ≠ 0 → halts i 0x0A word false)) ∧
    (32 ≤ imm.toNat → ∀ i, i = Instr.slli k gd ga imm ∨ i = Instr.srli k gd ga imm ∨ i = Instr.srai k gd ga imm → halts i 0x02 word false) ∧
    (∀ i, i = Instr.amov .sc k ad w ∨ i = Instr.aadd .sc k ad w ∨ i = Instr.apar .sc k ad p → halts i 0x01 word false) ∧
    (∀ seg, seg ≠ x.seg → halts (.endStream .sc k seg) 0x0E seg.toNat false) ∧
    (∀ body, 65535 < (x.active[p.toNat]'p.isLt).toNat →
      halts (.loopStart .sc k (.param p) body) 0x0B (p.toNat * 2 ^ 24 + (x.active[p.toNat]'p.isLt).toNat % 2 ^ 24) false)

/-- The common opcodes of every engine but the scalar core: address registers, SYNC after an outstanding instruction, END of the
running segment, loops.
A SYNC with nothing of its stream outstanding is complete at once: nothing is outstanding and its signal is added to the tally of
its own tile. Behind other instructions it waits for them, outstanding. It writes no register and no memory.
Completes, under each clause's conditions on state and operands: sync, endStream, amov, aadd, apar.
Clauses that rest on the model's own choices: assumptions 6, 7. -/
def Obligations.CommonOpcodes : Prop :=
  (∀ (s : State) (e : Engine) (k : Issue) (ad : BitVec 3) (imm : Word) (p : BitVec 6), s.canIssue e k = true →
     let x := s.taken k
     let y := x.eng e
     let upd (z : EngineState) : TileState := x.setEng e z
     (e ≠ .sc → Issues (.amov e k ad imm) s e k (upd { y with addr := y.addr.set ad.toNat imm ad.isLt }) ∧
       Issues (.aadd e k ad imm) s e k (upd { y with addr := y.addr.set ad.toNat (y.addr[ad.toNat]'ad.isLt + imm) ad.isLt }) ∧
       Issues (.apar e k ad p) s e k (upd { y with addr := y.addr.set ad.toNat (x.active[p.toNat]'p.isLt) ad.isLt })) ∧
     Issues (.endStream e k x.seg) s e k (upd { y with ended := true })) ∧
  (∀ (s : State) (e : Engine) (k : Issue), s.canIssue e k = true →
     let t := k.tile.toNat
     let before := ((s.tile t).eng e).inflight
     ∃ u, exec (.sync e k) s = .next u ∧ ((u.tile t).eng e).pc = s.pcOf e k + 1 ∧ (u.tile t).g = (s.tile t).g ∧ SameMem s u ∧
       (before = [] → ((u.tile t).eng e).inflight = [] ∧ ∀ i, (u.tile t).tally i = match k.signal with
         | some g => if i = g.tally then BitVec.ofNat 16 (min 0xFFFF (((s.taken k).tally i).toNat + g.inc.toNat)) else (s.taken k).tally i
         | none => (s.taken k).tally i) ∧
       (before ≠ [] → ((u.tile t).eng e).inflight = before ++ [⟨s.pcOf e k, k.signal, [], [], false, true⟩] ∧
         (u.tile t).tallies = (s.taken k).tallies))

/-- VLD, VST and VQST of an aligned range in the task's window, where no instruction of another engine is writing what VLD reads: VLD gives lane i the i-th FP32 word or BF16 half-word of memory (the latter in
the upper half), VST stores the lanes so, VQST stores the activation record of its format and counts its saturated elements.
Completes, under each clause's conditions on state and operands: vld, vst, vqst.
Clauses that rest on the model's own choices: assumptions 6, 7. -/
def Obligations.VectorMemory : Prop :=
  ∀ (s : State) (k : Issue) (v : BitVec 4) (fmt : BitVec 4) (m : MRef), s.canIssue .ve k = true → m.mem ≠ 3 →
    let t := k.tile.toNat
    let x := s.taken k
    let mem := m.mem.toNat
    let off := (x.eng .ve).mref m
    let o := s.phys t mem off
    let a := tmAddr t mem o
    let s1 := s.setTile t x
    let next := s.pcOf .ve k + 1
    (∀ n, (fmt = 8 ∧ n = 256 ∨ fmt = 7 ∧ n = 128) → s.fits t mem off n = true →
      (s.goodWords t mem o n = true → s.noRace k .ve mem o n = true →
        IssuesIn (.vld k v fmt m none) s .ve k (s.setTile t (x.setVreg v (Vector.ofFn (fun i =>
          if fmt = 8 then BitVec.ofNat 32 (memNat s.tileMem (a + 4 * i.val) 4)
          else BitVec.ofNat 32 (memNat s.tileMem (a + 2 * i.val) 2 * 65536))))) (wideOf [(mem, off, n)]) [(9, v.toNat, 256)] false next) ∧
      IssuesIn (.vst k v fmt m none) s .ve k (s1.tmStore t mem o ((x.vreg v).toList.flatMap (fun w =>
        if fmt = 8 then leBytes 4 w.toNat else leBytes 2 ((toBf16 (decF32 w)).toNat / 65536)))) (wideOf [(mem, off, n)]) [(mem, o, n)] false next) ∧
    (fmt.toNat ≤ 5 → s.fits t mem off (recBytes fmt.toNat) = true →
      IssuesIn (.vqst k v fmt m none) s .ve k ((s1.bump (ariReg (clusterOf t) 0x14) (quantRecord fmt.toNat (x.vreg v).toList).2).tmStore t mem o
        (quantRecord fmt.toNat (x.vreg v).toList).1) (wideOf [(mem, off, recBytes fmt.toNat)])
        [(mem, o, (quantRecord fmt.toNat (x.vreg v).toList).1.length)] false next)

/-- The lane operations: each lane of VD is the exact result of its operands rounded once to FP32, or once to BF16 where PR is 1; VMAX and VMIN
choose an operand; VSFN applies the special function; nothing but VD changes.
Reductions put the tree's result in lane 0 and zero in the other lanes; VBCST and VMOVI give every lane one value.
Completes, under each clause's conditions on state and operands: vadd, vsub, vmul, vfma, vmax, vmin, vsfn, vreds, vredm, vbcst, vmovi.
Clauses that rest on the model's own choices: assumptions 6, 7. -/
def Obligations.VectorLanes : Prop :=
  (∀ (s : State) (k : Issue) (vd va vb vc fn : BitVec 4) (pr : Bool), s.canIssue .ve k = true →
     let x := s.taken k
     let lanes (f : Fin 64 → Word) : TileState := x.setVreg vd (Vector.ofFn f)
     let a (j : Fin 64) := decF32 (x.vreg va)[j]
     let b (j : Fin 64) := decF32 (x.vreg vb)[j]
     let c (j : Fin 64) := decF32 (x.vreg vc)[j]
     Issues (.vadd k vd va vb pr) s .ve k (lanes (fun j => roundTo pr ((a j).add (b j)))) ∧
     Issues (.vsub k vd va vb pr) s .ve k (lanes (fun j => roundTo pr ((a j).add (b j).neg))) ∧
     Issues (.vmul k vd va vb pr) s .ve k (lanes (fun j => roundTo pr ((a j).mul (b j)))) ∧
     Issues (.vfma k vd va vb vc pr) s .ve k (lanes (fun j => roundTo pr (((a j).mul (b j)).add (c j)))) ∧
     Issues (.vmax k vd va vb pr) s .ve k (lanes (fun j => prRound pr (f32max (x.vreg va)[j] (x.vreg vb)[j]))) ∧
     Issues (.vmin k vd va vb pr) s .ve k (lanes (fun j => prRound pr (f32min (x.vreg va)[j] (x.vreg vb)[j]))) ∧
     (fn.toNat < 6 → Issues (.vsfn k vd va fn pr) s .ve k (lanes (fun j => prRound pr (specialFn fn.toNat (x.vreg va)[j])))) ∧
     (6 ≤ fn.toNat → HaltsWith (.vsfn k vd va fn pr) s .ve k 0x0A (memNat s.tileMem (tmAddr k.tile.toNat 6 (s.pcOf .ve k * 8)) 4) false)) ∧
  (∀ (s : State) (k : Issue) (vd va : BitVec 4) (pr : Bool) (lane : BitVec 6) (pat : Word), s.canIssue .ve k = true →
     let x := s.taken k
     let lanes (f : Fin 64 → Word) : TileState := x.setVreg vd (Vector.ofFn f)
     let only (w : Word) : TileState := lanes (fun j => if j = 0 then w else 0)
     Issues (.vreds k vd va pr) s .ve k (only (prRound pr (treeFold f32add 6 (x.vreg va).toList))) ∧
     Issues (.vredm k vd va pr) s .ve k (only (prRound pr (treeFold f32max 6 (x.vreg va).toList))) ∧
     Issues (.vbcst k vd va lane) s .ve k (lanes (fun _ => (x.vreg va)[lane.toNat]'lane.isLt)) ∧
     Issues (.vmovi k vd pat) s .ve k (lanes (fun _ => pat)))

/-- The Whisk: WCOPY copies LEN units, WFILL writes the 16-bit pattern little-endian over LEN units, WTRN transposes a 32 × 32 matrix; source and
destination lie in the task's windows and do not meet, and no instruction of another engine is writing the source.
Completes, under each clause's conditions on state and operands: wcopy, wfill, wtrn.
Clauses that rest on the model's own choices: assumptions 6, 7. -/
def Obligations.WhiskMoves : Prop :=
  ∀ (s : State) (k : Issue) (dst src : MRef) (len : BitVec 8) (pat : BitVec 16) (ew : BitVec 2), s.canIssue .whisk k = true →
    let t := k.tile.toNat
    let x := s.taken k
    let y := x.eng .whisk
    let dm := dst.mem.toNat
    let sm := src.mem.toNat
    let d := s.phys t dm (y.mref dst)
    let o := s.phys t sm (y.mref src)
    let store (n : Nat) (bs : List Byte) (rs : List (Nat × Nat × Nat)) (i : Instr) : Prop :=
      s.fits t dm (y.mref dst) n = true →
      IssuesIn i s .whisk k ((s.setTile t x).tmStore t dm d bs) (wideOf ((dm, y.mref dst, n) :: rs)) [(dm, d, bs.length)] false (s.pcOf .whisk k + 1)
    let read (n : Nat) : List Byte := memRead s.tileMem (tmAddr t sm o) n
    let from_ (n : Nat) (i : Instr) (bs : List Byte) : Prop :=
      s.fits t sm (y.mref src) n = true → s.goodWords t sm o n = true → s.noRace k .whisk sm o n = true → rangesMeet dm d n sm o n = false →
      store n bs [(sm, y.mref src, n)] i
    (len ≠ 0 → from_ (32 * len.toNat) (.wcopy k dst src len none) (read (32 * len.toNat)) ∧
      store (32 * len.toNat) (List.flatten (List.replicate (16 * len.toNat) (leBytes 2 pat.toNat))) [] (.wfill k dst pat len none)) ∧
    (ew ≠ 3 → let w := 2 ^ ew.toNat
      from_ (1024 * w) (.wtrn k dst src ew none) ((fromTo 0 32).flatMap (fun i => (fromTo 0 32).flatMap (fun j =>
        ((read (1024 * w)).drop ((j * 32 + i) * w)).take w))))

/-- TCFG sets the configuration of a permitted pair; TZERO writes +0.0 over MR × 32 values of PM. Without a configuration TZERO and TMMA halt with
FORMAT.
TMMA within its windows, budget and the Kettle's room, which meets no uncorrectable word and no stop of its own: it writes the MR × 32 results row by
row to PM, counts what it met, makes the tile a member of the gate's window and takes a power token.
Completes, under each clause's conditions on state and operands: tcfg, tmma, tzero.
Clauses that rest on the model's own choices: assumptions 6, 7, 20. -/
def Obligations.TensorEngine : Prop :=
  (∀ (s : State) (k : Issue) (fw fa : BitVec 4) (kb : BitVec 8) (mr : BitVec 7) (w a p : TRef) (acc : Bool), s.canIssue .te k = true →
     let t := k.tile.toNat
     let x := s.taken k
     let off := (x.eng .te).tref p
     let word := memNat s.tileMem (tmAddr t 5 (s.pcOf .te k * 8)) 4
     (((fw.toNat ≤ 4 ∧ fa.toNat ≤ 4) ∨ (fw = 5 ∧ fa = 5) ∨ (fw = 6 ∧ fa.toNat ≤ 1) ∨ (fw = 7 ∧ fa = 7)) ∧ kb ≠ 0 ∧ mr ≠ 0 ∧ mr.toNat ≤ 64 →
       Issues (.tcfg k fw fa kb mr) s .te k { x with te := some ⟨fw.toNat, fa.toNat, kb.toNat, mr.toNat⟩ }) ∧
     (∀ cfg, x.te = some cfg → s.fits t 2 off (cfg.mr * 128) = true →
       IssuesIn (.tzero k p none) s .te k ((s.setTile t x).tmStore t 2 (s.phys t 2 off) (List.replicate (cfg.mr * 128) 0))
         (wideOf [(2, off, cfg.mr * 128)]) [(2, s.phys t 2 off, cfg.mr * 128)] false (s.pcOf .te k + 1)) ∧
     (x.te = none → HaltsWith (.tzero k p none) s .te k 0x0A word false ∧
       (kettleHold (teUnit t) s = none → budgetCond (s.setTile t x) t (gateNo k) = [] →
         HaltsWith (.tmma k acc w a p none) s .te k 0x0A word false))) ∧
  (∀ (s : State) (k : Issue) (acc : Bool) (wref aref pref : TRef) (cfg : TeCfg), s.canIssue .te k = true →
     let t := k.tile.toNat
     let x := s.taken k
     let y := x.eng .te
     let w := y.tref wref
     let a := y.tref aref
     let p := y.tref pref
     let g := gateNo k
     let q := (s.setTile t x).joinWindow t g
     let m := q.mmaRun k cfg acc w a p
     let bs := m.2.rows.flatMap (fun row => row.flatMap (fun v => leBytes 4 v.toNat))
     x.te = some cfg → kettleHold (teUnit t) s = none → mmaConds (s.setTile t x) t g cfg w a p = [] → m.2.stop = none →
     IssuesIn (.tmma k acc wref aref pref none) s .te k (((m.1.mmaCounts t m.2).startUnit (teUnit t)).tmStore t 2 (s.phys t 2 p) bs)
       (mmaWide cfg w a p) [(2, s.phys t 2 p, bs.length)] true (s.pcOf .te k + 1))

/-- The network engine and CSEND inject one packet of the credits held: NSEND the units of its source under the descriptor's header, NTALLY a tally
packet, CSEND the packet image in scalar data memory with its source fields overwritten.
Completes, under each clause's conditions on state and operands: csend, nsend, ntally.
Clauses that rest on the model's own choices: assumptions 6, 7. -/
def Obligations.Injection : Prop :=
  ∀ (s : State) (k : Issue) (fd : BitVec 6) (last : Bool) (len : BitVec 5) (dareg : BitVec 3) (src : MRef) (d : FlowDesc)
      (dtile : TileId) (tally : BitVec 5) (inc : BitVec 8) (ga : BitVec 5),
    let t := k.tile.toNat
    let x := s.taken k
    let s1 := s.setTile t x
    let y := x.eng .ne
    let mem := src.mem.toNat
    let a := y.mref src
    let n := len.toNat
    let da := d.dbase.toNat + (y.areg dareg).toNat
    let o := s.phys t mem a
    let epoch := (s.cluster (clusterOf t)).epoch.toNat
    (s.canIssue .ne k = true → n + 1 ≤ s.injCredit t 0 → flowDesc x fd = some d → nsendConds s1 t (gateNo k) d n a mem da = [] →
      s.goodWords t 8 (descAt x fd) 16 = true → s.goodWords t mem o (32 * n) = true → s.noRace k .ne mem o (32 * n) = true →
      IssuesIn (.nsend k fd last len dareg src none) s .ne k (s1.inject t (nsendHdr t epoch d last n da)
        ((fromTo 0 n).map (fun i => bytesFlit (memRead s.tileMem (tmAddr t mem (o + 32 * i)) 32)))) (wideOf [(mem, a, 32 * n)]) [(10, 0, 0)] false
        (s.pcOf .ne k + 1)) ∧
    (s.canIssue .ne k = true → 1 ≤ s.injCredit t 1 → s.fenceMap.contains dtile.toNat = false →
      IssuesIn (.ntally k dtile tally inc) s .ne k (s1.inject t (ntallyHdr t epoch dtile.toNat tally.toNat inc.toNat) []) [] [] false
        (s.pcOf .ne k + 1)) ∧
    (let g := (x.gpr ga).toNat
     let img := bytesFlit (memRead s.tileMem (tmAddr t 3 g) 32)
     let l := hLen img
     s.canIssue .sc k = true → g % 32 = 0 → hClass img = 2 → l ≤ 4 → g + 32 + 32 * l ≤ 16384 → l + 1 ≤ s.injCredit t 2 →
      s.goodWords t 3 g (32 + 32 * l) = true → s.noRace k .sc 3 g (32 + 32 * l) = true →
      IssuesIn (.csend k ga) s .sc k (s1.inject t
        (BitVec.ofNat 256 (withField (withField (withField img.toNat 45 3 1) 48 12 t) 4 2 epoch))
        ((fromTo 0 l).map (fun i => bytesFlit (memRead s.tileMem (tmAddr t 3 (g + 32 + 32 * i)) 32)))) [] [] false (s.pcOf .sc k + 1))

/-- One addition to a tally saturates at 0xFFFF; above it a RUNNING tile halts with TALLY_OVERFLOW, and a tile in another state raises no
further halt. No other tally changes.
The i-th outstanding instruction of an engine completes: it leaves the outstanding ones and its signal is added; a SIGNAL on its own does
so only as the oldest. No register and no memory changes.
The watchdog: an instruction that stands at its engine with an unmet tally wait or without its credits L beats after B0 halts the tile with WAIT_TIMEOUT,
naming the first wait that is unmet, else the first output short of credits; with L = 0, before B0 + L, or with none of them unmet, nothing happens.
Completes, under each clause's conditions on state and operands: instructionComplete, waitTimeout.
Clauses that rest on the model's own choices: assumption 7. -/
def Obligations.Tallies : Prop :=
  (∀ (s : State) (t : Nat) (i : BitVec 5) (inc signaller : Nat),
     let x := s.tile t
     let v := (x.tally i).toNat + inc
     let u := s.addTally t i inc signaller
     (∀ j, (u.tile t).tally j = if j = i then BitVec.ofNat 16 (min v 0xFFFF) else x.tally j) ∧
     (v ≤ 0xFFFF ∨ x.st ≠ .running → (u.tile t).st = x.st ∧ (u.tile t).halt = x.halt) ∧
     (0xFFFF < v → x.st = .running → (u.tile t).st = .halted ∧
       (u.tile t).halt = some ⟨6, 0x05, 0, 0, s.beatAt (clusterOf t), i.toNat * 2 ^ 16 + signaller⟩) ∧
     ∀ m, m ≠ t → u.tile m = s.tile m) ∧
  (∀ (s : State) (tid : TileId) (e : Engine) (i : Nat) (f : InFlight),
     let t := tid.toNat
     let x := s.tile t
     (x.eng e).inflight[i]? = some f → x.st ≠ .isolated → s.unlocked.contains (clusterOf t) = false → (f.alone = true → i = 0) →
     ∃ u, exec (.instructionComplete tid e i) s = .next u ∧
       ((u.tile t).eng e).inflight = (x.eng e).inflight.eraseIdx i ∧ ((u.tile t).eng e).pc = (x.eng e).pc ∧
       (∀ j, (u.tile t).tally j = match f.signal with
         | some g => if j = g.tally then BitVec.ofNat 16 (min ((x.tally j).toNat + g.inc.toNat) 0xFFFF) else x.tally j
         | none => x.tally j) ∧
       (u.tile t).g = x.g ∧ (u.tile t).v = x.v ∧ (u.tile t).active = x.active ∧ SameMem s u ∧ u.regs = s.regs ∧
       ∀ m, m ≠ t → u.tile m = s.tile m) ∧
  (∀ (s : State) (tid : TileId) (e : Engine) (h : Head),
     let t := tid.toNat
     let x := s.tile t
     let limit := s.fld (tilReg t 8) 0 20
     let pc := (x.eng e).pc
     let halted (info : Nat) : Prop := exec (.waitTimeout tid e) s = .next (s.setTile t { x with
       st := .halted, haltReported := false, halt := some ⟨engCode e, 0x06, pc, 0, s.beatAt (clusterOf t), info⟩ })
     let waitsMet : Prop := ∀ w ∈ h.waits, w.2 ≤ (x.tally w.1).toNat
     x.st = .running → (x.eng e).head = some h →
     (limit = 0 ∨ s.beatAt (clusterOf t) < h.b0 + limit ∨ (waitsMet ∧ ∀ c ∈ h.credits, c.2 ≤ s.creditsHeld t c.1) →
       exec (.waitTimeout tid e) s = .next s) ∧
     (limit ≠ 0 → h.b0 + limit ≤ s.beatAt (clusterOf t) →
       (∀ i need, h.waits.find? (fun w => decide ((x.tally w.1).toNat < w.2)) = some (i, need) → halted (i.toNat * 2 ^ 16 + (x.tally i).toNat)) ∧
       (waitsMet → ∀ o need, h.credits.find? (fun c => decide (s.creditsHeld t c.1 < c.2)) = some (o, need) →
         halted (2 ^ 31 + o * 2 ^ 16 + s.creditsHeld t o))))

/-- REPLAY_START of the next replay ordered for a tile, whose order every port of its lists holds: an IDLE tile runs it with every register zero, the committed PARAM values and each engine
at its entry PC; a RUNNING one holds it; a HALTED or ISOLATED one drops it.
A replay ends on a RUNNING tile once every engine has issued END and nothing is outstanding: without a pending start the tile is IDLE, its
registers and tallies kept. Before that the event changes nothing.
Completes, under each clause's conditions on state and operands: replayStart, replayDone.
Clauses that rest on the model's own choices: assumption 28. -/
def Obligations.Replays : Prop :=
  (∀ (s : State) (tid : TileId) (slot : BitVec 3) (count : BitVec 64) (q : ReplayRun),
     let t := tid.toNat
     let x := s.tile t
     s.replays.find? (fun q => q.slot = slot ∧ q.tiles.contains t ∧ count.toNat = q.first + smGet q.next t 0) = some q →
     q.stopped = false → smGet q.next t 0 < q.n → s.orderedAll q (smGet q.next t 0) = true →
     (x.st = .idle → ∀ info, x.slots[slot.toNat]'slot.isLt = some info → (∀ e < 5, (info.streams.getD e (0, 0)).2 ≠ 0) →
       s.peerDown t q.seg = none →
       ∃ u, exec (.replayStart tid slot count) s = .next u ∧ (u.tile t).st = .running ∧ (u.tile t).seg = q.seg ∧
         (u.tile t).count = count ∧ (u.tile t).slot = slot ∧ (u.tile t).pendStart = none ∧ (u.tile t).te = none ∧
         (∀ j, (u.tile t).gpr j = 0) ∧ (∀ j : BitVec 4, (u.tile t).vreg j = Vector.replicate 64 0) ∧
         (u.tile t).active = (if x.commitPending then x.pending else x.active) ∧ (u.tile t).commitPending = false ∧
         (u.tile t).tallies = x.tallies ∧
         (∀ e, ((u.tile t).eng e).pc = (info.streams.getD (engCode e) (0, 0)).1 ∧ ((u.tile t).eng e).ended = false ∧
           ((u.tile t).eng e).addr = Vector.replicate 8 0 ∧ ((u.tile t).eng e).inflight = []) ∧ SameMem s u) ∧
     (x.st = .running → x.pendStart = none →
       ∃ u, exec (.replayStart tid slot count) s = .next u ∧ u.tile t = { x with pendStart := some (slot, count) } ∧ SameMem s u) ∧
     (x.st = .halted ∨ x.st = .isolated → ∃ u, exec (.replayStart tid slot count) s = .next u ∧ u.tile t = x ∧ SameMem s u)) ∧
  (∀ (s : State) (tid : TileId),
     let t := tid.toNat
     let x := s.tile t
     (x.st = .running → (∀ e, (x.eng e).ended = true ∧ (x.eng e).inflight = []) → x.pendStart = none →
       ∃ u, exec (.replayDone tid) s = .next u ∧ u.tile t = { x with st := .idle } ∧ u.tileMem = s.tileMem) ∧
     ((∃ e, (x.eng e).ended = false ∨ (x.eng e).inflight ≠ []) → exec (.replayDone tid) s = .next s))

/-- A halt record is reported once: the controller writes the bundle index into it and sets the tile's bit of its halt map, and one TILE_HALT event
waits for the ring; the record's other fields stay.
A halted tile keeps its first record: a further condition sets MORE and changes nothing else; an isolated tile takes none.
Completes, under each clause's conditions on state and operands: tileHaltReport.
Clauses that rest on the model's own choices: assumption 3. -/
def Obligations.Halts : Prop :=
  (∀ (s : State) (tid : TileId) (h : HaltRec),
     let t := tid.toNat
     let b := (s.bundleIndex t (s.tile t).seg h).2
     (s.tile t).halt = some h → (s.tile t).haltReported = false →
     (5 ≤ h.engine → b = 0xFFFFFF) ∧
     ∃ u, exec (.tileHaltReport tid) s = .next u ∧ (u.tile t).halt = some { h with bundle := b } ∧ (u.tile t).haltReported = true ∧
       (u.tile t).st = (s.tile t).st ∧ (localIdx t) ∈ (u.cluster (clusterOf t)).haltMap ∧
       (⟨1, s.fld (mgtReg 0xA000) 0 20, h.beat, haltDetail t b h, false⟩ : Event) ∈ u.events) ∧
  (∀ (s : State) (t engine reason pc info : Nat),
     ((s.tile t).st = .halted → s.halt t engine reason pc info = s.setTile t { s.tile t with more := true }) ∧
     ((s.tile t).st = .isolated → s.halt t engine reason pc info = s) ∧
     ((s.tile t).st = .running ∨ (s.tile t).st = .idle →
       ((s.halt t engine reason pc info).tile t).halt = some ⟨engine, reason, pc, 0, s.beatAt (clusterOf t), info⟩ ∧
       ((s.halt t engine reason pc info).tile t).st = .halted ∧ ((s.halt t engine reason pc info).tile t).g = (s.tile t).g))

/-- The narrow port of a memory with one request waiting: the scalar core's is granted; the receive side's writes its flit, the last of a packet with its
header signal; a correction write-back makes its word good again. A request that has waited STARVE beats becomes urgent and is counted.
A scrub read of a good word whose narrow port and bank are free moves to the next of the 7,936 words, counting a pass at the last, and changes nothing else; it
comes at most SCRUB_RATE times in 16 beats.
Zero fill: in any state but RUNNING it starts; at its end every byte of the tile's memories reads 0, no word of them is bad, every slot is empty, and
no other tile's bytes change.
CLEAR in HALTED or IDLE: the tile is IDLE without a record, engines, tallies and registers are at reset, scratchpads, PARAM banks and credit
counts are kept; in another state it is ignored.
Completes, under each clause's conditions on state and operands: narrowAccess, narrowStarve, correctionWriteback, tileScrubRead, zeroFill, zeroFillComplete, tileClear.
Clauses that rest on the model's own choices: assumptions 3, 82. -/
def Obligations.TileUpkeep : Prop :=
  (∀ (s : State) (tid : TileId) (mem : BitVec 4) (r : NarrowReq),
     let t := tid.toNat
     let x := s.tile t
     let starve := s.fld (tilReg t 0x208) 0 4
     let w := tmAddr t r.mem r.off / 32
     let served := s.setTile t { x with narrow := [] }
     x.narrow = [r] → r.mem = mem.toNat → r.granted = false → r.src < 3 → x.zbusy = false → x.st ≠ .isolated →
     (r.src = 1 → exec (.narrowAccess tid mem []) s = .next (s.setTile t { x with narrow := [{ r with granted := true }] })) ∧
     (∀ d, r.src = 0 → r.data = some d → exec (.narrowAccess tid mem []) s = .next (match r.last with
       | some h => (served.writeFlit t r.flow r.mem r.off d).headerSignal t h
       | none => served.writeFlit t r.flow r.mem r.off d)) ∧
     (r.src = 2 → r.writeback = true → smGet s.wordErr w true = false →
       exec (.narrowAccess tid mem []) s = .next { served with wordErr := smDel s.wordErr w } ∧
       exec (.correctionWriteback tid) s = .next { served with wordErr := smDel s.wordErr w }) ∧
     (r.urgent = false → starve ≠ 0 → r.since + starve ≤ s.beatAt (clusterOf t) →
       exec (.narrowStarve tid mem) s = .next ((s.setTile t { x with narrow := [{ r with urgent := true }] }).bumpF (tilReg t 0x20C) 0 16 1))) ∧
  (∀ (s : State) (tid : TileId),
     let t := tid.toNat
     let x := s.tile t
     let span := s.tm.beats / 16
     let done := if x.scrubSpan = span then x.scrubDone else 0
     let moved : TileState := { x with scrubSpan := span, scrubDone := done + 1 }
     x.st ≠ .isolated → x.zbusy = false → s.tileOk t = true → s.fld (tilReg t 0x208) 31 1 = 1 → done < s.fld (tilReg t 0x208) 16 8 →
     (∀ r ∈ x.narrow, r.src = 2 → r.writeback = true) → narrowFree x (scrubWord x.scrubPos).1 2 = true →
     s.goodWords t (scrubWord x.scrubPos).1 (scrubWord x.scrubPos).2 32 = true →
     exec (.tileScrubRead tid false) s = .next (s.setTile t (if x.scrubPos + 1 = 7936 then
       { moved with scrubPos := 0, scrubPasses := min (x.scrubPasses + 1) 0xFFFF } else { moved with scrubPos := x.scrubPos + 1 }))) ∧
  (∀ (s : State) (tid : TileId),
     let t := tid.toNat
     let x := s.tile t
     s.tileOk t = true →
     (x.st ≠ .running → s.writable 1 (clusterOf t) = true → exec (.zeroFill tid) s = .next (s.setTile t { x with zbusy := true })) ∧
     (x.zbusy = true → ∃ u, exec (.zeroFillComplete tid) s = .next u ∧
       (∀ a, memGet u.tileMem a = if tmAddr t 0 0 ≤ a ∧ a < tmAddr (t + 1) 0 0 then 0 else memGet s.tileMem a) ∧
       (u.tile t).zbusy = false ∧ (∀ i : BitVec 3, (u.tile t).slots[i.toNat]'i.isLt = none) ∧
       (∀ p ∈ u.wordErr, ¬ (tmAddr t 0 0 ≤ p.1 * 32 ∧ p.1 * 32 < tmAddr (t + 1) 0 0)) ∧
       (u.tile t).g = x.g ∧ u.devMem = s.devMem ∧ u.hostMem = s.hostMem)) ∧
  (∀ (s : State) (tid : TileId),
     let t := tid.toNat
     let x := s.tile t
     s.tileOk t = true → s.writable 1 (clusterOf t) = true →
     (x.st = .halted ∨ x.st = .idle → ∃ u, exec (.tileClear tid) s = .next u ∧ (u.tile t).st = .idle ∧ (u.tile t).halt = none ∧
       (u.tile t).pendStart = none ∧ (u.tile t).more = false ∧ (u.tile t).drops = 0 ∧
       (∀ i, (u.tile t).tally i = 0) ∧ (∀ i, (u.tile t).gpr i = 0) ∧ (∀ e, (u.tile t).eng e = EngineState.reset) ∧
       (u.tile t).active = x.active ∧ (u.tile t).shadow = x.shadow ∧ (u.tile t).pending = x.pending ∧
       (u.tile t).injCredit = x.injCredit ∧ u.routers = s.routers ∧ SameMem s u) ∧
     (x.st = .running ∨ x.st = .isolated → exec (.tileClear tid) s = .next s))

/-- The task registers accept writes only while the tile is IDLE or HALTED; a write in any other state is dropped and sets WDROP. So with a write through
BAR0 after full ready while the tile's cluster is in RUN, and with an order of the tile's cluster controller, which writes both registers of a task; an
isolated tile's Colander discards the order and counts it.
Completes, under each clause's conditions on state and operands: taskRegisterWrite, loaderOrder. -/
def Obligations.TaskRegistersLocked : Prop :=
  ∀ (s : State) (tid : TileId) (task : BitVec 2) (isB : Bool) (value ra rb : Word) (op : BitVec 4) (len : BitVec 5),
    let t := tid.toNat
    let a (b : Bool) := tilReg t ((if b then 0x224 else 0x220) + 8 * task.toNat)
    let order := Instr.loaderOrder tid (.controller op len) (.task task ra rb)
    s.tileOk t = true →
    (s.writable 1 (clusterOf t) = true →
      ((s.tile t).st = .idle ∨ (s.tile t).st = .halted →
        exec (.taskRegisterWrite tid task isB value) s = .next (s.setReg (a isB) (if isB then value &&& 0xFFFF else value))) ∧
      ((s.tile t).st = .running ∨ (s.tile t).st = .isolated →
        exec (.taskRegisterWrite tid task isB value) s = .next (s.setBit (tilReg t 0x20C) 30))) ∧
    (len.toNat ≤ 4 → (s.tile t).zbusy = false →
      ((s.tile t).st = .idle ∨ (s.tile t).st = .halted → exec order s = .next ((s.setReg (a false) ra).setReg (a true) (rb &&& 0xFFFF))) ∧
      ((s.tile t).st = .running → exec order s = .next ((s.setBit (tilReg t 0x20C) 30).setBit (tilReg t 0x20C) 30)) ∧
      ((s.tile t).st = .isolated → exec order s = .next (s.bump (rtrReg t 8) 1)))

/-- A flit moves by a clean link: the flit an output serves next, a PLAN header whose flow owns its port among them, leaves its input, takes a credit and
joins the neighbour's input; a PLAN header that the output does not serve next stays. An output with nothing to serve changes no buffer.
A PLAN packet that no window here names, and a packet that cannot be routed, are discarded and halt the router's tile with ROUTE_CONFLICT; a packet of
a later owner waits.
A credit comes back to the output that is short of one, but for flits that the terminal behind it still holds, or to the tile's injection; one
above the allotment halts the tile with CREDIT_OVERFLOW and is not applied.
Route tables, after full ready: a drained bank takes a table write, a bank that is not refuses a change and sets the refusal bit; a bank whose tag is not the current
epoch drains once its interval has passed.
Completes, under each clause's conditions on state and operands: planPacketAtPort, flitForward, creditReturn, drainIntervalExpiry, routeTableWrite.
Clauses that rest on the model's own choices: assumptions 3, 26. -/
def Obligations.Flits : Prop :=
  (∀ (s : State) (tid : TileId) (inp out : RPort) (n cls : Nat),
     let t := tid.toNat
     (∀ f, s.planHead t inp out = some f → s.outVerdict t out f.bits = .forward →
       (s.served t out = some (inp, 0) → s.linkClear t n out inp 0 = true →
         ∃ u, exec (.planPacketAtPort tid inp out .clean .clean) s = .next u ∧ FlitMoved s u t n out inp 0) ∧
       (s.served t out ≠ some (inp, 0) → exec (.planPacketAtPort tid inp out .clean .clean) s = .next s)) ∧
     (s.unroutable t = none → s.served t out = some (inp, cls) → s.linkClear t n out inp cls = true →
       (s.skillet (clusterOf t)).sending = [] →
       ∃ u, exec (.flitForward tid out .clean .clean) s = .next u ∧ FlitMoved s u t n out inp cls) ∧
     (s.unroutable t = none → s.served t out = none →
       ∃ u, exec (.flitForward tid out .clean .clean) s = .next u ∧ (u.router t).q = (s.router t).q ∧ u.tiles = s.tiles)) ∧
  (∀ (s : State) (tid : TileId) (inp out : RPort) (link came : LinkErr) (f : Flit),
     let t := tid.toNat
     (s.tile t).st = .running →
     (s.planHead t inp out = some f → s.outVerdict t out f.bits = .conflict → smFind (s.router t).cur (4 * rportCode inp) = none →
       ∃ u, exec (.planPacketAtPort tid inp out link came) s = .next u ∧
         TileHalted s u t 5 0x08 0 (rportCode out * 2 ^ 24 + rportCode inp * 2 ^ 20 + hFlow f.bits) ∧
         ((u.router t).queue inp 0).length < ((s.router t).queue inp 0).length) ∧
     (s.planHead t inp out = some f → s.outVerdict t out f.bits = .wait → exec (.planPacketAtPort tid inp out link came) s = .next s) ∧
     (∀ i c p flow, s.unroutable t = some (i, c, p, flow) →
       ∃ u, exec (.flitForward tid out link came) s = .next u ∧ TileHalted s u t 5 0x08 0 (p * 2 ^ 24 + rportCode i * 2 ^ 20 + flow))) ∧
  (∀ (s : State) (tid : TileId) (p : RPort) (cls : MClass),
     let t := tid.toNat
     let c := mclassCode cls
     let key := 4 * rportCode p + c
     let used := smGet (s.router t).used key 0
     (0 < used → used ≤ s.heldAtEdge t p c → exec (.creditReturn tid (.output p) cls) s = .next s) ∧
     (s.heldAtEdge t p c < used → ∃ u, exec (.creditReturn tid (.output p) cls) s = .next u ∧ smGet (u.router t).used key 0 = used - 1 ∧ u.tiles = s.tiles) ∧
     (used = 0 → (s.tile t).st = .running → ∃ u, exec (.creditReturn tid (.output p) cls) s = .next u ∧
       TileHalted s u t 5 0x0F 0 ((4 * rportCode p + c) * 2 ^ 16) ∧ u.routers = s.routers) ∧
     (s.injCredit t c < allotment c → ∃ u, exec (.creditReturn tid .inject cls) s = .next u ∧ u.injCredit t c = s.injCredit t c + 1 ∧
       (∀ d, d ≠ c → u.injCredit t d = s.injCredit t d) ∧ (u.tile t).g = (s.tile t).g)) ∧
  (∀ (s : State) (tid : TileId) (b : BitVec 1) (k : BitVec 8) (value : Word),
     let t := tid.toNat
     let r := s.router t
     let bank := r.bank b.toNat
     let off : BitVec 8 := (if b = 0 then 0x70 else 0xB8) + 4 * k
     let e1 := (bank.entries.setIfInBounds (2 * k.toNat) (entryWord (2 * k.toNat) value.toNat)).setIfInBounds (2 * k.toNat + 1)
       (entryWord (2 * k.toNat + 1) (value.toNat / 65536))
     (s.tileOk t = true → s.reaches = true → k.toNat < 18 → s.bankDrained t bank = true → exec (.routeTableWrite tid off value) s =
       .next (s.setRouter t (r.setBank b.toNat { bank with entries := e1 }))) ∧
     (s.tileOk t = true → s.reaches = true → k.toNat < 18 → s.bankDrained t bank = false →
       exec (.routeTableWrite tid off value) s = .next (if e1 = bank.entries then s else s.setBit (rtrReg t 0) 28)) ∧
     (s.tileOk t = true → bank.valid = true → bank.tag ≠ (s.cluster (clusterOf t)).epoch → s.drainElapsed t bank.tag.toNat = true →
       exec (.drainIntervalExpiry (.router tid b)) s = .next (s.setRouter t (r.setBank b.toNat { bank with drained := true }))) ∧
     (bank.tag = (s.cluster (clusterOf t)).epoch ∨ s.drainElapsed t bank.tag.toNat = false →
       exec (.drainIntervalExpiry (.router tid b)) s = .next s))

/-- Ownership of a port passes to the next entry once the END packet has left and the entry's gate has begun, and not before.
A port takes the order of a replay: a port still serving one holds the order behind it; one that has done takes up window 0 of the segment's list.
Completes, under each clause's conditions on state and operands: ownershipPass, replayOrderAtPort.
Clauses that rest on the model's own choices: assumptions 3, 29. -/
def Obligations.Ownership : Prop :=
  (∀ (s : State) (p : OwnPort) (k : Nat) (e : OwnEntry) (r : ReplayRec),
     let o := s.port p
     o.st = .owned k ∧ o.endLeft = true ∨ o.st = .idle k → (s.curList p)[k + 1]? = some e → o.cur = some r →
     (s.gateOpenAt (portCluster p) (s.portGate p r e.gate.toNat) = true → ∃ u, exec (.ownershipPass p) s = .next u ∧
       (u.port p).st = .owned (k + 1) ∧ (u.port p).endLeft = false ∧ (u.port p).cur = o.cur ∧ (u.port p).later = o.later ∧
       u.tiles = s.tiles ∧ SameMem s u) ∧
     (s.gateOpenAt (portCluster p) (s.portGate p r e.gate.toNat) = false → exec (.ownershipPass p) s = .next s)) ∧
  (∀ (s : State) (p : OwnPort) (seg : BitVec 16) (count : BitVec 64) (q : ReplayRun) (k : Nat),
     let o := s.port p
     let r : ReplayRec := { seg := seg, slot := q.slot, count := count, base := q.baseOf k }
     s.findReplay seg count = some (q, k) → smGet q.next (4096 + ownKey p) 0 = k →
     (o.st ≠ .done → ∃ u, exec (.replayOrderAtPort p seg count) s = .next u ∧ (u.port p).st = o.st ∧ (u.port p).cur = o.cur ∧
       (u.port p).later = o.later ++ [r] ∧ u.tiles = s.tiles ∧ SameMem s u) ∧
     (o.st = .done → o.later = [] → s.listFor p r ≠ [] → ∃ u, exec (.replayOrderAtPort p seg count) s = .next u ∧
       (u.port p).st = .owned 0 ∧ (u.port p).cur = some r ∧ (u.port p).later = [] ∧ u.tiles = s.tiles ∧ SameMem s u))

/-- Delivery of a PLAN packet in bounds: its data are written in order from its address on, a whole word per flit, then its header's signal is added; where
the narrow port does not take them at once they wait there as requests, a flit each, the last with the signal. Out of bounds it is dropped, halting a
RUNNING tile with BOUND and counting elsewhere.
A TALLY packet adds its increment on arrival; PARAM_WRITE sets one SHADOW entry, PARAM_COMMIT copies SHADOW into PENDING; ACTIVE does not change.
Completes, under each clause's conditions on state and operands: packetDelivery, tallyPacketArrival, paramWrite, paramCommit.
Clauses that rest on the model's own choices: assumption 23. -/
def Obligations.Packets : Prop :=
  (∀ (s : State) (tid : TileId) (p : Packet) (rest : List Packet) (busy : Bool),
     let t := tid.toNat
     let x := s.tile t
     let mem := hDmem p.hdr
     let a := hDaddr p.hdr
     let n := 32 * hLen p.hdr
     x.rx = p :: rest → hClass p.hdr = 0 → x.st ≠ .isolated → x.zbusy = false → (∀ r ∈ x.narrow, r.src ≠ 0) →
     (mem < 3 → a + n ≤ (s.taskWin t x.task.toNat mem).2 →
       ((∀ d ∈ p.data, d.2 = false) → narrowFree x mem 0 = true →
         ∃ u, exec (.packetDelivery tid false) s = .next u ∧
           u.tileMem = memWrite s.tileMem (tmAddr t mem (s.phys t mem a)) (p.data.flatMap (fun d => flitBytes d.1)) ∧ (u.tile t).rx = rest ∧
           (∀ j, (u.tile t).tally j = if hHsig p.hdr ∧ j = BitVec.ofNat 5 (hHtally p.hdr) then
             BitVec.ofNat 16 (min ((x.tally j).toNat + hHinc p.hdr) 0xFFFF) else x.tally j)) ∧
       (p.data ≠ [] → busy = true ∨ narrowFree x mem 0 = false →
         exec (.packetDelivery tid busy) s = .next (s.setTile t { x with rx := rest, narrow := x.narrow ++ (p.data.zipIdx).map (fun d =>
           ⟨0, mem, s.phys t mem a + 32 * d.2, s.beatAt (clusterOf t), false, false, false, some d.1,
             if d.2 + 1 = p.data.length then some p.hdr else none, hFlow p.hdr⟩) }))) ∧
     (mem = 3 → x.st = .running → ∃ u, exec (.packetDelivery tid busy) s = .next u ∧
       TileHalted s u t 5 0x03 0 (3 * 2 ^ 30 + x.task.toNat * 2 ^ 28 + a % 2 ^ 18) ∧ u.tileMem = s.tileMem) ∧
     (mem = 3 → x.st ≠ .running → ∃ u, exec (.packetDelivery tid busy) s = .next u ∧ (u.tile t).drops = min (x.drops + 1) 0xFFFF ∧
       u.tileMem = s.tileMem)) ∧
  (∀ (s : State) (tid : TileId) (p : Packet) (rest : List Packet),
     let t := tid.toNat
     let x := s.tile t
     x.rx = p :: rest → x.zbusy = false → x.st ≠ .isolated →
     (hClass p.hdr = 1 → ∃ u, exec (.tallyPacketArrival tid) s = .next u ∧ (u.tile t).rx = rest ∧
       (∀ j, (u.tile t).tally j = if j = BitVec.ofNat 5 (hHtally p.hdr) then BitVec.ofNat 16 (min ((x.tally j).toNat + hHinc p.hdr) 0xFFFF)
         else x.tally j) ∧ (u.tile t).active = x.active ∧ SameMem s u) ∧
     (let entry := fieldOf (hInline p.hdr) 8 6
      let value : Word := BitVec.ofNat 32 (fieldOf (hInline p.hdr) 32 32)
      isCtrl 1 p = true →
       exec (.paramWrite tid) s = .next (s.setTile t { x with rx := rest, shadow := x.shadow.setIfInBounds entry value })) ∧
     (isCtrl 2 p = true → exec (.paramCommit tid) s = .next (s.setTile t { x with rx := rest, pending := x.shadow, commitPending := true })))

/-- An order of the loader, delivered or sent by the tile's cluster controller or by Ermond, takes effect only while the tile is IDLE or HALTED, and changes
what it names alone; a RUNNING tile refuses it and the loader receives an error completion, and an isolated tile's Colander discards it and counts it.
Completes, under each clause's conditions on state and operands: loaderOrder. -/
def Obligations.LoaderOrders : Prop :=
  ∀ (s q : State) (tid : TileId) (via : OrderVia) (i : BitVec 3) (seg : BitVec 16) (streams : List (BitVec 16 × BitVec 16)) (fd : BitVec 6) (d : FlowDesc)
      (e : Engine) (a : BitVec 11) (w : BitVec 64) (k : BitVec 2) (ra rb : Word),
    let t := tid.toNat
    let x := s.tile t
    let comes : Prop := match via with
      | .delivered => ∃ p rest, x.rx = p :: rest ∧ hClass p.hdr = 2 ∧ ctrlAccepted p.hdr = true ∧ 0x10 ≤ hInline p.hdr % 256 ∧
          q = s.setTile t { x with rx := rest }
      | .controller _ len => len.toNat ≤ 4 ∧ q = s
      | .ermond _ len => (s.router t).col = .opened ∧ len.toNat ≤ 4 ∧ q = s
    let y := q.tile t
    let put (v : Option SlotInfo) : State := q.setTile t { y with slots := y.slots.set i.toNat v i.isLt }
    s.tileOk t = true → x.zbusy = false → comes →
    (x.st = .idle ∨ x.st = .halted →
      exec (.loaderOrder tid via (.slot i seg streams)) s =
        .next (put (some { seg := seg, streams := streams.map (fun w => (w.1.toNat, w.2.toNat)), descs := [] })) ∧
      exec (.loaderOrder tid via (.clearSlot i)) s = .next (put none) ∧
      (∀ v, x.slots[i.toNat]'i.isLt = some v →
        exec (.loaderOrder tid via (.desc i fd d)) s = .next (put (some { v with descs := smSet v.descs fd.toNat d }))) ∧
      (8 * a.toNat + 8 ≤ memCap (4 + engCode e) → ∃ u, exec (.loaderOrder tid via (.imem e a [w])) s = .next u ∧
        u.tileMem = memWrite s.tileMem (tmAddr t (4 + engCode e) (8 * a.toNat)) (leBytes 8 w.toNat) ∧ (u.tile t).slots = x.slots) ∧
      exec (.loaderOrder tid via (.task k ra rb)) s =
        .next ((q.setReg (tilReg t (0x220 + 8 * k.toNat)) ra).setReg (tilReg t (0x224 + 8 * k.toNat)) (rb &&& 0xFFFF))) ∧
    (∀ o, (o = LoaderOrder.slot i seg streams ∨ o = .clearSlot i ∨ o = .desc i fd d ∨ o = .imem e a [w]) →
      (x.st = .running → exec (.loaderOrder tid via o) s = .next (q.orderRefused t)) ∧
      (x.st = .isolated → exec (.loaderOrder tid via o) s = .next (q.bump (rtrReg t 8) 1)))

/-- A fence whose beat has come closes the Colander, marks the tile in the fence maps and completes its command with SUCCESS; a fence of an open Colander
clears ZEROED. Before its beat nothing happens.
At beat B a pending reinstatement opens the Colander where ZEROED is 1 and the tile is IDLE, and completes with SUCCESS; else the tile stays
fenced, the event is raised and the command completes with 0x000A. Before B, or while a fence of the tile is due, nothing happens.
Completes, under each clause's conditions on state and operands: fenceTakesEffect, reinstateAtBeat.
Clauses that rest on the model's own choices: assumptions 3, 27. -/
def Obligations.Fencing : Prop :=
  (∀ (s : State) (tid : TileId),
     let t := tid.toNat
     (∀ f, s.host.fences.find? (fun f => f.tile = t ∧ f.beat ≤ s.beat.toNat) = some f → smFind s.host.reinstates t = none →
       ∃ u, exec (.fenceTakesEffect tid) s = .next u ∧ (u.router t).col = .fenced ∧ t ∈ u.fenceMap ∧
         ((s.router t).col = .opened → (u.router t).zeroed = false) ∧ u.host.fences = s.host.fences.erase f ∧ Completed s u f.seq 0 ∧
         (u.tile t).st = (s.tile t).st ∧ u.tileMem = s.tileMem) ∧
     ((∀ f ∈ s.host.fences, f.tile = t → s.beat.toNat < f.beat) → exec (.fenceTakesEffect tid) s = .next s)) ∧
  (∀ (s : State) (tid : TileId) (b : Beat) (c : Nat),
     let t := tid.toNat
     (s.router t).col = .pendingTo b → smFind s.host.reinstates t = some c →
     let fenceDue : Prop := ∃ f ∈ s.host.fences, f.tile = t ∧ f.beat ≤ s.beat.toNat
     (s.beat.toNat < b.toNat ∨ fenceDue → exec (.reinstateAtBeat tid) s = .next s) ∧
     (b.toNat ≤ s.beat.toNat → ¬fenceDue → (s.router t).zeroed = true → (s.tile t).st = .idle →
       ∃ u, exec (.reinstateAtBeat tid) s = .next u ∧ (u.router t).col = .opened ∧ t ∉ u.fenceMap ∧ Completed s u c 0 ∧ u.tiles = s.tiles) ∧
     (b.toNat ≤ s.beat.toNat → ¬fenceDue → (s.router t).zeroed = false ∨ (s.tile t).st ≠ .idle →
       ∃ u, exec (.reinstateAtBeat tid) s = .next u ∧ (u.router t).col = .fenced ∧ u.fenceMap = s.fenceMap ∧ Completed s u c 0x000A ∧
         u.tiles = s.tiles))

/-- A vault bank serves the request of the requester after the one served last: a read of good granules answers their bytes and changes no memory, a write of
good codewords stores its bytes alone; under refresh nothing is served and the wait is counted; a vault in self-refresh answers with an error response.
Refresh holds its bank, in the rotation of its channel alone; the refresh of bank 0 brings a change of HOTREF into effect; the temperature asks for hot
refresh above 85 °C and for none at or below 82 °C; a scrub read of a good granule, SCRUB_RATE of them every 1,000 beats, moves on to the next, and waits
for a bank under refresh.
Completes, under each clause's conditions on state and operands: vaultRequest, vaultRefresh, hotrefChange, vaultScrubRead.
Clauses that rest on the model's own choices: assumptions 14, 32, 82. -/
def Obligations.Vaults : Prop :=
  (∀ (s : State) (v : BitVec 6) (ch : BitVec 1) (bank : BitVec 6) (r : VaultReq) (a : BitVec 40) (len : BitVec 8) (bs : List Byte),
     let n := v.toNat
     let x := s.vault n
     let key := ch.toNat * 64 + bank.toNat
     s.vaultServes n = true → s.vaultAt a.toNat = some n → s.bankOf (a.toNat - n * vaultSize) = (ch.toNat, bank.toNat) →
     (x.refreshing.contains key = false →
       (s.goodCws a.toNat len.toNat = true → ∃ u, exec (.vaultRequest v ch bank [(r, .read a len)]) s = .next u ∧
         u.outbox = s.outbox ++ [.readData a.toNat (memRead s.devMem a.toNat len.toNat) []] ∧
         smGet (u.vault n).served key 3 = vreqCode r ∧ SameMem s u ∧ u.cwErr = s.cwErr) ∧
       (s.goodCws a.toNat bs.length = true → ∃ u, exec (.vaultRequest v ch bank [(r, .write a bs)]) s = .next u ∧
         u.devMem = memWrite s.devMem a.toNat bs ∧ smGet (u.vault n).served key 3 = vreqCode r ∧
         u.tileMem = s.tileMem ∧ u.hostMem = s.hostMem)) ∧
     (x.refreshing.contains key = true →
       exec (.vaultRequest v ch bank [(r, .read a len)]) s = .next (s.bump (vltReg n 0x2C) 1))) ∧
  (∀ (s : State) (v : BitVec 6) (ch : BitVec 1) (bank : BitVec 6) (r : VaultReq) (q : MemReq),
     s.vaultAt (memReqAddr q) = some v.toNat → s.bankOf (memReqAddr q - v.toNat * vaultSize) = (ch.toNat, bank.toNat) →
     (s.vault v.toNat).trained = true → (s.vault v.toNat).selfref = true →
     exec (.vaultRequest v ch bank [(r, q)]) s = .next (s.out (.errorResponse (memReqAddr q)))) ∧
  (∀ (s : State) (v : BitVec 6) (ch : BitVec 1) (bank : BitVec 6) (temp : BitVec 8),
     let n := v.toNat
     let x := s.vault n
     let due := smGet x.refNext ch.toNat 0
     (bank.toNat ≠ due → exec (.vaultRefresh v ch bank) s = .next s) ∧
     (n < s.nClusters → x.trained = true → x.selfref = false → bank.toNat = due → ∃ u, exec (.vaultRefresh v ch bank) s = .next u ∧
       smGet (u.vault n).refNext ch.toNat 0 = (due + 1) % s.chanBanks ∧ (ch.toNat * 64 + bank.toNat) ∈ (u.vault n).refreshing ∧ (u.vault n).hotref = (if bank = 0 then x.hotNext else x.hotref) ∧
       (u.vault n).scrubPos = x.scrubPos ∧ SameMem s u ∧ u.regs = s.regs) ∧
     (n < s.nClusters → exec (.hotrefChange v temp) s = .next (s.setVault n { x with
       temp := temp.toNat, hotNext := if 85 < temp.toNat then true else if temp.toNat ≤ 82 then false else x.hotNext })) ∧
     let rate := s.fld (vltReg n 8) 0 16
     let done := s.scrubsIn x.scrubSpan x.scrubDone
     (s.vaultServes n = true → s.fld (vltReg n 8) 31 1 = 1 → done < rate → s.bankHeld (n * vaultSize + 128 * x.scrubPos) 128 = true →
       exec (.vaultScrubRead v) s = .next (s.bump (vltReg n 0x2C) 1)) ∧
     (rate ≤ done → exec (.vaultScrubRead v) s = .next s) ∧
     (s.vaultServes n = true → s.fld (vltReg n 8) 31 1 = 1 → done < rate → s.bankHeld (n * vaultSize + 128 * x.scrubPos) 128 = false →
       s.goodCws (n * vaultSize + 128 * x.scrubPos) 128 = true →
       ∃ u, exec (.vaultScrubRead v) s = .next u ∧ (u.vault n).scrubPos = (if x.scrubPos + 1 = vaultSize / 128 then 0 else x.scrubPos + 1) ∧
         (u.vault n).scrubPasses = (if x.scrubPos + 1 = vaultSize / 128 then min (x.scrubPasses + 1) 511 else x.scrubPasses) ∧
         SameMem s u ∧ u.cwErr = s.cwErr ∧ u.events = s.events))

/-- The Skillet takes a sound item of its operation when the Kettle has room: the item leaves the intake and the records of its pages, in order, go out in
return packets, which wait while the router has no room; it holds a power token meanwhile.
An item that breaks a check of R152 is refused: it leaves the intake, the event names the lowest reason, nothing is returned.
Completes, under each clause's conditions on state and operands: score, attend.
Clauses that rest on the model's own choices: assumptions 33, 34. -/
def Obligations.Skillets : Prop :=
  (∀ (s : State) (v : BitVec 6) (item : SklItem) (n : Nat) (attend : Bool),
     let v' := v.toNat
     let c := sklCmd item.bytes
     let key := ownKey (.skillet v)
     let rd := ((s.takeItem v' n).startUnit (sklUnit v')).readPages v' c attend
     let pk := returnPackets v' (s.cluster v').epoch.toNat c (itemBytes c (itemRecs c item.bytes rd.2 attend).1)
     s.full = true → (s.skillet v').busy = false → s.vaultServes v' = true → s.nextItem v' = some (item, n) → s.itemFault v' item = 0 →
     c.op = (if attend then 2 else 1) → s.mayStart (sklUnit v') = true → s.itemHeld v' c = false →
     34 ≤ ((s.router (tileAt v' (localIdx c.dtile))).queue .cluster 0).length →
     ∃ u, exec (if attend then .attend v else .score v) s = .next u ∧ (u.skillet v').sending = pk ∧ (u.skillet v').busy = true ∧
       smGet u.intakeQ key [] = (smGet s.intakeQ key []).drop n ∧ sklUnit v' ∈ u.power.active ∧ SameMem s u ∧ u.tiles = s.tiles) ∧
  (∀ (s : State) (v : BitVec 6) (item : SklItem) (n : Nat),
     let v' := v.toNat
     let c := sklCmd item.bytes
     let p := item.pkts.headD { hdr := 0, data := [] }
     let f := s.itemFault v' item
     s.full = true → (s.skillet v').busy = false → s.vaultServes v' = true → s.unlocked.contains v' = false → s.nextItem v' = some (item, n) → f ≠ 0 →
     c.op ≠ 2 →
     ∃ u, exec (.score v) s = .next u ∧ Raised s u 0x10 (v' + f * 2 ^ 8 + hFlow p.hdr * 2 ^ 16) ∧ u.skillets = s.skillets ∧
       smGet u.intakeQ (ownKey (.skillet v)) [] = (smGet s.intakeQ (ownKey (.skillet v)) []).drop n ∧ SameMem s u ∧ u.routers = s.routers)

/-- An LPDDR6 channel trains at the highest rate not above RATE_MAX at which it passes, or is DOWN with its event; an UP channel counts a drift, holds the
bank under refresh, powers down when idle, and reports HOT above twice the refresh rate.
An UP channel serves a request when the Kettle lets it start, leaving power-down: a read of good codewords answers their bytes, a write stores its own; the
units that a Ladle asked for return in a packet on the transfer's flow; patrol scrub of a good codeword, SCRUB_RATE of them every 1,000 beats, moves on. A
channel that is not UP answers a Ladle's read with an error response, which puts its channel in FAULT; at a parked one the read waits.
Completes, under each clause's conditions on state and operands: lpTraining, lpDriftCheck, lpRefresh, lpPowerDown, lpRequest, lpScrubRead, refreshMultiplierChange.
Clauses that rest on the model's own choices: assumptions 2, 35, 82. -/
def Obligations.Lpddr : Prop :=
  (∀ (s : State) (c : BitVec 5) (passes : List (BitVec 2)) (bank : BitVec 6) (mult temp : BitVec 8),
     let n := c.toNat
     let x := s.lpch n
     let rmax := s.fld (lpxReg 4) 24 2
     s.full = true →
     (s.domain 4 n = .run → ∀ r, rmax ≤ r → r < 3 → (∃ p ∈ passes, p.toNat = r) → (∀ q, rmax ≤ q → q < r → ∀ p ∈ passes, p.toNat ≠ q) →
       exec (.lpTraining c passes) s = .next (s.setLpch n { x with st := .up, rate := r })) ∧
     (s.domain 4 n = .run → (∀ p ∈ passes, p.toNat < rmax ∨ 3 ≤ p.toNat) → ∃ u, exec (.lpTraining c passes) s = .next u ∧
       u.lpch n = { x with st := .down } ∧ Raised s u 0x14 (n + x.temp * 2 ^ 8)) ∧
     (x.st = .up →
       (∃ u, exec (.lpDriftCheck c true) s = .next u ∧ u.lp = s.lp ∧ SameMem s u ∧ u.quiet = s.quiet) ∧
       exec (.lpDriftCheck c false) s = .next s ∧
       exec (.lpRefresh c bank) s = .next (s.setLpch n { x with refreshing := [bank.toNat] }) ∧
       (∀ park, ∃ u, exec (.lpPowerDown c park) s = .next u ∧ u.lpch n = { x with powerDown := true, st := if park then .selfref else .up } ∧
         u.power.active = s.power.active.erase (lpUnit n) ∧ SameMem s u)) ∧
     (∃ u, exec (.refreshMultiplierChange c mult temp) s = .next u ∧
       u.lpch n = { x with refmult := min 15 mult.toNat, hot := decide (8 < mult.toNat), temp := temp.toNat } ∧
       (8 < mult.toNat → x.hot = false → Raised s u 0x15 (n + temp.toNat * 2 ^ 8)))) ∧
  (∀ (s : State) (c : BitVec 5) (a : BitVec 40) (len : BitVec 8) (bs : List Byte),
     let n := c.toNat
     let x := s.lpch n
     s.full = true →
     (x.st = .up → s.mayStart (lpUnit n) = true → s.isLpx a.toNat = true → lpChan a.toNat = n →
       (s.goodCws a.toNat len.toNat = true → ∃ u, exec (.lpRequest c (.mem (.read a len))) s = .next u ∧
         u.outbox = s.outbox ++ [.readData a.toNat (memRead s.devMem a.toNat len.toNat) []] ∧ u.lpch n = { x with powerDown := false } ∧
         lpUnit n ∈ u.power.active ∧ SameMem s u) ∧
       (s.goodCws a.toNat bs.length = true → ∃ u, exec (.lpRequest c (.mem (.write a bs))) s = .next u ∧
         u.devMem = memWrite s.devMem a.toNat bs ∧ u.lpch n = { x with powerDown := false } ∧ u.tileMem = s.tileMem ∧ u.hostMem = s.hostMem)) ∧
     (let rate := s.fld (lpxReg 4) 0 16
      let done := s.scrubsIn x.scrubSpan x.scrubDone
      (rate ≤ done → exec (.lpScrubRead c) s = .next s) ∧
      (x.st = .up → s.mayStart (lpUnit n) = true → s.fld (lpxReg 4) 31 1 = 1 → done < rate → s.goodCws (lpAddr n x.scrubPos) 64 = true →
       ∃ u, exec (.lpScrubRead c) s = .next u ∧ SameMem s u ∧ u.cwErr = s.cwErr ∧
         u.lpch n = { x with
           scrubPos := if x.scrubPos + 1 = 268435456 then 0 else x.scrubPos + 1, powerDown := false
           scrubSpan := s.tm.beats / 1000, scrubDone := done + 1 }))) ∧
  (∀ (s : State) (c : BitVec 5) (l : BitVec 7) (k : LpAsk) (tr : Transfer),
     let n := c.toNat
     let l' := l.toNat
     let e := lpEntry (lpHalf k.a) (unitCode l') tr.d.flow
     s.full = true →
     (s.lpAskAt n l' = none → exec (.lpRequest c (.ladleRead l)) s = .next s) ∧
     (s.lpAskAt n l' = some k → s.lpParked n = true → exec (.lpRequest c (.ladleRead l)) s = .next s) ∧
     (s.lpAskAt n l' = some k → (s.lpch n).st ≠ .up → s.lpParked n = false → ∃ u, exec (.lpRequest c (.ladleRead l)) s = .next u ∧ (u.lchan l' k.k).st = .fault ∧
       (u.lchan l' k.k).slots = [] ∧ Raised s u 0x11 (l' + k.k * 2 ^ 8 + 4 * 2 ^ 16 + (s.lchan l' k.k).flow * 2 ^ 32)) ∧
     (s.lpAskAt n l' = some k → (s.lpch n).st = .up → s.mayStart (lpUnit n) = true → (s.lchan l' k.k).tr = some tr → tr.order = k.order →
       tr.cmd = none → 2 * k.n + 1 ≤ s.roomAt e.1 e.2 0 → s.inputFree e.1 e.2 = true → s.inputClean e.1 e.2 0 = true →
       s.goodCws k.a (64 * k.n) = true →
       let h := mkHdr
         { cls := 0, kind := 3, epoch := s.ladleEpoch 64, len := 2 * k.n, last := k.fin, srck := 7, src := 0x41 + lpHalf k.a
           unit := unitCode l', flow := tr.d.flow }
       ∃ u, exec (.lpRequest c (.ladleRead l)) s = .next u ∧ (u.ladle l').asks = (s.ladle l').asks.drop 1 ∧ SameMem s u ∧
         (u.router e.1).queue e.2 0 = (s.router e.1).queue e.2 0 ++ ⟨h, true, false, e.1⟩ ::
           (fromTo 0 k.n).flatMap (fun i => [⟨bytesFlit (memRead s.devMem (k.a + 64 * i) 32), false, false, e.1⟩,
             ⟨bytesFlit (memRead s.devMem (k.a + 64 * i + 32) 32), false, false, e.1⟩])))

/-- LSTART with a free descriptor slot of the cluster's Ladle: the descriptor of 32 bytes in scalar data memory joins the channel's slots.
An IDLE channel starts the transfer of its first descriptor, ACTIVE with nothing moved; a descriptor that breaks a check of R178 puts it in FAULT with the
lowest reason, its descriptors gone. A descriptor that the cluster controller or Ermond's firmware orders joins the slots first.
Completes, under each clause's conditions on state and operands: lstart, ladleTransferStart.
Clauses that rest on the model's own choices: assumption 36. -/
def Obligations.LadleStarts : Prop :=
  (∀ (s : State) (k : Issue) (ga : BitVec 5) (ch : BitVec 3),
     let t := k.tile.toNat
     let l := clusterOf t
     let x := s.taken k
     let a := (x.gpr ga).toNat
     let d := ladleDesc (memRead s.tileMem (tmAddr t 3 a) 32)
     s.canIssue .sc k = true → (s.lchan l ch.toNat).st ≠ .fault → (s.lchan l ch.toNat).slots.length < 4 → s.fld (ldlReg l 0) 31 1 = 0 →
     a % 32 = 0 → a + 32 ≤ 16384 → s.goodWords t 3 a 32 = true → s.noRace k .sc 3 a 32 = true →
     IssuesIn (.lstart k ga ch) s .sc k
       ((s.setTile t x).setLchan l ch.toNat { s.lchan l ch.toNat with slots := (s.lchan l ch.toNat).slots ++ [(d, none)] }) [] [] false (s.pcOf .sc k + 1)) ∧
  (∀ (s : State) (l : BitVec 7) (k : BitVec 4) (d : LDesc) (cmd : Option Nat) (r : List (LDesc × Option Nat)),
     let l' := l.toNat
     let k' := k.toNat
     let c := s.lchan l' k'
     let f := s.descFault l' k' d
     s.ladleOk l' k' = true → s.ladleServes l' = true → c.st = .idle → c.slots = (d, cmd) :: r →
     (f = 0 → ∃ u, exec (.ladleTransferStart l k none) s = .next u ∧
       u.lchan l' k' = { c with
         st := .active, flow := d.flow, stage := [], half := none, gone := 0, tr := some ⟨d, 0, 0, 0, 0, (s.ladle l').nextOrder, cmd⟩ } ∧
       u.reg (ldlReg l' (0x104 + 0x10 * k')) = 0 ∧ SameMem s u ∧ u.tiles = s.tiles) ∧
     (f ≠ 0 → ∃ u, exec (.ladleTransferStart l k none) s = .next u ∧ (u.lchan l' k').st = .fault ∧ (u.lchan l' k').slots = [] ∧
       (u.lchan l' k').tr = none ∧ Raised s u 0x11 (l' + k' * 2 ^ 8 + f * 2 ^ 16 + d.flow * 2 ^ 32) ∧
       ∀ t, (u.tile t).work = (s.tile t).work)) ∧
  (∀ (s : State) (l : BitVec 7) (k : BitVec 4) (bs : List Byte),
     let c := s.lchan l.toNat k.toNat
     s.ladleOk l.toNat k.toNat = true → s.ladleServes l.toNat = true → c.st ≠ .fault → s.fld (ldlReg l.toNat 0) 31 1 = 0 → c.slots.length < 4 →
     exec (.ladleTransferStart l k (some bs)) s =
       exec (.ladleTransferStart l k none) (s.setLchan l.toNat k.toNat { c with slots := c.slots ++ [(ladleDesc bs, none)] }))

/-- A Ladle's cycle: the one channel at work stages a flit from its intake; a packet whole in staging goes to host memory flit by flit, a unit written with
its second flit, or begins on the mesh with its header, its data flits following one a cycle, the last of them counted as done; cycles add up.
A Ladle's intake takes the packet at its head when a channel waits for its flow, and holds it otherwise.
Completes, under each clause's conditions on state and operands: ladlePacketSend, intakePacket.
Clauses that rest on the model's own choices: assumptions 24, 25. -/
def Obligations.LadleData : Prop :=
  (∀ (s : State) (l : BitVec 7) (c : BitVec 8) (a b : Nat), s.ladleOk l.toNat 0 = true → a + b = c.toNat →
     exec (.ladlePacketSend l c) s = .next ((s.ladleCycles l.toNat a).ladleCycles l.toNat b)) ∧
  (∀ (s : State) (l : BitVec 7) (k : Nat) (tr : Transfer),
     let l' := l.toNat
     let c := s.lchan l' k
     let d := tr.d
     let n := nextUnits tr
     let e := dataEntry l' d
     k < 16 → s.ladleOk l' 0 = true → s.ladleServes l' = true → c.st = .active → c.tr = some tr → d.skind = 3 → 0 < n →
     (∀ j < 16, j ≠ k → (s.lchan l' j).st ≠ .active) → (l' < 64 → (s.vault l').selfref = false) →
     (∀ f rest, (s.ladle l').sending = none → c.half = none → c.stage.length + 1 < 2 * n →
       smGet (s.ladle l').intake (flowKey tr) [] = f :: rest →
       ∃ u, exec (.ladlePacketSend l 1) s = .next u ∧ (u.lchan l' k).stage = c.stage ++ [f] ∧ (u.lchan l' k).tr = c.tr ∧
         smGet (u.ladle l').intake (flowKey tr) [] = rest ∧ SameMem s u ∧ u.routers = s.routers) ∧
     ((s.ladle l').sending = none → c.stage.length = 2 * n → (∀ f ∈ c.stage, f.2 = false) → d.dfix = false →
       (d.dkind = 2 → s.domain 6 (l' - 64) = .run → c.gone < 2 * n → ∀ j, j < n →
         let one := (c.stage.drop (2 * j)).take 2
         let more := { c with gone := c.gone + 1 }
         (c.gone = 2 * j → ∃ u, exec (.ladlePacketSend l 1) s = .next u ∧ u.lchan l' k = more ∧ SameMem s u) ∧
         (c.gone = 2 * j + 1 → ∃ u, exec (.ladlePacketSend l 1) s = .next u ∧
           u.lchan l' k = (if j + 1 < n then more else
             { c with stage := [], gone := 0, tr := some { tr with done := tr.done + n, lastBeat := s.beat.toNat } }) ∧
           u.reg (ldlReg l' (0x104 + 0x10 * k)) = BitVec.ofNat 32 (tr.done + j + 1) ∧ u.tileMem = s.tileMem ∧ u.devMem = s.devMem ∧
           u.hostMem = memWrite s.hostMem (d.dst + 64 * (tr.done + j)) (one.flatMap (fun f => flitBytes f.1)))) ∧
       (d.dkind = 1 → 0 < s.roomAt e.1 e.2 0 → s.inputFree e.1 e.2 = true → s.inputClean e.1 e.2 0 = true →
         let h := ladleHdr s l' tr n (decide (tr.done + n = d.len))
         ∃ u, exec (.ladlePacketSend l 1) s = .next u ∧
           (u.router e.1).queue e.2 0 = (s.router e.1).queue e.2 0 ++ [⟨h, true, false, e.1⟩] ∧
           (u.ladle l').sending = some ⟨k, e.1, e.2, h, c.stage, n, true⟩ ∧
           u.lchan l' k = { c with
             stage := [], gone := 0, tr := some { tr with unanswered := tr.unanswered + bit (decide (tr.done + n = d.len)) } } ∧ SameMem s u)) ∧
     (∀ (w : LadleSend) f rest, (s.ladle l').sending = some w → w.k = k → w.live = true → w.left = f :: rest → c.stage = [] →
       ladlePath tr = 0 → 0 < s.roomAt w.t w.inp 0 → s.inputClean w.t w.inp 0 = true →
       ∃ u, exec (.ladlePacketSend l 1) s = .next u ∧
         (u.router w.t).queue w.inp 0 = (s.router w.t).queue w.inp 0 ++ [⟨f.1, false, f.2, w.t⟩] ∧
         (u.ladle l').sending = (if rest = [] then none else some { w with left := rest }) ∧
         (u.lchan l' k).tr = (if rest = [] then some { tr with done := tr.done + w.units, lastBeat := s.beat.toNat } else some tr) ∧ SameMem s u)) ∧
  (∀ (s : State) (c : BitVec 6) (pk : Packet) (rest : List Packet),
     let p := OwnPort.ladle c
     let flow := hFlow pk.hdr
     smGet s.intakeQ (ownKey p) [] = pk :: rest → (∀ x ∈ pk :: rest, hClass x.hdr ≠ 2) → (s.cluster c.toNat).isolated = false →
     smGet (s.ladle c.toNat).lost flow 0 = 0 →
     (s.wantsFlow c.toNat flow = true → ∃ u, exec (.intakePacket p) s = .next u ∧ smGet u.intakeQ (ownKey p) [] = rest ∧
       smGet (u.ladle c.toNat).intake flow [] = smGet (s.ladle c.toNat).intake flow [] ++ pk.data ∧ SameMem s u ∧ u.regs = s.regs) ∧
     (s.wantsFlow c.toNat flow = false → exec (.intakePacket p) s = .next s))

/-- The end of a transfer: with its last unit out a plan channel's transfer completes, a privileged one's waits until its writes are answered and completes
then; the channel is IDLE, its descriptor gone, its pulse for the batch former given and its command's last part done.
A transfer ends in FAULT on an error response, and where a response has not come within the limit: reasons 4 and 5; CLR brings a channel in FAULT
back to IDLE; DISABLE leaves every channel IDLE without descriptors.
Completes, under each clause's conditions on state and operands: ladleLastUnit, ladleResponseComplete, respTimeout, respError, ladleDisable, ladleClr.
Clauses that rest on the model's own choices: assumption 37. -/
def Obligations.LadleEnds : Prop :=
  (∀ (s : State) (l : BitVec 7) (k : BitVec 4) (tr : Transfer),
     let l' := l.toNat
     let k' := k.toNat
     let c := s.lchan l' k'
     let ended (i : Instr) : Prop := ∃ u, exec i s = .next u ∧
       u.lchan l' k' = { c with st := .idle, slots := c.slots.drop 1, tr := none } ∧
       u.bfPulses = (if tr.d.evkind = 3 then s.bfPulses ++ [tr.d.evtile] else s.bfPulses) ∧
       (∀ seq q, tr.cmd = some seq → s.findCmd seq = some q → q.left ≤ 1 → Completed s u seq 0) ∧
       ∀ t, (u.tile t).work = (s.tile t).work
     c.tr = some tr →
     (c.st = .active → tr.d.len ≤ tr.done →
       (ladlePriv l' k' = false → s.pulseRoom l' tr.d = true → ended (.ladleLastUnit l k)) ∧
       (ladlePriv l' k' = false → s.pulseRoom l' tr.d = false → exec (.ladleLastUnit l k) s = .next s) ∧
       (ladlePriv l' k' = true → exec (.ladleLastUnit l k) s = .next (s.setLchan l' k' { c with st := .waitResp }))) ∧
     (c.st = .active → tr.done < tr.d.len → exec (.ladleLastUnit l k) s = .next s) ∧
     (c.st = .waitResp → s.answered tr = true → s.pulseRoom l' tr.d = true → ended (.ladleResponseComplete l k)) ∧
     (c.st = .waitResp → s.answered tr = false → exec (.ladleResponseComplete l k) s = .next s)) ∧
  (∀ (s : State) (l : BitVec 7) (k : BitVec 4) (tr : Transfer) (src : ErrFrom),
     let l' := l.toNat
     let k' := k.toNat
     let c := s.lchan l' k'
     let limit := tr.lastBeat + max 1 (s.fld (ldlReg l' 4) 0 16)
     let faults (i : Instr) (reason : Nat) : Prop := ∃ u, exec i s = .next u ∧ (u.lchan l' k').st = .fault ∧ (u.lchan l' k').slots = [] ∧
       (u.lchan l' k').tr = none ∧ Raised s u 0x11 (l' + k' * 2 ^ 8 + reason * 2 ^ 16 + tr.d.flow * 2 ^ 32)
     (c.tr = some tr → c.st = .waitResp → s.answered tr = false → limit ≤ s.beat.toNat → faults (.respTimeout l k) 5) ∧
     (c.tr = some tr → c.st = .waitResp → s.answered tr = true ∨ s.beat.toNat < limit → exec (.respTimeout l k) s = .next s) ∧
     (c.tr = some tr → c.st = .active ∨ c.st = .waitResp → faults (.respError l k src) 4) ∧
     (s.ladleOk l' k' = true → s.ladleWritable l' = true → exec (.ladleClr l k) s = .next (s.setLchan l' k'
       { c with st := if c.st = .fault then .idle else c.st, drops := 0 })) ∧
     (s.ladleOk l' 0 = true → s.ladleWritable l' = true → ∃ u, exec (.ladleDisable l) s = .next u ∧
       ∀ j < (if l' < 64 then 8 else 16), (u.lchan l' j).st = .idle ∧ (u.lchan l' j).slots = [] ∧ (u.lchan l' j).tr = none ∧ (u.lchan l' j).stage = []))

/-- A held start is granted in the rotation: the held start that fits in L and comes first after the cluster served last; where none fits, nothing
happens.
The cap check: input power above the cap, or a temperature at its threshold, takes one step off the ceiling K; power below the cap by the
hysteresis with both temperatures 5 °C below gives one back. Leaving and regaining 4 raises an event, and so does power above the cap at K = 0.
Completes, under each clause's conditions on state and operands: heldStartGrant, kettleCapCheck.
Clauses that rest on the model's own choices: assumption 38. -/
def Obligations.Kettle : Prop :=
  (∀ (s : State),
     (∀ w, s.nextHeld = some w → w ∈ s.power.held ∧ s.liveStart w = true ∧ s.startFits w = true ∧
       (∀ v ∈ s.power.held, s.liveStart v = true → s.startFits v = true →
         heldKey s.power.lastCluster w ≤ heldKey s.power.lastCluster v) ∧
       ∃ u, exec .heldStartGrant s = .next u ∧ u.power.granted = s.power.granted ++ [w] ∧ u.power.held = s.power.held.erase w ∧
         u.power.active = s.power.active ∧ u.power.level = s.power.level ∧ u.power.lastCluster = unitCluster w ∧
         SameMem s u ∧ u.tiles = s.tiles ∧ u.regs = s.regs) ∧
     ((∀ v ∈ s.power.held, s.liveStart v = false ∨ s.startFits v = false) → exec .heldStartGrant s = .next s)) ∧
  (∀ (s : State) (avg : BitVec 16) (stage stack : BitVec 8) (vin : BitVec 16),
     let a := avg.toNat
     let cap := s.fld (pwrReg 4) 0 16
     let hyst := s.fld (pwrReg 4) 16 16
     let ts := s.fld (pwrReg 8) 24 8
     let tk := s.fld (pwrReg 8) 16 8
     let above := cap < a
     let hot := ts ≤ stage.toNat ∨ tk ≤ stack.toNat
     let clear := a + hyst < cap ∧ stage.toNat + 5 < ts ∧ stack.toNat + 5 < tk
     let k := s.power.k
     ∃ u, exec (.kettleCapCheck avg stage stack vin) s = .next u ∧
       u.power.k = (if above ∨ hot then k - 1 else if clear ∧ k < 4 then k + 1 else k) ∧
       u.power.avg = a ∧ u.power.level = s.power.level ∧ u.power.active = s.power.active ∧ SameMem s u ∧ u.tiles = s.tiles ∧
       ((above ∨ hot) → k = 4 → Raised s u 0x50 (bit (decide above) + bit (decide hot) * 2 + 3 * 2 ^ 8 + a * 2 ^ 16)) ∧
       (¬(above ∨ hot) → clear → k = 3 → Raised s u 0x51 (bit s.power.capped + bit s.power.therm * 2 + 4 * 2 ^ 8 + a * 2 ^ 16)) ∧
       (above → k = 0 → Raised s u 0x52 (1 + bit (decide hot) * 2 + a * 2 ^ 16)))

/-- A reading of a cluster region's hottest sensor that reaches the threshold decides a down step, and at the threshold a further one every 100 µs; at a grid
boundary a report of lost slack decides one, and a ceiling below the point where none waits; no down step goes below point 0. The first of the decided steps
takes effect at a grid boundary: a down step by one; an up step where the ceiling allows it and L has room, which else waits, unless the ceiling or a step
behind it ends it. After the dwell an up step is decided where none waits.
A droop stretches the region's clock and begins its quiet time anew; its end does so too; one of more than 1 µs decides one down step of a cluster region.
The loss of the reference of a powered module is latched and drives FAULT_N.
Completes, under each clause's conditions on state and operands: ladderStep, upDwellExpiry, thermalStep, droopTrip, droopClear, droopLong, refLoss.
Clauses that rest on the model's own choices: assumption 44. -/
def Obligations.ClockLadder : Prop :=
  (∀ (s : State) (r : BitVec 7) (slack : Bool) (temp : BitVec 8),
     let n := r.toNat
     let p := s.point n
     let x := s.region n
     let hot := decide (s.tthr ≤ temp.toNat)
     let down (w : Region) : Region := if 0 < afterSteps p w.steps then { w with steps := w.steps ++ [false] } else w
     let read : Region := { x with temp := temp.toNat, hot := hot }
     let seen : Region := if hot && !x.hot then { down read with thermFrom := s.tm.run } else read
     let told : Region := if slack then { down seen with quietFrom := s.tm.beats } else seen
     let y : Region := if s.ceiling n < p ∧ told.steps.contains false = false then down told else told
     let room := s.demand + s.stepWeight n ≤ s.power.level
     let goes (i : Instr) (q : Nat) (y : Region) : Prop := ∃ u, exec i s = .next u ∧ u.point n = q ∧ u.region n = y ∧
       (∀ m, m ≠ n → u.point m = s.point m ∧ u.region m = s.region m) ∧ SameMem s u ∧ u.tiles = s.tiles ∧ u.power.active = s.power.active
     n < s.nClusters →
       (y.steps = [] → goes (.ladderStep r slack temp) p y) ∧
       (∀ l, y.steps = false :: l → goes (.ladderStep r slack temp) (p - 1) { y with steps := l, quietFrom := s.tm.beats }) ∧
       (∀ l, y.steps = true :: l → p < s.ceiling n → room → goes (.ladderStep r slack temp) (p + 1) { y with steps := l }) ∧
       (∀ l, y.steps = true :: l → s.ceiling n ≤ p ∨ (¬room ∧ l ≠ []) → goes (.ladderStep r slack temp) p { y with steps := l }) ∧
       (y.steps = [true] → p < s.ceiling n → ¬room → goes (.ladderStep r slack temp) p y) ∧
       goes (.upDwellExpiry r temp) p (if p < s.ceiling n ∧ x.quietFrom + s.fld (clkReg 4) 0 16 ≤ s.tm.beats ∧ temp.toNat + 5 < s.tthr ∧ x.stretch = false ∧
         seen.steps = [] then { seen with steps := [true] } else seen) ∧
       goes (.thermalStep r temp) p (if x.hot = true ∧ hot = true ∧ s.passed x.thermFrom (100 * usU) = true then { down seen with thermFrom := s.tm.run }
         else seen)) ∧
  (∀ (s : State) (r : BitVec 7),
     let n := r.toNat
     let x := s.region n
     let p := s.point n
     let goes (i : Instr) (y : Region) : Prop := ∃ u, exec i s = .next u ∧ u.region n = y ∧
       (∀ m, m ≠ n → u.region m = s.region m) ∧ u.points = s.points ∧ u.power = s.power ∧ SameMem s u ∧ u.tiles = s.tiles
     (n < s.nClusters ∨ (64 ≤ n ∧ n < 72) →
       goes (.droopTrip r) { x with stretch := true, quietFrom := s.tm.beats, droopFrom := if x.stretch then x.droopFrom else some s.tm.run } ∧
       goes (.droopClear r) { x with stretch := false, quietFrom := s.tm.beats, droopFrom := none } ∧
       (∀ t, x.droopFrom = some t → x.stretch = true → s.passed t usU = true →
         goes (.droopLong r) (if n < 64 ∧ 0 < afterSteps p x.steps then { x with droopFrom := none, steps := x.steps ++ [false] }
           else { x with droopFrom := none })) ∧
       ((∀ t, x.droopFrom = some t → x.stretch = false ∨ s.passed t usU = false) → exec (.droopLong r) s = .next s)) ∧
     (s.module.rails = .on → ∃ u, exec .refLoss s = .next u ∧ u.tm = { s.tm with refLost := true, refFrom := s.tm.run } ∧ u.module.faultPin = true ∧
       u.power = s.power ∧ SameMem s u ∧ u.tiles = s.tiles))

/-- A beat begins when Varuni time reaches its start and not before; clusters that begin it later than the others are named, and begin it next. The level then rises by one slew step where a start was held in the beat before, and
else falls by one as far as the demand and the floor, never above LCAP; refreshes end.
Time pulses: one fires when time reaches START + j × PERIOD, a single one once, and lasts for WIDTH; ENABLE going to 0 stops further ones, and going to 1
arms them from the first pulse time that has not passed, a single one that has passed never.
Completes, under each clause's conditions on state and operands: beatBoundary, timePulse, timePulseEnable.
Clauses that rest on the model's own choices: assumptions 32, 40, 43. -/
def Obligations.BeatsAndPulses : Prop :=
  (∀ (s : State) (last : BitVec 16) (late : List (BitVec 6)),
     let n := if s.tm.pre then 0 else s.beat.toNat + 1
     (s.lagging ≠ [] → exec (.beatBoundary last late) s = .next { s with lagging := [] }) ∧
     (s.tm.isLocal = false → s.beatDue n = decide (s.beatStart n < s.tm.now + s.slowStep)) ∧
     (s.lagging = [] → s.tm.sat = true ∨ s.beatDue n = false → exec (.beatBoundary last late) s = .next s) ∧
     (s.lagging = [] → s.tm.sat = false → s.beatDue n = true → (∀ w ∈ s.power.held ++ s.power.granted, s.liveStart w = true) →
       (∀ w ∈ s.power.held, w < 4160 ∨ w ∈ s.power.noted) →
       (∀ r ∈ s.power.heldSteps, (s.region r).steps.head? = some true ∧ s.point r < s.ceiling r) →
       ∃ u, exec (.beatBoundary last late) s = .next u ∧ u.beat = BitVec.ofNat 48 (min n (2 ^ 48 - 1)) ∧ u.tm.pre = false ∧
         u.tm.beats = s.tm.beats + 1 ∧ u.tm.now = s.tm.now ∧ u.power.last = last.toNat ∧ u.lagging = late.map (fun c => c.toNat) ∧
         u.power.level = (if s.power.heldThisBeat ∨ s.power.held ≠ [] ∨ s.power.heldSteps ≠ [] then min (s.power.level + s.slew) s.lcap
           else min (max (max s.demand s.floorLevel) (s.power.level - s.slew)) s.lcap) ∧
         (∀ v, (u.vault v).refreshing = []) ∧ (∀ c, (u.lpch c).refreshing = []) ∧ SameMem s u ∧ u.tiles = s.tiles)) ∧
  (∀ (s : State) (k : BitVec 2) (en : Bool),
     let n := k.toNat
     let p := s.pulse n
     let period := (s.reg (tpReg n 0xC)).toNat
     let width := (s.reg (tpReg n 0x10)).toNat * nsU
     let on := s.fld (tpReg n 0x14) 31 1 = 1
     let goesOn := ∀ e, p.till = some e → s.passed e 0 = false
     let due := p.on = true ∧ s.pulseAt n p.j < s.tm.now + s.slowStep
     (s.awake = true → due → goesOn → ∃ u, exec (.timePulse k) s = .next u ∧ u.outbox = s.outbox ++ [.pulse n (s.pulseLevel n true)] ∧
       u.pulse n = ⟨decide (period ≠ 0), p.j + 1, some (s.tm.run + (s.pulseAt n p.j - s.tm.now) + width)⟩ ∧
       (∀ m, m ≠ n → u.pulse m = s.pulse m) ∧ SameMem s u ∧ u.tm.now = s.tm.now) ∧
     (∀ e, s.awake = true → p.till = some e → s.passed e 0 = true → ∃ u, exec (.timePulse k) s = .next u ∧
       u.outbox = s.outbox ++ [.pulse n (s.pulseLevel n false)] ∧ u.pulse n = { p with till := none } ∧ SameMem s u) ∧
     (¬due → goesOn → exec (.timePulse k) s = .next s) ∧
     (s.reaches = true → ∃ u, exec (.timePulseEnable k en) s = .next u ∧
       u.pulse n = (if en = true ∧ ¬on then (if period = 0 ∧ s.pulseAt n 0 < s.tm.now then { p with on := false, j := 0 }
           else { p with on := true, j := s.firstPulse n s.tm.now })
         else if en = false ∧ on then { p with on := false } else p) ∧
       (∀ m, m ≠ n → u.pulse m = s.pulse m) ∧ SameMem s u ∧ u.outbox = s.outbox ∧ u.tm.now = s.tm.now))

/-- What an accepted or refused measurement θ does to the state of the VTM: FREE steps and acquires; ACQUIRE locks after 16 within 20 ns in a row; a θ beyond
STEP_LIMIT sends ACQUIRE and LOCKED to HOLDOVER; HOLDOVER locks within the limit, and beyond it steps only when armed. So with PPS as the source, and with
PTM; with another source in use an edge or a dialog is only captured.
An interval without an accepted measurement: the run of losses grows; at LOSS_LIMIT a beacon-fed module changes to UPPORT2 where that port is UP, and else
ACQUIRE and LOCKED go to HOLDOVER with cause 1. A change of source gives HOLDOVER with cause 3 once time has been stepped and FREE before; RESTEP arms a step; a
snapshot copies time and beat into the snapshot registers.
Beacons: a beacon-fed module, 125 µs after its last REQ, puts one, with a new ID, among the control packets of its active port; a module that answers puts a RESP
with the REQ's ID and the time of its arrival; a RESP to an outstanding REQ, in time and from a source LOCKED or in HOLDOVER at a depth below 31, ends the exchange and
takes its depth plus one.
Completes, under each clause's conditions on state and operands: beaconReq, beaconReqReceive, beaconRespReceive, beaconTimeout, ppsEdge, ppsLossInterval, ptmDialog, sourceChange, timeRestep, snap.
Clauses that rest on the model's own choices: assumptions 39, 40, 41, 42. -/
def Obligations.TimeKeeping : Prop :=
  (∀ (s : State) (sub : BitVec 8) (h : Dword),
     let t := s.stamp sub
     let within (q : Int) : Bool := decide (q.natAbs ≤ s.fld (vtmReg 8) 0 16 * (2 * nsU))
     let near (q : Int) : Bool := decide (q.natAbs ≤ 20 * (2 * nsU))
     let after (q : Int) : TimeSt := match s.tm.st with
       | .free => .acquire
       | .acquire => if within q then (if near q && decide (15 ≤ s.tm.streak) then .locked else .acquire) else .holdover
       | .locked => if within q then .locked else .holdover
       | .holdover => if within q then .locked else if s.tm.armed then .acquire else .holdover
     let src := s.fld (vtmReg 4) 30 2
     let measured (i : Instr) (q : Int) : Prop := ∃ u, exec i s = .next u ∧ u.tm.st = after q ∧
       (within q = true → s.tm.st ≠ .free → u.tm.now = s.tm.now ∧ u.tm.lossRun = 0 ∧ u.tm.depth = 0) ∧
       (s.tm.st = .free → u.tm.freq = 0 ∧ u.tm.stepped = true ∧ u.tm.depth = 0) ∧ SameMem s u ∧ u.tiles = s.tiles
     let captured (i : Instr) (tm : TimeState) : Prop := ∃ u, exec i s = .next u ∧ u.tm = tm ∧ u.quiet = { s.quiet with tm := tm }
     let dialog := s.passed s.tm.ptmFrom (s.fld (vtmReg 4) 0 8 * (1000 * usU))
     let sec := (s.reg (vtmReg 0x40)).toNat + (s.reg (vtmReg 0x44)).toNat * 2 ^ 32
     let ofs : Int := (BitVec.ofNat 64 ((s.reg (vtmReg 0x48)).toNat + (s.reg (vtmReg 0x4C)).toNat * 2 ^ 32)).toInt
     (src = 1 → measured (.ppsEdge sub) (2 * ((sec * secU : Nat) : Int) - 2 * (t : Int))) ∧
     (src ≠ 1 → captured (.ppsEdge sub) s.tm) ∧
     (dialog = false → exec (.ptmDialog (some h) sub) s = .next s) ∧
     (src = 2 → dialog = true → s.host.pcie.ptm = true → measured (.ptmDialog (some h) sub) (2 * (((h.toNat : Int) + ofs) * nsU) - 2 * (t : Int))) ∧
     (src ≠ 2 → dialog = true → captured (.ptmDialog (some h) sub) { s.tm with ptmFrom := s.tm.run })) ∧
  (∀ (s : State) (sub : BitVec 8) (src : BitVec 2) (q : BeaconReq),
     let n := s.tm.lossRun + 1
     let up2 := s.fld (vtmReg 4) 19 5
     let usable := s.fld (vtmReg 4) 30 2 = 0 ∧ up2 ≠ 31 ∧ s.tm.active ≠ up2 ∧ (smGet s.nports up2 NPort.reset).st = .up
     let fed := s.tm.st = .acquire ∨ s.tm.st = .locked
     let lost (i : Instr) : Prop := ∃ u, exec i s = .next u ∧ u.tm.now = s.tm.now ∧ SameMem s u ∧ u.tiles = s.tiles ∧
       (n < s.fld (vtmReg 4) 8 8 → u.tm.st = s.tm.st ∧ u.tm.lossRun = n ∧ u.tm.active = s.tm.active) ∧
       (s.fld (vtmReg 4) 8 8 ≤ n → fed → usable → u.tm.st = s.tm.st ∧ u.tm.active = up2 ∧ u.tm.lossRun = 0) ∧
       (s.fld (vtmReg 4) 8 8 ≤ n → fed → ¬usable → u.tm.st = .holdover ∧ u.tm.holdCause = 1 ∧ Raised s u 0x42 1) ∧
       (¬fed → u.tm.st = s.tm.st ∧ u.tm.active = s.tm.active)
     let due (first next : Nat) : Bool := s.passed s.tm.lossFrom (if s.tm.lossRun = 0 then first else next)
     (s.fld (vtmReg 4) 30 2 = 1 → due (2 * secU) secU = true → lost .ppsLossInterval) ∧
     (due (2 * secU) secU = false → exec .ppsLossInterval s = .next s) ∧
     (s.fld (vtmReg 4) 30 2 = 2 → s.passed s.tm.ptmFrom (s.fld (vtmReg 4) 0 8 * (1000 * usU)) = true → lost (.ptmDialog none sub)) ∧
     (s.tm.reqs = [q] → s.reqLost q = true → lost .beaconTimeout) ∧
     (s.fld (vtmReg 4) 30 2 = 0 → s.tm.reqs = [] → due (250 * usU) (125 * usU) = true → lost .beaconTimeout) ∧
     (s.tm.reqs ≠ [] → (∀ w ∈ s.tm.reqs, s.reqLost w = false) → exec .beaconTimeout s = .next s) ∧
     (s.reaches = true → ∃ u, exec (.sourceChange src) s = .next u ∧ u.tm.st = (if s.tm.stepped then .holdover else .free) ∧ u.tm.reqs = [] ∧ u.tm.lossRun = 0 ∧
       (s.tm.stepped = true → u.tm.holdCause = 3 ∧ u.tm.depth = s.tm.depth) ∧ (s.tm.stepped = false → u.tm.depth = 255) ∧ u.tm.now = s.tm.now ∧
       u.fld (vtmReg 4) 30 2 = src.toNat ∧ SameMem s u ∧ u.tiles = s.tiles ∧ (s.tm.reqs = [] → u.quiet = { s.quiet with tm := u.tm })) ∧
     (s.reaches = true → exec .timeRestep s = .next { s with tm := { s.tm with armed := true } }) ∧
     (s.reaches = true → ∃ u, exec .snap s = .next u ∧ u.quiet = s.quiet ∧ u.reg (vtmReg 0x10) = BitVec.ofNat 32 (s.tm.now / secU) ∧
       u.reg (vtmReg 0x14) = BitVec.ofNat 32 (s.tm.now / secU / 2 ^ 32) ∧ u.reg (vtmReg 0x18) = BitVec.ofNat 32 (s.tm.now % secU / nsU) ∧
       u.reg (vtmReg 0x1C) = BitVec.ofNat 32 (s.tm.now % nsU) ∧ u.reg (vtmReg 0x20) = BitVec.ofNat 32 s.beat.toNat ∧
       u.reg (vtmReg 0x24) = BitVec.ofNat 32 (s.beat.toNat / 2 ^ 32))) ∧
  (∀ (s : State) (n : BitVec 5) (sub : BitVec 8) (p : NPkt) (r : List NPkt),
     let k := n.toNat
     let a := s.tm.active
     let others (u : State) (m : Nat) : Prop := (∀ j, j ≠ m → u.nport j = s.nport j) ∧ SameMem s u ∧ u.tiles = s.tiles
     (s.fld (vtmReg 4) 30 2 = 0 → a < s.nPorts → (∀ t, s.tm.reqFrom = some t → s.passed t (125 * usU) = true) →
       ∃ u id, exec .beaconReq s = .next u ∧ u.tm.reqs = s.tm.reqs ++ [⟨id, a, s.tm.run, none⟩] ∧
       u.nport a = { s.nport a with ctl := (s.nport a).ctl ++ [timePacket (timePayload 1 (timeStCode s.tm.st) s.tm.depth id 0 0 0)] } ∧ others u a) ∧
     ((s.nport k).times = p :: r → pktOp p = 1 → ∃ u, exec (.beaconReqReceive n sub) s = .next u ∧
       u.nport k = (if s.fld (vtmReg 4) 29 1 = 1 then { s.nport k with times := r, ctl := (s.nport k).ctl ++
         [timePacket (timePayload 2 (timeStCode s.tm.st) s.tm.depth (pktField p 32 32) 0 (shortStamp (s.stamp sub)) 0)] }
         else { s.nport k with times := r }) ∧ others u k ∧ u.tm = s.tm) ∧
     (∀ q t1, (s.nport k).times = p :: r → pktOp p = 2 →
       ((∀ w ∈ s.tm.reqs, w.id ≠ pktField p 32 32) → ∃ u, exec (.beaconRespReceive n sub) s = .next u ∧ u.tm = s.tm ∧ (u.nport k).times = r) ∧
       (s.tm.reqs.find? (fun w => w.id = pktField p 32 32) = some q → q.t1 = some t1 → s.fld (vtmReg 4) 30 2 = 0 → s.stamp sub ≤ t1 + 125 * usU → (pktField p 8 3 = 2 ∨ pktField p 8 3 = 3) → pktField p 16 8 < 31 → s.tm.st = .free →
         ∃ u, exec (.beaconRespReceive n sub) s = .next u ∧ u.tm.reqs = s.tm.reqs.erase q ∧ u.tm.depth = pktField p 16 8 + 1 ∧ u.tm.st = .acquire ∧
           u.tm.upHold = decide (pktField p 8 3 = 3) ∧ (u.nport k).times = r ∧ SameMem s u)))

/-- What a port that carries traffic makes of a packet on the link: the packet whose turn it is joins the pool, a duplicate is acknowledged again, a later one and one
with a CRC error draw one NAK for each EXP, TIME packets are held within their reserve; IDLE is passed over, and a byte that begins nothing or an uncorrectable
codeword makes the port discard words until a good link control word.
The other classes at an ingress: SYNC, MGMT and BULK packets for this rank are delivered to Ermond, and their units freed; those of another job are dropped. The
HANDBACK marker lets the returned port deliver its own flows again.
Completes, under each clause's conditions on state and operands: novboPacketReceive, handbackMarkerReceive, syncMgmtBulkIngress.
Clauses that rest on the model's own choices: assumption 47. -/
def Obligations.NovboIntake : Prop :=
  (∀ (s : State) (n : BitVec 5) (corr : BitVec 8) (ws : List (BitVec 64)) (poison : List Nat),
     let k := n.toNat
     let x := s.nport k
     let c := nextFreed x.freedLast
     let naked : NPort := { x with nakFor := some x.exp, freedLast := c, unacked := 0, ackNext := false }
     let word : Out := .lcw k (lcwWord (lcwBody 2 (ackSeq x) c (smGet x.freed c 0 % 65536)))
     let takes (rx : NovboRx) (y : NPort) (sent : List Out) : Prop := ∃ u, exec (.novboPacketReceive n corr rx) s = .next u ∧ u.nport k = y ∧
       (∀ j, j ≠ k → u.nport j = s.nport j) ∧ u.outbox = s.outbox ++ sent ∧ SameMem s u ∧ u.tiles = s.tiles ∧ u.tm = s.tm
     k < s.nPorts → listens x = true → x.st ≠ .loop → x.st ≠ .probation →
       takes (.badBoundary ws) { x with deaf := true } [] ∧
       takes (.fecUncorrectable ws) { x with deaf := true } [] ∧
       takes (.packet [] poison) x [] ∧
       (x.deaf = true → (∀ w ∈ ws, lcwGood w = false) → takes (.packet ws poison) x []) ∧
       (∀ w r, x.deaf = false → ws = w :: r →
         (w = 0x0707070707070707 →
           exec (.novboPacketReceive n corr (.packet ws poison)) s = exec (.novboPacketReceive n corr (.packet r poison)) s) ∧
         (w ≠ 0x0707070707070707 → w.toNat % 256 ≠ 0xFB → w.toNat % 256 ≠ 0x9C → (∀ v ∈ r, lcwGood v = false) →
           takes (.packet ws poison) { x with deaf := true } []) ∧
         (w.toNat % 256 = 0xFB → readPacket ws poison = none → fieldOf w.toNat 17 3 ≠ 2 →
           (x.nakFor = some x.exp → takes (.packet ws poison) x []) ∧ (x.nakFor ≠ some x.exp → takes (.packet ws poison) naked [word]))) ∧
       (∀ p, x.deaf = false → readPacket ws poison = some p →
         let d := (p.seq + 4096 - x.exp) % 4096
         (p.cls = 2 → takes (.packet ws poison)
           (if (x.times.map NPkt.units).sum + p.units ≤ x.ownPool.getD 2 2 * 128 then { x with times := x.times ++ [p] } else x) []) ∧
         (p.cls ≠ 2 → d = 0 → ¬(p.cls = 4 ∧ p.flow = 0xFFFE) →
           takes (.packet ws poison) { x with
             exp := (x.exp + 1) % 4096, unacked := x.unacked + 1, ackFrom := if x.unacked = 0 then s.tm.run else x.ackFrom,
             pool := x.pool ++ [{ p with acc := s.beat.toNat }] } []) ∧
         (p.cls ≠ 2 → 3072 ≤ d → takes (.packet ws poison) { x with ackNext := true } []) ∧
         (p.cls ≠ 2 → 0 < d → d < 3072 → x.nakFor = some x.exp → takes (.packet ws poison) x []) ∧
         (p.cls ≠ 2 → 0 < d → d < 3072 → x.nakFor ≠ some x.exp → takes (.packet ws poison) naked [word]))) ∧
  (∀ (s : State) (n : BitVec 5) (p : NPkt),
     let k := n.toNat
     let x := s.nport k
     let frame (u : State) : Prop := (u.nport k).pool = x.pool.erase p ∧ (∀ j, j ≠ k → u.nport j = s.nport j) ∧ SameMem s u ∧ u.tiles = s.tiles
     (k < s.nPorts → x.pool.find? (fun p => p.cls ≠ 0 && !isMarker p) = some p → s.fld (mgtReg 0xA024) k 1 = 0 → s.fleet.job ≠ .fenced →
       (p.drank = s.ownRank →
         (p.cls = 1 → s.fleet.job ≠ .none → p.job = s.jobId → ∃ u, exec (.syncMgmtBulkIngress n) s = .next u ∧ frame u ∧
           u.fleet = { s.fleet with syncIn := s.fleet.syncIn ++ [(syncMsg p, p.acc)] }) ∧
         (p.cls = 3 → p.flow = 0 → p.data.length = 1 → ∃ u, exec (.syncMgmtBulkIngress n) s = .next u ∧ frame u ∧
           u.fleet = { s.fleet with mgmtIn := s.fleet.mgmtIn ++ [p] }) ∧
         (p.cls = 4 → p.job = s.jobId ∨ p.job = 0 → ∃ u, exec (.syncMgmtBulkIngress n) s = .next u ∧ frame u ∧
           u.fleet = { s.fleet with bulkIn := s.fleet.bulkIn ++ [p] })) ∧
       (p.cls = 1 → p.job ≠ s.jobId → ∃ u, exec (.syncMgmtBulkIngress n) s = .next u ∧ frame u ∧ u.fleet = s.fleet)) ∧
     (∀ b, x.pool.find? isMarker = some p → s.buddy k = some b →
       (∀ q ∈ x.pool.takeWhile (fun q => !isMarker q), q.cls ≠ 0 ∨ s.ingressEntry b q.flow = none) →
       ∃ u, exec (.handbackMarkerReceive n) s = .next u ∧ (u.nport k).pool = x.pool.erase p ∧ (u.nport b).waitMarker = false ∧
         (∀ j, j ≠ k → j ≠ b → u.nport j = s.nport j) ∧ SameMem s u))

/-- Retirement and replay: an ACK retires the packets up to its ACKSEQ and returns credits; a NAK does so too and starts a replay from the packet after it; a stale
ACKSEQ retires nothing. The replay timer, 16 µs after it last started, replays what is outstanding, and its fourth expiry in a row declares the port down.
Acknowledgements and link control words: an ACK, due after 64 packets or 2 µs, carries the last SEQ accepted and the freed units of the class next in rotation;
IDENT is shown, and reported at both ports of a pair where it differs from the buddy's peer; POOL sets the peer's reserves.
Completes, under each clause's conditions on state and operands: novboAck, novboNak, ident, pool, ackDue, lcwDue, replayTimer.
Clauses that rest on the model's own choices: assumptions 45, 46. -/
def Obligations.NovboLink : Prop :=
  (∀ (s : State) (n : BitVec 5) (w : Dword) (p : NPkt) (rest : List NPkt),
     let k := n.toNat
     let x := s.nport k
     let a := fieldOf w.toNat 12 12
     let d := (a + 4096 - p.seq) % 4096
     let c := fieldOf w.toNat 24 3
     let frame (u : State) : Prop := (∀ j, j ≠ k → u.nport j = s.nport j) ∧ u.outbox = s.outbox ∧ SameMem s u ∧ u.tiles = s.tiles ∧
       (u.nport k).pool = x.pool ∧ (u.nport k).exp = x.exp ∧ (u.nport k).st = x.st ∧ (u.nport k).txNext = x.txNext
     let retired (i : Instr) (m : Nat) (more : NPort → Prop) : Prop := ∃ u, exec i s = .next u ∧ frame u ∧ (u.nport k).buf = x.buf.drop m ∧
       (u.nport k).expiries = (if m = 0 then x.expiries else 0) ∧ (u.nport k).deaf = false ∧
       ((c = 0 ∨ c = 1 ∨ c = 3 ∨ c = 4) → smGet (u.nport k).peerFreed c 0 = fieldOf w.toNat 32 16) ∧ more (u.nport k)
     k < s.nPorts → x.st ≠ .loop → x.buf = p :: rest →
       (listens x = true → readLcw w = some 1 → d < x.buf.length → retired (.novboAck n w) (d + 1) (fun _ => True)) ∧
       (listens x = true → readLcw w = some 1 → x.buf.length ≤ d → 2048 ≤ (a + 4096 - x.txNext) % 4096 →
         retired (.novboAck n w) 0 (fun y => y.replaying = x.replaying.filter (fun q => x.buf.contains q))) ∧
       (listens x = true → readLcw w = some 2 → d < x.buf.length → x.replaying = [] → ∀ q r, x.buf.drop (d + 1) = q :: r → q.seq = (a + 1) % 4096 →
         retired (.novboNak n w) (d + 1) (fun y => y.replaying = q :: r ∧ y.replayNak = some a)) ∧
       (s.passed x.timerFrom (16 * usU) = false → exec (.replayTimer n) s = .next s) ∧
       (carries x = true → s.passed x.timerFrom (16 * usU) = true → x.expiries < 3 → ∃ u, exec (.replayTimer n) s = .next u ∧ frame u ∧
         (u.nport k).buf = x.buf ∧ (u.nport k).replaying = x.buf ∧ (u.nport k).replayNak = none ∧ (u.nport k).expiries = x.expiries + 1 ∧
         (u.nport k).timerFrom = s.tm.run) ∧
       (carries x = true → s.passed x.timerFrom (16 * usU) = true → x.expiries = 3 → ∃ u, exec (.replayTimer n) s = .next u ∧
         (u.nport k).st = .down ∧ (u.nport k).failBuf = x.failBuf ++ x.buf ∧ (u.nport k).buf = [] ∧ (u.nport k).replaying = [] ∧
         Raised s u 0x20 (k + 2 * 2 ^ 8) ∧ SameMem s u)) ∧
  (∀ (s : State) (n : BitVec 5) (w : Dword),
     let k := n.toNat
     let x := s.nport k
     let c := nextFreed x.freedLast
     let acked (i : Instr) : Prop := exec i s = .next ((s.setNport k { x with freedLast := c, unacked := 0, ackNext := false }).out
       (.lcw k (lcwWord (lcwBody 1 (ackSeq x) c (smGet x.freed c 0 % 65536)))))
     let id := fieldOf w.toNat 24 24
     k < s.nPorts → x.st ≠ .loop →
       (listens x = true → s.prbsOn k = false → x.unacked ≠ 0 → 64 ≤ x.unacked ∨ s.passed x.ackFrom (2 * usU) = true → acked (.ackDue n)) ∧
       (x.unacked < 64 → s.passed x.ackFrom (2 * usU) = false → exec (.ackDue n) s = .next s) ∧
       (listens x = true ∨ x.st = .lockloss → s.prbsOn k = false → acked (.lcwDue n)) ∧
       (listens x = true → readLcw w = some 4 → ∃ u, exec (.ident n w) s = .next u ∧ u.nport k = { x with deaf := false } ∧ SameMem s u ∧
         u.reg (nbpReg k 0x18) = BitVec.ofNat 32 (2 ^ 31 + fieldOf w.toNat 12 5 * 2 ^ 24 + id) ∧
         (∀ b, s.buddy k = some b → s.fld (nbpReg b 0x18) 31 1 = 1 → s.fld (nbpReg b 0x18) 0 24 ≠ id → Raised s u 0x23 (k + id * 2 ^ 32) ∧
           Raised s u 0x23 (b + s.fld (nbpReg b 0x18) 0 24 * 2 ^ 32))) ∧
       (listens x = true → readLcw w = some 5 → ∃ u, exec (.pool n w) s = .next u ∧ u.nport k = { x with
           deaf := false, peerPool := [fieldOf w.toNat 12 7, fieldOf w.toNat 19 7, fieldOf w.toNat 26 7, fieldOf w.toNat 33 7, fieldOf w.toNat 40 7] } ∧
           SameMem s u ∧ u.outbox = s.outbox))

/-- One packet slot: a replay goes first; then a packet to be sent again, under the next SEQ, which lets nothing new pass; then the PLAN packet that is ready; control
classes get a slot when no PLAN packet is ready, and one after 32 of them; a TIME packet goes unnumbered, and t1 is taken as a REQ leaves.
PLAN packets at a port. Egress: the owner's packet is formed with its route and waits to be sent; one whose turn never comes is a conflict that halts the side. Ingress:
the oldest accepted one enters the mesh under its flow's entry when the edge router has room; of another job or rank it halts the side.
Completes, under each clause's conditions on state and operands: transmitSlot, egressPlan, ingressPlan.
Clauses that rest on the model's own choices: assumption 47. -/
def Obligations.NovboOutput : Prop :=
  (∀ (s : State) (n : BitVec 5) (sub : BitVec 8) (p : NPkt),
     let k := n.toNat
     let x := s.nport k
     let q : NPkt := { p with seq := x.txNext }
     let frame (u : State) : Prop := (∀ j, j ≠ k → u.nport j = s.nport j) ∧ SameMem s u ∧ u.tiles = s.tiles
     let fresh (u : State) : Prop := u.outbox = s.outbox ++ [.link k q] ∧ (u.nport k).buf = x.buf ++ [q] ∧ (u.nport k).txNext = (x.txNext + 1) % 4096 ∧
       smGet (u.nport k).sent p.cls 0 = (smGet x.sent p.cls 0 + p.units) % 65536 ∧ frame u
     let slot := 32 ≤ x.planSince
     let ctlTurn := slot ∨ planReady x = none
     k < s.nPorts → s.prbsOn k = false → x.st ≠ .loop →
       (∀ r, x.replaying = p :: r → carries x = true → ∃ u, exec (.transmitSlot n sub) s = .next u ∧ u.outbox = s.outbox ++ [.link k p] ∧
         u.nport k = { x with replaying := r } ∧ frame u) ∧
       (x.replaying = [] → resendHead x = some p → p.cls ≠ 2 → maySend x p = true → ∃ u, exec (.transmitSlot n sub) s = .next u ∧ fresh u ∧
         (u.nport k).resend = x.resend.erase p ∧ (u.nport k).plan = x.plan ∧ (u.nport k).ctl = x.ctl) ∧
       (x.replaying = [] → resendHead x = some p → p.cls ≠ 2 → maySend x p = false → ∃ u, exec (.transmitSlot n sub) s = .next u ∧ u.outbox = s.outbox ∧
         u.nports = s.nports ∧ SameMem s u) ∧
       (x.replaying = [] → resendHead x = none → planReady x = some p → (¬slot ∨ s.ctlReady k = none) →
         ∃ u, exec (.transmitSlot n sub) s = .next u ∧ fresh u ∧ (u.nport k).planSince = x.planSince + 1 ∧ (u.nport k).resend = x.resend ∧
           (u.nport k).plan = none) ∧
       (x.replaying = [] → resendHead x = none → ctlTurn → s.ctlReady k = some p → p ∈ x.ctl → p.cls ≠ 2 → isLbg p = false →
         ∃ u, exec (.transmitSlot n sub) s = .next u ∧ fresh u ∧ (u.nport k).ctl = x.ctl.erase p ∧ (u.nport k).ctlLast = p.cls ∧
           (u.nport k).planSince = (if slot then 0 else x.planSince)) ∧
       (x.replaying = [] → resendHead x = none → ctlTurn → s.ctlReady k = some p → p.cls = 2 → pktOp p ≠ 2 →
         ∃ u, exec (.transmitSlot n sub) s = .next u ∧ u.outbox = s.outbox ++ [.link k p] ∧ (u.nport k).buf = x.buf ∧
           (u.nport k).txNext = x.txNext ∧ (u.nport k).ctl = x.ctl.erase p ∧ frame u ∧
           (pktOp p = 1 → u.tm.reqs = s.tm.reqs.map (fun r => if r.id = pktField p 32 32 then { r with t1 := some (s.stamp sub) } else r)))) ∧
  (∀ (s : State) (n : BitVec 5) (pk : Packet) (rest : List Packet) (p : NPkt),
     let k := n.toNat
     let x := s.nport k
     let own := OwnPort.novbo n
     let site (e : IngressEntry) := ingressSite k e
     let formed (dr job path : Nat) : NPkt :=
       { drank := dr, job := job, flow := hFlow pk.hdr, path := path, off := hDaddr pk.hdr / 32, last := hLast pk.hdr
         sig := hHsig pk.hdr, epoch := s.fleet.cur.toNat, cls := 0, data := pk.data }
     k < s.nPorts →
       (x.st = .up → x.adopting = false → x.haltEgress = false → x.plan = none → x.resend = [] → x.failBuf = [] → smGet s.intakeQ (ownKey own) [] = pk :: rest →
         (s.portVerdict own (hFlow pk.hdr) = .conflict → s.fleet.job ≠ .fenced → ∃ u, exec (.egressPlan n n) s = .next u ∧ u.nport k = { x with haltEgress := true } ∧
           Raised s u 0x21 (k + 8 * 2 ^ 16 + hFlow pk.hdr * 2 ^ 32) ∧ u.intakeQ = s.intakeQ ∧ SameMem s u) ∧
         (s.portVerdict own (hFlow pk.hdr) = .wait → exec (.egressPlan n n) s = .next s) ∧
         (∀ dr job w, s.portVerdict own (hFlow pk.hdr) = .forward → s.ownerEntry own = some (dr, job) → s.fleet.job ≠ .fenced → s.rankRoute dr = some w →
           routeFenced w = false → routePort w = k → pathHops (routePath w) = 0 → ∃ u, exec (.egressPlan n n) s = .next u ∧
             smGet u.intakeQ (ownKey own) [] = rest ∧ SameMem s u ∧
             u.nport k = { x with plan := some (formed dr job (routePath w), pk, k) })) ∧
       (x.pool.find? (fun p => p.cls = 0) = some p → x.haltIngress = false → x.adopting = false → x.waitMarker = false → s.fld (mgtReg 0xA024) k 1 = 0 →
         s.fleet.job ≠ .fenced →
         (s.ingressEntry k p.flow = none ∧ (∀ b, s.buddy k = some b → (s.nport b).waitMarker = false) ∨
           (∃ e, s.ingressEntry k p.flow = some e ∧ (p.job ≠ s.jobId ∨ p.drank ≠ s.ownRank)) →
           ∃ u, exec (.ingressPlan n) s = .next u ∧ u.nport k = { x with haltIngress := true } ∧
             Raised s u 0x21 (k + 2 ^ 8 + 8 * 2 ^ 16 + p.flow * 2 ^ 32) ∧ SameMem s u ∧ u.routers = s.routers) ∧
         (∀ e, s.ingressEntry k p.flow = some e → p.job = s.jobId → p.drank = s.ownRank →
           p.data.length + 1 ≤ s.roomAt (site e).1 (site e).2 0 → s.inputFree (site e).1 (site e).2 = true → s.inputClean (site e).1 (site e).2 0 = true → ∃ u h, exec (.ingressPlan n) s = .next u ∧
             (u.nport k).pool = x.pool.erase p ∧ SameMem s u ∧
             (u.router (site e).1).queue (site e).2 0 = (s.router (site e).1).queue (site e).2 0 ++
               (⟨h, true, false, (site e).1⟩ :: p.data.map (fun f => ⟨f.1, false, f.2, (site e).1⟩)))))

/-- The states of a port: training ends UP, or in PROBATION after the first time, with SEQ begun anew, or DOWN; loss of lock, its return and its timer; ENABLE and LOOP;
the end of probation; CLEAR of a port halt.
Failover: the first TAKEOVER of an adopting buddy's exchange hands it what its peer has not had of the down port's packets; it repeats its own until the exchange has
ended; after HANDBACK the port is UP again and the marker follows the adopted packets. The optics sideband shows its readings; an access that GO starts runs on the
group's bus, after those of the group's lower ports.
Completes, under each clause's conditions on state and operands: portTraining, portRetry, retrain, takeover, portHaltClear, lockLoss, lockRegained, portDown, portEnableWrite, loopWrite, takeoverSend, probationEnd, handback, opticsPoll, opticsAccess.
Clauses that rest on the model's own choices: assumptions 43, 46, 47, 79, 82. -/
def Obligations.NovboPorts : Prop :=
  (∀ (s : State) (n : BitVec 5) (lane : BitVec 2) (slow : Bool) (depth : BitVec 3),
     let k := n.toNat
     let x := s.nport k
     let lost := x.lanes &&& ~~~(1#4 <<< lane.toNat)
     let got := x.lanes ||| (1#4 <<< lane.toNat)
     let goes (i : Instr) (st : NSt) : Prop := ∃ u, exec i s = .next u ∧ (u.nport k).st = st ∧ SameMem s u ∧ u.tiles = s.tiles
     let expired := s.passed x.lockFrom (s.fld (nbpReg k 4) 0 10 * usU)
     let d0 := s.fld (nbpReg k 0) 26 3
     let d := if 5 < depth.toNat then 0 else depth.toNat
     k < s.nPorts →
       (x.st = .train → exec (.portTraining n none) s = .next (s.setNport k { x with st := .down, lanes := 0, downFrom := s.tm.run }) ∧
         ∃ u, exec (.portTraining n (some slow)) s = .next u ∧ (u.nport k).st = (if x.trained then .probation else .up) ∧ (u.nport k).trained = true ∧
           (u.nport k).lanes = 0xF ∧ (u.nport k).exp = 0 ∧ (u.nport k).txNext = 0 ∧ (u.nport k).buf = [] ∧ (u.nport k).failBuf = x.failBuf ∧
           (u.nport k).resend = x.resend ∧ (u.nport k).prob = (if x.trained then 1000000 else 0) ∧ (∀ j, j ≠ k → u.nport j = s.nport j) ∧ SameMem s u) ∧
       (x.st = .down → s.domain 3 k = .run →
         (s.passed x.downFrom (100000 * usU) = true → exec (.portRetry n) s = .next (s.setNport k { x with st := .train })) ∧
         (s.passed x.downFrom (100000 * usU) = false → exec (.portRetry n) s = .next s) ∧
         (s.reaches = true → exec (.retrain n) s = .next (s.setNport k { x with st := .train }))) ∧
       exec (.lockLoss n lane) s = .next (s.setNport k { x with
         lanes := lost, lockFrom := if x.lanes = 0xF then s.tm.run else x.lockFrom
         downFrom := if x.st = .probation then s.tm.run else x.downFrom
         st := if x.st = .up then .lockloss else if x.st = .probation then .down else x.st }) ∧
       exec (.lockRegained n lane) s = .next (s.setNport k { x with lanes := got, st := if x.st = .lockloss ∧ got = 0xF then .up else x.st }) ∧
       (expired = false → exec (.portDown n) s = .next s) ∧
       (x.lanes ≠ 0xF → (x.st = .lockloss ∨ x.st = .handback) → expired = true → ∃ u, exec (.portDown n) s = .next u ∧ (u.nport k).st = .down ∧
         outstanding (u.nport k) = outstanding x ∧ Raised s u 0x20 (k + 2 ^ 8) ∧ SameMem s u ∧ u.tiles = s.tiles) ∧
       (s.writable 3 k = true → goes (.portEnableWrite n true) (if x.st = .off then .train else x.st)) ∧
       (s.writable 3 k = true → goes (.portEnableWrite n false) (if x.st = .loop ∨ x.st = .off then x.st else .off)) ∧
       (s.writable 3 k = true → goes (.loopWrite n depth) (if x.st = .loop ∧ d = d0 then .loop else if 0 < d then .loop
         else if x.st = .loop then (if s.fld (nbpReg k 0) 0 1 = 1 then .train else .off) else x.st)) ∧
       (x.st = .probation → x.prob = 0 → goes (.probationEnd n) .handback) ∧
       (s.writable 3 k = true → x.haltEgress = true ∨ x.haltIngress = true → ∃ u, exec (.portHaltClear n) s = .next u ∧ (u.nport k).haltEgress = false ∧
         (u.nport k).haltIngress = false ∧ u.reg (nbpReg k 0x20) = 0 ∧ SameMem s u)) ∧
  (∀ (s : State) (n : BitVec 5) (w : Dword) (b : Nat) (present alarm : Bool) (temp : BitVec 8) (ans : Option (BitVec 8)) (rx : BitVec 16) (v : Word),
     let k := n.toNat
     let x := s.nport k
     let y := s.nport b
     k < s.nPorts →
       (s.buddy k = some b → x.adopting = true → carries y = false → x.exch.got = false → listens x = true → x.st ≠ .loop → x.failBuf = [] →
         readLcw w = some 3 → ∀ p r, y.failBuf = p :: r → (fieldOf w.toNat 12 12 + 4096 - p.seq) % 4096 < y.failBuf.length →
           ∃ u, exec (.takeover n w) s = .next u ∧
             (u.nport k).resend = x.resend ++ y.failBuf.drop ((fieldOf w.toNat 12 12 + 4096 - p.seq) % 4096 + 1) ++ y.resend ∧
             (u.nport k).exch.got = true ∧ (u.nport b).failBuf = [] ∧ (u.nport b).resend = [] ∧ SameMem s u ∧
             ∀ j, j ≠ k → j ≠ b → u.nport j = s.nport j) ∧
       (s.buddy k = some b → x.adopting = true → x.exch.stopped = false → (∀ c, x.exch.sentAt = some c → s.passed c (2 * usU) = true) →
         exec (.takeoverSend n) s = .next
         (({ s with outbox := s.outbox ++ [.lcw k (takeoverWord y x.exch.got)] } : State).setNport k { x with exch := { x.exch with
           sentSeen := x.exch.sentSeen || x.exch.got, stopped := x.exch.got && x.exch.gotSeen, sentAt := some s.tm.run } })) ∧
       (∀ c, x.exch.sentAt = some c → s.passed c (2 * usU) = false → exec (.takeoverSend n) s = .next s) ∧
       (∀ b0, x.switched = some b0 → x.st = .handback → s.replaySince b0 = true →
         (s.buddy k = none → exec (.handback n) s = .next (s.setNport k (backUp x))) ∧
         (s.buddy k = some b → y.adopting = false → exec (.handback n) s = .next (s.setNport k { backUp x with waitMarker := false })) ∧
         (s.buddy k = some b → y.adopting = true → (s.port (.novbo n)).st = .done → y.resend = [] → y.plan = none →
           ∃ u, exec (.handback n) s = .next u ∧ u.nport k = backUp x ∧
             u.nport b = { y with adopting := false, ctl := y.ctl ++ [markerPkt] } ∧ SameMem s u ∧ u.outbox = s.outbox)) ∧
       (s.awake = true → ∃ u, exec (.opticsPoll n present alarm temp rx) s = .next u ∧
         u.quiet = { s.quiet with outbox := s.outbox ++ [.optics (opticsBus k) (.channel (opticsChannel k))] } ∧ u.reg (nbpReg k 0x74) =
         BitVec.ofNat 32 (bit present * 2 ^ 31 + bit alarm * 2 ^ 30 + temp.toNat * 2 ^ 16 + rx.toNat)) ∧
       (let a := nbpReg k 0x70
        let go := s.fld a 31 1
        let write := decide (s.fld a 30 1 = 1)
        let page := s.fld a 16 8
        let addr := s.fld a 8 8
        let data := s.fld a 0 8
        (go = 1 → exec (.opticsAccess n (.write v)) s = .next s) ∧
        (s.writable 3 k = true → s.awake = true → go = 0 → exec (.opticsAccess n (.write v)) s = .next (s.setReg a ((v &&& 0xC0FFFFFF#32) ||| (s.reg a &&& 0x20000000#32)))) ∧
        (go = 0 ∨ s.opticsWaits k = true → exec (.opticsAccess n (.answer ans)) s = .next s) ∧
        (s.awake = true → go = 1 → s.opticsWaits k = false → ∃ u, exec (.opticsAccess n (.answer ans)) s = .next u ∧ u.nports = s.nports ∧ SameMem s u ∧
          u.reg a = BitVec.ofNat 32 (bit write * 2 ^ 30 + bit ans.isNone * 2 ^ 29 + page * 2 ^ 16 + addr * 2 ^ 8 +
            (match ans with | some q => if write then data else q.toNat | none => data)) ∧
          u.outbox = s.outbox ++ [.optics (opticsBus k) (.channel (opticsChannel k))] ++
            (if 0x80 ≤ addr then [.optics (opticsBus k) (.page page)] else []) ++
            [.optics (opticsBus k) (if write then .write addr data else .read addr)])))

/-- The start of a job: PREPARE goes down the tree, ACKs come up, COMMIT goes down; a NACK, an ABORT, a missing ACK at the root and a missing COMMIT abort it.
Completes, under each clause's conditions on state and operands: prepare, startAck, startNack, commit, abort, noAck, abortedNoCommit.
Clauses that rest on the model's own choices: assumptions 49, 51. -/
def Obligations.JobStart : Prop :=
  ∀ (s : State) (r : SetupRec) (m : SyncMsg) (came : Nat),
    let next (op : Nat) : Prop := s.fleet.syncIn.find? (fun q => q.1.op = op) = some (m, came)
    let s1 : State := { s with fleet := { s.fleet with syncIn := s.fleet.syncIn.erase (m, came) } }
    let goes (i : Instr) (st : JobSt) : Prop := ∃ u, exec i s = .next u ∧ u.fleet.job = st ∧ u.fleet.setup = some r ∧ u.tileMem = s.tileMem ∧
      u.tiles = s.tiles ∧ ((st = .committed ∨ st = .aborted) → s.events.length + 16 ≤ 1024 → ∃ e ∈ u.events, e.type = 0x30)
    let acks := s.fleet.acks ++ [m.srank]
    s.fleet.setup = some r →
      (next 1 → s.fleet.job = .setup → s1.prepareCheck r m = 0 → goes .prepare (if r.children = [] then .prepared else .preparing)) ∧
      (next 1 → s.fleet.job = .setup → s1.prepareCheck r m ≠ 0 → goes .prepare .aborted) ∧
      (next 2 → s.fleet.job = .preparing → m.srank ∈ r.children → m.srank ∉ s.fleet.acks →
        ((∃ c ∈ r.children, c ∉ acks) → goes .startAck .preparing ∧ ∀ u, exec .startAck s = .next u → u.fleet.acks = acks) ∧
        ((∀ c ∈ r.children, c ∈ acks) → goes .startAck
          (if r.root = false then .prepared else if came + 199 ≤ s.tStart then .committed else .aborted))) ∧
      (next 3 → s.fleet.job = .preparing → m.srank ∈ r.children → goes .startNack .aborted) ∧
      (next 4 → s.fleet.job = .prepared → m.srank = r.parent ∨ m.srank = r.sparent →
        goes .commit (if s.tStart ≤ came + 99 ∧ s.tm.pre = false then .aborted else .committed)) ∧
      (next 5 → (s.fleet.job = .setup ∨ s.fleet.job = .preparing ∨ s.fleet.job = .prepared) → goes .abort .aborted) ∧
      (r.root = true → s.fleet.job = .preparing → s.tStart ≤ s.beat.toNat + 199 → s.tm.pre = false →
        ((∃ c ∈ r.children, c ∉ s.fleet.acks ∧ s.syncCame 2 c (s.tStart - 199) = false) → goes .noAck .aborted) ∧
        ((∀ c ∈ r.children, c ∈ s.fleet.acks ∨ s.syncCame 2 c (s.tStart - 199) = true) → exec .noAck s = .next s)) ∧
      (s.fleet.job = .preparing ∨ s.fleet.job = .prepared → s.tStart ≤ s.beat.toNat + 99 → s.tm.pre = false →
        (s.fleet.job = .prepared → s.syncCame 4 r.parent (s.tStart - 100) = false ∧ s.syncCame 4 r.sparent (s.tStart - 100) = false) →
        goes .abortedNoCommit .aborted) ∧
      (s.fleet.job = .prepared → s.syncCame 4 r.parent (s.tStart - 100) = true ∨ s.syncCame 4 r.sparent (s.tStart - 100) = true →
        exec .abortedNoCommit s = .next s) ∧
      (s.beat.toNat + 99 < s.tStart → exec .abortedNoCommit s = .next s)

/-- A committed job runs when beat T_START begins and orders the first replay of its first segment with that base beat. Actions take effect in the order of their beats and
kinds, each once its beat has begun: a switch of route epoch for mesh and rank table together, the fence and unfence of a rank, the switch of staged layers, the end of a
job. The first copy of an ACTION packet waits for the next acceptance round; a further copy does nothing.
Completes, under each clause's conditions on state and operands: syncAction, jobRun, epochSwitch, fenceRank, unfenceRank, swapLayersAction, jobEnd.
Clauses that rest on the model's own choices: assumptions 50, 51. -/
def Obligations.JobActions : Prop :=
  ∀ (s : State) (a : Action) (r : SetupRec) (g : Segment) (m : SyncMsg) (came : Nat),
    let due (kind : Nat) : Prop := s.dueAction = some a ∧ a.kind = kind ∧ a.cmd = none
    let rank := a.arg % 2 ^ 20
    let taken (u : State) : Prop := u.fleet.actions = s.fleet.actions.erase a ∧ SameMem s u ∧ u.tiles = s.tiles
    let ends := s.fleet.job = .running ∨ s.fleet.job = .fenced ∨ s.fleet.job = .aborted
    let marked (u : State) (f : Bool) : Prop := ∀ b < 2, matchesRank (s.rankWord b rank) rank = true → routeFenced (u.rankWord b rank).toNat = f
    (s.fleet.job = .committed → s.gateOpen s.tStart = true → s.fleet.setup = some r → s.findSeg (BitVec.ofNat 16 (r.segs.headD 0xFFFF)) = some g →
      ∃ u, exec .jobRun s = .next u ∧ u.fleet.job = .running ∧ SameMem s u ∧ u.tiles = s.tiles ∧
        u.replays = s.replays ++ [⟨g.id, g.slot, g.counter, 1, s.tStart, 0, none, false, g.tiles, [], []⟩]) ∧
    (s.gateOpen s.tStart = false → exec .jobRun s = .next s) ∧
    (due 1 → ∃ u, exec .epochSwitch s = .next u ∧ taken u ∧ u.fleet.cur = BitVec.ofNat 2 a.arg ∧
      ∀ c < s.nClusters, (u.cluster c).epoch = BitVec.ofNat 2 a.arg) ∧
    (due 2 → ∃ u, exec .fenceRank s = .next u ∧ taken u ∧ marked u true ∧
      u.fleet.job = (if rank = s.ownRank ∧ s.fleet.job = .running then .fenced else s.fleet.job)) ∧
    (due 3 → ∃ u, exec .unfenceRank s = .next u ∧ taken u ∧ marked u false ∧
      u.fleet.job = (if rank = s.ownRank ∧ s.fleet.job = .fenced then .running else s.fleet.job)) ∧
    (due 5 → ∃ u, exec .jobEnd s = .next u ∧ taken u ∧ u.fleet.job = (if ends then .none else s.fleet.job) ∧ (ends → u.fleet.setup = none)) ∧
    (due 4 → ∀ w man, (s.slotOf (a.arg % 8)).swap = some w → w.fleet = true → w.man = man → man.version = a.arg / 2 ^ 32 → a.arg % 2 ^ 32 / 8 = 0 →
      (s.slotOf (a.arg % 8)).st = .ready → (s.slotOf (a.arg % 8)).stage = .staged →
      ∃ u, exec .swapLayersAction s = .next u ∧ taken u ∧ (u.slotOf (a.arg % 8)).swap = some { w with released := true }) ∧
    (s.fleet.syncIn.find? (fun q => q.1.op = 6) = some (m, came) → s.fleet.forwarded.contains { m with srank := 0 } = false → s.fleet.setup = none →
      ∃ u, exec .syncAction s = .next u ∧ u.host.orders = s.host.orders ++ [(true, actionDesc (m.orank % 256) m.beat m.arg)] ∧
        u.fleet.syncIn = s.fleet.syncIn.erase (m, came) ∧ { m with srank := 0 } ∈ u.fleet.forwarded ∧ u.host.next = s.host.next ∧ SameMem s u) ∧
    (s.fleet.syncIn.find? (fun q => q.1.op = 6) = some (m, came) → s.fleet.forwarded.contains { m with srank := 0 } = true →
      ∃ u, exec .syncAction s = .next u ∧ u.host.orders = s.host.orders ∧ u.fleet.syncIn = s.fleet.syncIn.erase (m, came) ∧
        u.fleet.actions = s.fleet.actions ∧ SameMem s u)

/-- The doorbells at full ready: a submission doorbell sets TAIL, a consumer doorbell releases the slots up to its index, and an index that the ring cannot have sets
DB_ERR and does nothing else; a disabled ring takes none. Enabling a ring starts it anew, its size taken only while it is disabled.
Completes, under each clause's conditions on state and operands: submissionDoorbell, completionDoorbell, eventDoorbell, ringEnableWrite.
Clauses that rest on the model's own choices: assumption 53. -/
def Obligations.Doorbells : Prop :=
  ∀ (s : State) (b : BitVec 6) (v : Word) (ring : BitVec 7),
    let k := b.toNat
    let error (i : Instr) : Prop := exec i s = .next (s.setBit (hifReg 4) 31)
    let freed (cfg : Nat) (r : PRing) : Nat := let n := s.ringSize cfg; (v.toNat + n - (r.prod + n - r.used) % n) % n
    let consumer (cfg : Nat) (r : PRing) (i : Instr) (put : PRing → State) : Prop :=
      (s.ringOn cfg = false → exec i s = .next s) ∧
      (s.ringOn cfg = true → v.toNat < s.ringSize cfg → freed cfg r ≤ r.used → exec i s = .next (put { r with used := r.used - freed cfg r })) ∧
      (s.ringOn cfg = true → (s.ringSize cfg ≤ v.toNat ∨ r.used < freed cfg r) → error i)
    let cfg := if ring.toNat < 64 then sqReg ring.toNat 8 else if ring.toNat = 64 then hifReg 0x18 else hifReg 0x28
    let on := decide (fieldOf v.toNat 31 1 = 1)
    s.awake = true → s.fnServes 0 = true → s.ready = true →
      (s.ringOn (sqReg k 8) = false → exec (.submissionDoorbell b v) s = .next s) ∧
      (s.ringOn (sqReg k 8) = true → v.toNat < s.ringSize (sqReg k 8) →
        exec (.submissionDoorbell b v) s = .next (s.setSq k { s.sq k with tail := v.toNat })) ∧
      (s.ringOn (sqReg k 8) = true → s.ringSize (sqReg k 8) ≤ v.toNat → error (.submissionDoorbell b v)) ∧
      consumer (hifReg 0x18) s.host.cq (.completionDoorbell v) (fun r => { s with host := { s.host with cq := r } }) ∧
      consumer (hifReg 0x28) s.host.eq (.eventDoorbell v) (fun r => { s with host := { s.host with eq := r } }) ∧
      (ring.toNat < 66 → ∃ u, exec (.ringEnableWrite ring v) s = .next u ∧ u.ringOn cfg = on ∧ SameMem s u ∧ u.host.cmds = s.host.cmds ∧
        (s.ringOn cfg = true → u.ringSize cfg = s.ringSize cfg) ∧
        (s.ringOn cfg = false → 6 ≤ v.toNat % 32 → v.toNat % 32 ≤ 16 → u.ringSize cfg = 2 ^ (v.toNat % 32)) ∧
        (s.ringOn cfg = false → on = true → (ring.toNat < 64 → u.sq ring.toNat = ⟨0, 0⟩) ∧ (ring.toNat = 64 → u.host.cq = PRing.reset) ∧
          (ring.toNat = 65 → u.host.eq = PRing.reset)))

/-- Acceptance: a command gets the next sequence number and a journal entry with its descriptor's chain, and completes at once with the status that refuses it. A round, one to
a beat, accepts at most 256, none under HOLD, and numbers them on. An order of the management controller, and an ACTION of
the fleet, wait for a round, which posts the ACTION.
Completes, under each clause's conditions on state and operands: acceptanceRound, mctpOrder.
Clauses that rest on the model's own choices: assumptions 30, 53. -/
def Obligations.Acceptance : Prop :=
  ∀ (s : State) (ring dseq : Nat) (desc : List Byte) (readErr : List (BitVec 8)) (mirrorFail : Option (BitVec 8)) (kind b arg : Nat),
    let seq := s.host.next
    let head := entryHead seq ring (field desc 0 2) dseq s.beat.toNat (if ring = 0xFC then 0 else field desc 8 8)
    let a := s.accept ring dseq desc false
    (s.MemOk → s.vaultServes 0 = true → s.findCmd seq = none →
      a.host.next = seq + 1 ∧ a.host.chain = chainOf s.host.chain head desc ∧ memRead a.devMem (jrnAddr seq) 32 = head ∧
      memRead a.devMem (jrnAddr seq + 0x30) 16 = leBytes 16 a.host.chain.toNat ∧
      (s.refusal seq ring desc = 0 → ∃ c, a.findCmd seq = some c ∧ c.payload = desc.drop 16 ∧ c.started = false ∧ c.ring = ring) ∧
      (s.refusal seq ring desc ≠ 0 → a.findCmd seq = none ∧ (ring < 64 → ∃ e ∈ a.host.waiting, e.seq = seq ∧ e.status = s.refusal seq ring desc))) ∧
    (s.ready = true → s.tm.pre = false → s.host.roundBeat ≠ some s.beat.toNat → ∃ u, exec (.acceptanceRound readErr mirrorFail) s = .next u ∧
      u.host.roundBeat = some s.beat.toNat ∧ u.host.roundCnt ≤ 256 ∧ u.host.next = s.host.next + u.host.roundCnt ∧ u.tileMem = s.tileMem ∧
      u.tiles = s.tiles ∧ (s.fld (hifReg 0) 31 1 = 1 → u.host.roundCnt = 0 ∧ u.host.cmds = s.host.cmds ∧ u.host.orders = s.host.orders)) ∧
    (s.ready = false ∨ s.tm.pre = true ∨ s.host.roundBeat = some s.beat.toNat → exec (.acceptanceRound readErr mirrorFail) s = .next s) ∧
    (s.mctpUp = true → desc.length = 64 →
      exec (.mctpOrder desc) s = .next { s with host := { s.host with orders := s.host.orders ++ [(false, desc)] } }) ∧
    (s.mctpUp = false → exec (.mctpOrder desc) s = .next s) ∧
    (s.ready = true → s.tm.pre = false → s.host.roundBeat ≠ some s.beat.toNat → s.fld (hifReg 0) 31 1 = 0 → s.hostLadleUp 0 = false →
      s.host.cmds.length + s.host.waiting.length < 32768 → s.findCmd seq = none → s.host.orders = [(true, actionDesc kind b arg)] →
      1 ≤ kind → kind ≤ 5 → s.beat.toNat + 2 ≤ b → b < 2 ^ 48 → arg < 2 ^ 64 → s.fleet.actions.length < 16 →
      ∃ u, exec (.acceptanceRound [] none) s = .next u ∧ u.host.roundCnt = 1 ∧ u.host.orders = [] ∧
        u.fleet.actions = s.fleet.actions ++ [⟨kind, b, arg, some seq⟩])

/-- Completion entries and events are written to their rings in the order in which they wait, while the ring is enabled and has a slot and host Ladle HL0 moves data, with the phase of the lap; an event for which there is
no room is lost, and the next one written says so, but a TILE_HALT of this device never is; a forwarded event joins them as REMOTE. MSI-X: a vector due is sent, or pends while masked.
Completes, under each clause's conditions on state and operands: completionWrite, eventWrite, msixMessage, forwardedEventReceive.
Clauses that rest on the model's own choices: assumptions 53, 77. -/
def Obligations.HostRings : Prop :=
  ∀ (s : State) (c : Completion) (cs : List Completion) (e : Event) (es : List Event) (p : NPkt) (ps : List NPkt) (vector : BitVec 11),
    let v := vector.toNat
    let room (n : Nat) (r : PRing) : Prop := r.used < n
    let next (r u : PRing) (n : Nat) : Prop := u.prod = (r.prod + 1) % n ∧ u.used = r.used + 1 ∧ u.phase = (if r.prod + 1 = n then !r.phase else r.phase)
    let cqN := s.ringSize (hifReg 0x18)
    let eqN := s.ringSize (hifReg 0x28)
    let came : Event := { type := pktField p 0 16, rank := pktField p 32 20, beat := pktField p 64 48, detail := pktField p 128 128, remote := true }
    let others := (s.events.filter (fun x => !x.ownHalt)).length
    (s.host.waiting = c :: cs → s.ringOn (hifReg 0x18) = true → room cqN s.host.cq → s.hostLadleUp 0 = true → ∃ u, exec .completionWrite s = .next u ∧ u.host.waiting = cs ∧
      u.hostMem = memWrite s.hostMem (s.pair (hifReg 0x10) + 32 * s.host.cq.prod) (completionEntry c s.host.cq.phase (s.sqHead c.ring)) ∧
      next s.host.cq u.host.cq cqN ∧ u.tileMem = s.tileMem ∧ u.devMem = s.devMem) ∧
    (s.ringOn (hifReg 0x18) = false ∨ cqN ≤ s.host.cq.used ∨ s.hostLadleUp 0 = false → exec .completionWrite s = .next s) ∧
    (s.evForward = [] → s.events = e :: es → s.ringOn (hifReg 0x28) = true → room eqN s.host.eq → s.hostLadleUp 0 = true → ∃ u, exec .eventWrite s = .next u ∧ u.events = es ∧
      u.evLost = false ∧ u.hostMem = memWrite s.hostMem (s.pair (hifReg 0x20) + 32 * s.host.eq.prod) (eventEntry e s.host.eq.phase s.evLost) ∧
      next s.host.eq u.host.eq eqN ∧ u.tileMem = s.tileMem ∧ u.devMem = s.devMem) ∧
    (e.ownHalt = true ∨ others < 1024 → s.queueEvent e = { s with events := s.events ++ [e] }) ∧
    (e.ownHalt = false → 1024 ≤ others → (s.queueEvent e).events = s.events ∧ (s.queueEvent e).evLost = true) ∧
    (s.fleet.mgmtIn = p :: ps → exec .forwardedEventReceive s = .next (({ s with fleet := { s.fleet with mgmtIn := ps } } : State).queueEvent came)) ∧
    (v ∈ s.host.pba → s.vectorMasked v = false → ∃ u, exec (.msixMessage vector) s = .next u ∧ u.outbox = s.outbox ++ [.msix v] ∧
      u.host.pba = s.host.pba.erase v ∧ SameMem s u) ∧
    (v = 0 → 0 ∉ s.host.pba → s.vectorDue s.host.cq 16 = true → ∃ u, exec (.msixMessage vector) s = .next u ∧ u.host.cq = { s.host.cq with unsent := 0 } ∧
      u.outbox = (if s.vectorMasked 0 then s.outbox else s.outbox ++ [.msix 0]) ∧ u.host.pba = (if s.vectorMasked 0 then 0 :: s.host.pba else s.host.pba))

/-- NOP, COPY, POWER_CAP and the tile fences: what each does once it is ready and the status with which it completes. COPY puts its transfers into
channels of the vault's Ladle and of HL0, and waits where one has no free slot, unless its range or the host Ladle refuses.
The job commands: JOB_SETUP holds the record with its origin unless it is malformed or a job stands; START_JOB at the root prepares, commits at once without children, or aborts when late; ACTION is posted, or
refused when it is late, when sixteen wait, or for its kind; JOB_CLEAR ends a job that has not begun or has run.
Completes, under each clause's conditions on state and operands: nop, copy, jobSetup, startJob, action, jobClear, fenceTile, reinstateTile, powerCap.
Clauses that rest on the model's own choices: assumptions 50, 51, 52, 54, 55, 56. -/
def Obligations.PlainCommands : Prop :=
  (∀ (s : State) (seq : Dword) (c : Cmd),
     let n := seq.toNat
     let f := field c.payload
     let ready (op : Nat) : Prop := s.cmdReady n op = some c
     let done (i : Instr) (status : Nat) : Prop := ∃ u, exec i s = .next u ∧ Completed s u n status ∧ u.tileMem = s.tileMem ∧ u.tiles = s.tiles
     let dev := f 8 8
     let parts := copyParts (f 0 8) dev (f 16 4) (c.seq % 2 ^ 16) s.copyChannel (decide (f 20 1 = 1))
     let stop := s.rangeStop dev (64 * f 16 4)
     let t := f 0 2
     (ready 0 → done (.nop seq) 0) ∧
     (ready 1 → stop ≠ 0 → done (.copy seq) stop) ∧
     (ready 1 → stop = 0 → s.domain 6 0 ≠ .run → done (.copy seq) 8) ∧
     (ready 1 → stop = 0 → s.domain 6 0 = .run →
       ((∃ p ∈ parts, s.channelTakes p.1 p.2.1 = false) → exec (.copy seq) s = .next s) ∧
       ((∀ p ∈ parts, (s.lchan p.1 p.2.1).st ≠ .fault ∧ (s.lchan p.1 p.2.1).slots.length < 4 ∧ s.fld (ldlReg p.1 0) 31 1 = 0) →
         ∃ u, exec (.copy seq) s = .next u ∧ (∀ p ∈ parts, (u.lchan p.1 p.2.1).slots = (s.lchan p.1 p.2.1).slots ++ [(p.2.2, some n)]) ∧
           u.findCmd n = some { c with started := true, left := parts.length } ∧ SameMem s u ∧ u.tiles = s.tiles)) ∧
     (ready 0x23 → ∃ u, exec (.powerCap seq) s = .next u ∧ Completed s u n 0 ∧ u.fld (pwrReg 4) 0 16 = f 0 2 ∧ u.fld (pwrReg 4) 16 16 = f 2 2) ∧
     (ready 0x20 → s.tileOk t = false → done (.fenceTile seq) 3) ∧
     (ready 0x20 → s.tileOk t = true → ∃ u, exec (.fenceTile seq) s = .next u ∧ u.host.fences = s.host.fences ++ [⟨t, f 8 8, n⟩] ∧ SameMem s u) ∧
     (ready 0x21 → s.tileOk t = false → done (.reinstateTile seq) 3) ∧
     (ready 0x21 → s.tileOk t = true → (s.router t).col = .opened → done (.reinstateTile seq) 0) ∧
     (ready 0x21 → s.tileOk t = true → ∀ b, (s.router t).col = .pendingTo b → done (.reinstateTile seq) 0x000A) ∧
     (ready 0x21 → s.tileOk t = true → (s.router t).col = .fenced → ∃ u, exec (.reinstateTile seq) s = .next u ∧
       u.router t = { s.router t with col := .pendingTo (BitVec.ofNat 48 (f 8 8)) } ∧ smGet u.host.reinstates t 0 = n ∧ SameMem s u) ∧
     (∀ op, s.cmdReady n op = none → (op = 0 → exec (.nop seq) s = .next s) ∧ (op = 1 → exec (.copy seq) s = .next s) ∧
       (op = 0x23 → exec (.powerCap seq) s = .next s) ∧ (op = 0x20 → exec (.fenceTile seq) s = .next s) ∧
       (op = 0x21 → exec (.reinstateTile seq) s = .next s))) ∧
  (∀ (s : State) (seq : Dword) (c : Cmd) (r : SetupRec),
     let n := seq.toNat
     let f := field c.payload
     let ready (op : Nat) : Prop := s.cmdReady n op = some c
     let rec_ := s.hostRead (f 0 8) 128
     let ends (i : Instr) (status : Nat) (job : JobSt) : Prop := ∃ u, exec i s = .next u ∧ Completed s u n status ∧ u.fleet.job = job ∧ u.tiles = s.tiles ∧
       u.tileMem = s.tileMem
     let stands (i : Instr) (job : JobSt) : Prop := ∃ u, exec i s = .next u ∧ u.fleet.job = job ∧ u.fleet.setup = some r ∧ u.tiles = s.tiles
     let free := s.fleet.job = .none ∨ s.fleet.job = .aborted
     let cause := if f 8 8 < c.acceptBeat + 2 then 1 else if 16 ≤ s.fleet.actions.length then 2 else if f 0 1 = 0 ∨ 5 < f 0 1 then 3 else 0
     (ready 0x10 → ends (.jobSetup seq true) 6 s.fleet.job) ∧
     (ready 0x10 → setupBad rec_ = true → ends (.jobSetup seq false) 0x20 s.fleet.job) ∧
     (ready 0x10 → setupBad rec_ = false → ¬free → ends (.jobSetup seq false) 0x21 s.fleet.job) ∧
     (ready 0x10 → setupBad rec_ = false → free → ∃ u, exec (.jobSetup seq false) s = .next u ∧ Completed s u n 0 ∧ u.fleet.job = .setup ∧
       u.fleet.setup = some (setupRec rec_) ∧ u.tm.origin = field rec_ 0x10 8 * 1000000000 + field rec_ 0x18 4 % 2 ^ 30 ∧ u.tm.isLocal = false) ∧
     (ready 0x11 → s.fleet.setup = none → ends (.startJob seq) 0x21 s.fleet.job) ∧
     (ready 0x11 → s.fleet.setup = some r → (r.root = false ∨ s.fleet.job ≠ .setup) → ends (.startJob seq) 0x21 s.fleet.job) ∧
     (ready 0x11 → s.fleet.setup = some r → r.root = true → s.fleet.job = .setup →
       stands (.startJob seq) (if s.tStart < s.beat.toNat + 199 then .aborted else if r.children = [] then .committed else .preparing)) ∧
     (ready 0x12 → f 1 1 = 0 → cause = 0 → ∃ u, exec (.action seq) s = .next u ∧ u.fleet.actions = s.fleet.actions ++ [⟨f 0 1, f 8 8, f 0x10 8, some n⟩] ∧
       SameMem s u ∧ u.tiles = s.tiles) ∧
     (ready 0x12 → f 1 1 = 0 → cause ≠ 0 → ∃ u, exec (.action seq) s = .next u ∧ Completed s u n 0x23 ∧ u.fleet.actions = s.fleet.actions ∧
       Raised s u 0x31 (f 0 1 + cause * 2 ^ 8 + f 8 8 * 2 ^ 64)) ∧
     (ready 0x13 → (s.fleet.job = .running ∨ s.fleet.job = .fenced ∨ s.fleet.job = .aborted ∨ s.fleet.job = .setup ∨ s.fleet.job = .none) →
       ends (.jobClear seq) 0 .none) ∧
     (ready 0x13 → (s.fleet.job = .preparing ∨ s.fleet.job = .prepared ∨ s.fleet.job = .committed) → ends (.jobClear seq) 0x21 s.fleet.job))

/-- SEG_LOAD, SEG_UNLOAD and REPLAY. A load completes with the first check that the image fails, or holds the segment with its counter at 0 and its streams in the slot, once no tile of it is being filled with zeros; an unload needs the segment in the named
slot and no tile running it; a replay needs the segment loaded and no tile of it HALTED, and orders N replays from the segment's counter on.
Completes, under each clause's conditions on state and operands: segLoad, segUnload, replay.
Clauses that rest on the model's own choices: assumptions 30, 54, 57, 58. -/
def Obligations.SegmentCommands : Prop :=
  ∀ (s : State) (seq : Dword) (c : Cmd) (g : Segment),
    let n := seq.toNat
    let f := field c.payload
    let ready (op : Nat) : Prop := s.cmdReady n op = some c
    let id := BitVec.ofNat 16 (f 0 2)
    let img := readImage (s.hostRead (f 0 8) (f 8 8))
    let why := s.imageStatus img (f 8 8)
    let xs := (fromTo 0 (f 0x20 2)).map (fun i => patchOf (s.hostNat (f 0x18 8 + 8 * i) 8))
    let ends (i : Instr) (status : Nat) : Prop := ∃ u, exec i s = .next u ∧ Completed s u n status ∧ u.segs = s.segs ∧ u.replays = s.replays ∧
      u.tiles = s.tiles ∧ u.tileMem = s.tileMem
    (ready 2 → why ≠ 0 → ends (.segLoad seq false) why) ∧
    (ready 2 → ends (.segLoad seq true) 6) ∧
    (ready 2 → why = 0 → (∃ r ∈ img.tiles, (s.tile r.tile).zbusy = true) → exec (.segLoad seq false) s = .next s) ∧
    (ready 2 → why = 0 → (∀ r ∈ img.tiles, (s.tile r.tile).zbusy = false) → ∃ u, exec (.segLoad seq false) s = .next u ∧ Completed s u n 0 ∧ ∃ q, u.findSeg (BitVec.ofNat 16 img.segId) = some q ∧
      q.slot = BitVec.ofNat 3 img.slot ∧ q.tiles = img.tiles.map (fun r => r.tile) ∧ q.counter = 0 ∧ q.job = s.jobId) ∧
    (ready 3 → s.findSeg id = none → ends (.segUnload seq) 0x000B) ∧
    (ready 3 → s.findSeg id = some g →
      (g.slot.toNat ≠ f 2 1 → ends (.segUnload seq) 0x000B) ∧
      (g.slot.toNat = f 2 1 → (∃ t ∈ g.tiles, (s.tile t).st = .running ∧ (s.tile t).seg = g.id) → ends (.segUnload seq) 0x0015) ∧
      (g.slot.toNat = f 2 1 → (∀ t ∈ g.tiles, (s.tile t).st = .running → (s.tile t).seg ≠ g.id) → ∃ u, exec (.segUnload seq) s = .next u ∧
        Completed s u n 0 ∧ u.findSeg id = none ∧ (∀ r ∈ u.replays, r.seg ≠ g.id) ∧
        ∀ t ∈ g.tiles, ∀ i, (u.tile t).slots[g.slot.toNat]'g.slot.isLt = some i → i.seg ≠ g.id)) ∧
    (ready 4 → s.findSeg id = none → ends (.replay seq false) 0x000B) ∧
    (ready 4 → s.findSeg id = some g →
      ((∃ x ∈ xs, x.ok g = false) → ends (.replay seq false) 1) ∧
      ((∀ x ∈ xs, x.ok g = true) → (∃ t ∈ g.tiles, (s.tile t).st = .halted) → ends (.replay seq false) 9) ∧
      (0 < f 0x20 2 → ends (.replay seq true) 6) ∧
      ((∀ x ∈ xs, x.ok g = true) → (∀ t ∈ g.tiles, (s.tile t).st ≠ .halted) → ∃ u, exec (.replay seq false) s = .next u ∧ SameMem s u ∧
        u.replays = s.replays ++ [⟨g.id, g.slot, g.counter, f 2 2, f 8 8, f 0x10 4, some n, false, g.tiles, [], []⟩] ∧
        (u.findSeg id).map (fun q => q.counter) = some (g.counter + f 2 2)))

/-- Commands on requests. While the model of the request is resident each waits for that model's next boundary, which it makes due; else it takes effect at once. Its effect completes it with its status. REQ_SUBMIT makes a free handle ACTIVE with its prompt to fill;
REQ_CANCEL marks a live request CANCELLING at once and frees its handle; PAUSE and RESUME set and clear the host's reasons; TRUNCATE cuts the context back.
Contexts. SAVE_CONTEXT of a HELD or PAUSED request starts the transfer of its image where the buffer holds it; RESTORE_CONTEXT into a FREE or COLD handle checks the image and takes the pages for it; the end
of a transfer puts the image into host memory, or makes the handle HELD with the image's length and pending token. SRV_CONFIG sets a READY model's pools, and with RESTART clears STALLED.
Completes, under each clause's conditions on state and operands: reqSubmit, reqCancel, reqPause, reqResume, reqTruncate, saveContext, restoreContext, srvConfig, srvConfigRestart, contextTransferComplete.
Clauses that rest on the model's own choices: assumptions 54, 59, 60, 63, 64, 65. -/
def Obligations.RequestCommands : Prop :=
  (∀ (s : State) (seq : Dword) (c : Cmd),
     let n := seq.toNat
     let f := field c.payload
     let h := c.handle
     let q := s.req h
     let here (op : Nat) : Prop := s.findCmd n = some c ∧ c.opcode = op ∧ c.started = false
     let u := s.applyServing c
     let atOnce : Prop := (∀ m, s.commandModel c = some m → s.resident m = false) ∧ s.blocked c = false
     let ends (i : Instr) (status : Nat) (y : Req → Prop) : Prop := Completed s u n status ∧ y (u.req h) ∧ u.tileMem = s.tileMem ∧ u.tiles = s.tiles ∧
       (atOnce → exec i s = .next u)
     let rec_ := s.hostRead (f 8 8) 1216
     let c1 : Cmd := { c with payload := c.payload ++ rec_ }
     let s1 := s.setCmd c1
     let w := s1.applyServing c1
     let m := recModel c1.record
     let put (status : Nat) (y : Req → Prop) : Prop := Completed s w n status ∧ y (w.req h) ∧ w.tileMem = s.tileMem ∧ w.tiles = s.tiles
     let refused (i : Instr) (status : Nat) : Prop := ∃ v, exec i s = .next v ∧ Completed s v n status ∧ v.req h = q ∧ v.tileMem = s.tileMem ∧ v.tiles = s.tiles
     let left := (q.reasons.erase 0).erase 3
     let live := q.st = .active ∨ q.st = .paused
     (∀ i op, (i = Instr.reqCancel seq ∧ op = 0x31 ∧ ¬live ∨ i = Instr.reqPause seq ∧ op = 0x32 ∨ i = Instr.reqResume seq ∧ op = 0x33 ∨
         i = Instr.reqTruncate seq ∧ op = 0x34 ∨ i = Instr.saveContext seq ∧ op = 0x35 ∨ i = Instr.restoreContext seq ∧ op = 0x36) → here op →
       (∀ k, s.commandModel c = some k → s.resident k = true → exec i s = .next (s.setDue k)) ∧
       ((∀ k, s.commandModel c = some k → s.resident k = false) → exec i s = .next (if s.blocked c then s else u))) ∧
     (here 0x30 → c.record = [] → refused (.reqSubmit seq true) 6) ∧
     (here 0x30 → c.record = [] → recBad rec_ = true → refused (.reqSubmit seq false) 0x103) ∧
     (here 0x30 → c.record = [] → recBad rec_ = false →
       (s.resident m = true → exec (.reqSubmit seq false) s = .next (s1.setDue m)) ∧
       (s.resident m = false → exec (.reqSubmit seq false) s = .next (if s1.blocked c1 then s1 else w)) ∧
       (recContinue c1.record = false → c1.handle = h →
         (q.st ≠ .free → q.st ≠ .cold → put 0x100 (fun y => y = q)) ∧
         (q.st = .free ∨ q.st = .cold → (s.slotOf m).st ≠ .ready → put 0x102 (fun y => y = q)) ∧
         (q.st = .free ∨ q.st = .cold → (s.slotOf m).st = .ready → put 0 (fun y => y.st = .active ∧ y.model = m ∧ y.n = 0 ∧
           y.fillEnd = (recParams c1.record).nprompt ∧ y.p = recParams c1.record ∧ y.gen = [] ∧ y.adm = c.seq)))) ∧
     (here 0x31 → live → s.resident q.model = true → ∃ v, exec (.reqCancel seq) s = .next v ∧ (v.req h).st = .cancelling ∧
       v.findCmd n = some { c with left := 1 } ∧ SameMem s v) ∧
     (here 0x31 → live → s.resident q.model = false → s.blocked c = false → ∃ v, exec (.reqCancel seq) s = .next v ∧ Completed s v n 0 ∧ v.req h = Req.free ∧
       v.tileMem = s.tileMem) ∧
     (here 0x31 → q.st = .held ∨ q.st = .cold → ends (.reqCancel seq) 0 (fun y => y = Req.free)) ∧
     (here 0x31 → q.st = .free → c.left ≠ 1 → ends (.reqCancel seq) 0x101 (fun y => y = q)) ∧
     (here 0x32 → live → ends (.reqPause seq) 0 (fun y => y.st = .paused ∧ y.reasons = withReason q.reasons 0)) ∧
     (here 0x32 → q.st = .held ∨ q.st = .cold → ends (.reqPause seq) 0x101 (fun y => y = q)) ∧
     (here 0x33 → q.st = .paused → f 2 1 = 0 → ends (.reqResume seq) 0 (fun y => y.reasons = left ∧
       y.st = if left = [] ∧ q.reasons ≠ [] then .active else .paused)) ∧
     (here 0x33 → q.st = .held ∨ q.st = .cold → ends (.reqResume seq) 0x101 (fun y => y = q)) ∧
     (here 0x34 → q.st = .held ∨ q.st = .paused → 1 ≤ f 4 4 → f 4 4 ≤ q.n → ends (.reqTruncate seq) 0 (fun y => y.n = f 4 4 ∧ y.st = q.st)) ∧
     (here 0x34 → q.st = .held ∨ q.st = .paused → f 4 4 = 0 ∨ q.n < f 4 4 → ends (.reqTruncate seq) 0x103 (fun y => y = q))) ∧
  (∀ (s : State) (seq : Dword) (c : Cmd) (x : Xfer),
     let n := seq.toNat
     let f := field c.payload
     let h := c.handle
     let q := s.req h
     let here (op : Nat) : Prop := s.findCmd n = some c ∧ c.opcode = op ∧ c.started = false
     let v := s.applyServing c
     let atOnce : Prop := (∀ m, s.commandModel c = some m → s.resident m = false) ∧ s.blocked c = false
     let done (i : Instr) (status : Nat) : Prop := Completed s v n status ∧ v.srv.reqs = s.srv.reqs ∧ v.tileMem = s.tileMem ∧ (atOnce → exec i s = .next v)
     let ready : Prop := s.cmdReady n 0x37 = some c
     let ends (i : Instr) (status : Nat) : Prop := ∃ u, exec i s = .next u ∧ Completed s u n status ∧ u.srv.reqs = s.srv.reqs ∧ u.tileMem = s.tileMem
     let size := 16640 + (q.n / 64 + 1) * s.groupBytes q.model
     let image := s.hostRead (f 8 8) (f 0x10 8)
     let at_ (o k : Nat) := s.hostNat (f 8 8 + o) k
     let np := at_ 0x30 4
     let good := 0x4100 ≤ f 0x10 8 ∧ at_ 0 4 = 0x43583950 ∧ at_ 4 2 = 1 ∧ np = at_ 0x28 4 / 64 + 1 ∧ f 0x10 8 = 0x4100 + np * at_ 0x34 4
     let mid := f 0 1
     let frees (m : Nat) := s.handlesOf m = []
     (here 0x35 → (q.st = .held ∨ q.st = .paused) → f 0x10 8 < size → done (.saveContext seq) 0x108) ∧
     (here 0x35 → (q.st = .held ∨ q.st = .paused) → size ≤ f 0x10 8 → f 2 1 % 2 = 0 →
       v.srv.xfers = s.srv.xfers ++ [⟨n, h, true, f 8 8, (s.contextImage h).2, q.model⟩] ∧ v.findCmd n = some { c with started := true, left := 0 } ∧ v.req h = q ∧
         v.tileMem = s.tileMem ∧ (atOnce → exec (.saveContext seq) s = .next v)) ∧
     (here 0x35 → (q.st = .active ∨ q.st = .cold) → done (.saveContext seq) 0x101) ∧
     (here 0x36 → q.st ≠ .free → q.st ≠ .cold → done (.restoreContext seq) 0x101) ∧
     (here 0x36 → q.st = .free ∨ q.st = .cold → ¬good → done (.restoreContext seq) 0x107) ∧
     (here 0x36 → q.st = .free ∨ q.st = .cold → good →
       shake256 32 (image.take 0xE0 ++ List.replicate 32 0 ++ image.drop 0x100) ≠ (image.drop 0xE0).take 32 → done (.restoreContext seq) 0x106) ∧
     (here 0x36 → q.st = .free ∨ q.st = .cold → good →
       shake256 32 (image.take 0xE0 ++ List.replicate 32 0 ++ image.drop 0x100) = (image.drop 0xE0).take 32 →
       (s.modelOfVersion ((image.drop 8).take 32) = none → done (.restoreContext seq) 0x107) ∧
       (∀ m, s.modelOfVersion ((image.drop 8).take 32) = some m → at_ 0x34 4 = s.groupBytes m →
         ((s.setReq h { q with model := m, groups := [] }).giveGroups h 0 np).2 = np →
           v.srv.xfers = s.srv.xfers ++ [⟨n, h, false, f 8 8, image, q.model⟩] ∧ v.findCmd n = some { c with started := true, left := 0 } ∧
             (atOnce → exec (.restoreContext seq) s = .next v))) ∧
     (s.srv.xfers.find? (fun y => y.seq = n) = some x → s.hostLadleStatus = 0 →
       (x.save = true → ∃ t : State, exec (.contextTransferComplete seq false) s = .next (t.complete n 0 x.image.length) ∧
         t.hostMem = memWrite s.hostMem x.host x.image ∧ t.devMem = s.devMem ∧ t.tileMem = s.tileMem ∧ t.srv.xfers = s.srv.xfers.filter (fun y => y.seq ≠ n)) ∧
       (x.save = true → ∃ u, exec (.contextTransferComplete seq true) s = .next u ∧ Completed s u n 6) ∧
       (x.save = false → ∃ u, exec (.contextTransferComplete seq false) s = .next u ∧ Completed s u n 0 ∧ (u.req x.handle).st = .held ∧
         (u.req x.handle).n = field x.image 0x28 4 ∧ (u.req x.handle).pending = field x.image 0x2C 4 ∧
         (u.req x.handle).groups = (s.req x.handle).groups ∧ (u.req x.handle).gen = []) ∧
       (x.save = false → (s.req x.handle).st = .cold → ∃ u, exec (.contextTransferComplete seq true) s = .next u ∧ Completed s u n 6 ∧
         u.req x.handle = { s.req x.handle with model := x.back, groups := [] })) ∧
     (ready → f 1 1 ≠ 1 → s.full = false → 0 < f 8 4 → ends (.srvConfig seq) 3) ∧
     (ready → f 1 1 ≠ 1 → s.full = true ∨ f 8 4 = 0 →
       ((s.slotOf mid).st ≠ .ready → ends (.srvConfig seq) 0x102) ∧
       ((s.slotOf mid).st = .ready → ¬frees mid → ends (.srvConfig seq) 0x101) ∧
       ((s.slotOf mid).st = .ready → frees mid → s.poolsFit mid (f 4 4) (f 8 4) (f 0xC 2) (f 0x10 8) = false → ends (.srvConfig seq) 0x105) ∧
       ((s.slotOf mid).st = .ready → frees mid → s.poolsFit mid (f 4 4) (f 8 4) (f 0xC 2) (f 0x10 8) = true → ∃ u, exec (.srvConfig seq) s = .next u ∧
         Completed s u n 0 ∧ u.serving mid = { s.serving mid with
           conf := true, seg := f 2 2, frames := f 4 4, warm := f 8 4, span := f 0xC 2, area := f 0x10 8, size := s.areaBytes mid (f 4 4) (f 0xC 2) })) ∧
     (ready → f 1 1 = 1 → (s.slotOf mid).st = .ready → ∃ u, exec (.srvConfigRestart seq) s = .next u ∧ Completed s u n 0 ∧
       u.serving mid = { s.serving mid with stalled := false, due := (s.serving mid).due || (s.serving mid).stalled }))

/-- A step boundary passes once the step in flight is over, or with none in flight when a command has come, the round of the beat has run and no barrier stands; it counts, and its commands take effect in it, and starts no step while serving is STALLED. A committed token joins the
request and the entries for its ring, which HL0 writes at the boundary or once it moves data again; the copy of a page group frees its vault frame.
Completes, under each clause's conditions on state and operands: stepBoundary, pageDemotionComplete.
Clauses that rest on the model's own choices: assumptions 53, 59, 61, 66. -/
def Obligations.StepBoundaries : Prop :=
  ∀ (s : State) (m : BitVec 3) (rows : List (BitVec 14 × List Word)) (t : StepRec) (handle i : BitVec 14) (g : PageGroup) (w token : Nat) (c : Cmd),
    let k := m.toNat
    let x := s.serving k
    let h := handle.toNat
    let q := s.req h
    let passes : Prop := ∃ u, exec (.stepBoundary m rows) s = .next u ∧ (u.serving k).passed = x.passed + 1 ∧ u.tileMem = s.tileMem ∧
      (x.stalled = true → (u.serving k).step = none)
    let waits : Prop := (x.step = none ∧ (x.due = false ∨ x.barrier = true ∨ s.host.roundBeat ≠ some s.beat.toNat)) ∨ (x.step = some t ∧ s.stepOver t = false)
    (waits → (s.hostLadleUp 0 = false ∨ (s.srv.ringOut = [] ∧ s.srv.ringVecs = [])) → exec (.stepBoundary m rows) s = .next s) ∧
    (∀ a bs, waits → s.hostLadleUp 0 = true → s.srv.ringOut = [(a, bs)] → s.srv.ringVecs = [] →
      exec (.stepBoundary m rows) s = .next { s with hostMem := memWrite s.hostMem a bs, srv := { s.srv with ringOut := [] } }) ∧
    (x.step = none → x.due = true → x.barrier = false → s.host.roundBeat = some s.beat.toNat → passes) ∧
    (x.step = some t → s.stepOver t = true → passes) ∧
    (s.host.cmds = [c] → s.namesModel k c = true → s.blocked c = false → s.applyArrived k = s.applyServing c) ∧
    (smFind q.groups i.toNat = some g → g.hot = true → g.warm = some w →
      let cs := s.rangeChans (s.warmAddr q.model w) (s.groupBytes q.model)
      (s.demoteReady q.model g = false → exec (.pageDemotionComplete handle i) s = .next s) ∧
      (s.demoteReady q.model g = true → cs.any s.lpParked = false → s.lpHeld cs = none → ∃ u, exec (.pageDemotionComplete handle i) s = .next u ∧
        (u.req h).groups = smSet q.groups i.toNat { g with hot := false } ∧ u.tileMem = s.tileMem ∧ u.hostMem = s.hostMem)) ∧
    (q.st = .active → stopsAt (q.gen ++ [token]) q.p.stops = false → q.gen.length + 1 < q.p.maxNew → q.n < 1048575 → q.p.deadline = 0 →
      let u := s.commitToken h token
      (u.req h).gen = q.gen ++ [token] ∧ (u.req h).pending = token ∧ (u.req h).n = q.n ∧ (u.req h).prod = (q.prod + 1) % 2 ^ 32 ∧ (u.req h).st = .active ∧
        u.srv.ringOut = s.srv.ringOut ++ [(q.p.ring + 64 + 16 * (q.prod % 2 ^ q.p.ringLog),
          leBytes 4 (token % 2 ^ 18) ++ leBytes 4 q.n ++ leBytes 2 0 ++ leBytes 2 0 ++ leBytes 4 s.beat.toNat), (q.p.ring, leBytes 4 (q.prod + 1))] ∧
        q.p.vector ∈ u.srv.ringVecs ∧ u.hostMem = s.hostMem)

/-- The Sieve takes a whole row that the current roster expects and holds it until it draws; it holds two. Its draw returns the row's token, or its failure, to the step.
Completes, under each clause's conditions on state and operands: sieveSlice, sieveDraw.
Clauses that rest on the model's own choices: assumption 68. -/
def Obligations.Sieve : Prop :=
  ∀ (s : State) (p : Packet) (rest : List Packet) (n : Nat) (bs : List Byte) (r : SieveRow) (rs : List SieveRow) (t : StepRec) (e : Member),
    let key := ownKey .sieve
    let c := sliceOf bs
    let q := s.req r.handle
    let drawn := drawToken q.p (s.countsOf r.handle).2 (e.pos + e.npos) r.logits
    s.full = true → s.domain 5 0 = .run →
      (smGet s.intakeQ key [] = p :: rest → s.portVerdict .sieve (hFlow p.hdr) = .forward →
        gatherSlice (hFlow p.hdr) (fun a b => Config.undefByte (s.freeCtr + a) b) (p :: rest) 0 [] = some (n, bs) →
        (2 ≤ s.srv.rows.length → exec .sieveSlice s = .next (s.bump (sveReg 0x18) 1)) ∧
        (s.srv.rows.length < 2 → s.srv.part = none → s.rowExpected c.model c.handle c.step = true → s.rowReturned c.model c.handle = false →
          c.rsvd = false → c.vbase = 0 → c.vcount = c.vocab → bs.length = 32 + 4 * c.vocab → c.vocab % 8 = 0 → 8 ≤ c.vocab → c.vocab ≤ 262144 →
          ∃ u, exec .sieveSlice s = .next u ∧ u.srv.rows = s.srv.rows ++ [⟨c.handle, c.model, c.vocab, c.logits⟩] ∧ u.srv.part = none ∧
            smGet u.intakeQ key [] = (p :: rest).drop n ∧ SameMem s u)) ∧
      (s.srv.rows = r :: rs → (s.serving r.model).step = some t → t.members.find? (fun e => e.handle = r.handle) = some e →
        ∃ u, exec .sieveDraw s = .next u ∧ u.srv.rows = rs ∧ (u.serving r.model).step = some { t with rows := smSet t.rows r.handle drawn } ∧ SameMem s u ∧
          u.srv.reqs = s.srv.reqs)

/-- The model commands, each with its first failing check, and what it starts: a load makes an EMPTY slot LOADING, a repair fetches the quarantined shards of a DEGRADED one, an unload empties one not in use, a swap fills
staging with the changed shards; keys are enrolled in free slots and revoked where no resident model names them, once flash holds the change.
The shard of a load that is checked last and passes makes the model READY and completes the load; one that fails is fetched again, and failing again ends the load with the slot EMPTY. Digest scrub checks one resident
shard after another, and quarantines one that fails. The last layer of a swap copied, the new manifest is in force and the barrier falls; the
model is DEGRADED where a shard is still in quarantine, which a changed shard leaves when its layer passes.
Shards from a peer: a REQ that this module may not serve is answered NOSHARD; DATA at the next expected offset joins the shard in hand; NOSHARD ends the fetch with PEER_FAIL; a peer silent for the limit, no DATA of its having arrived, is asked again, and the
fourth time the fetch ends with PEER_TIMEOUT.
Completes, under each clause's conditions on state and operands: modelLoad, modelLoadRepair, modelUnload, swapLayers, modelKeyEnrol, modelKeyRevoke, shardCheck, bulkReq, bulkData, bulkNoshard, peerLimitExpiry, digestScrub, swapLayerCopy.
Clauses that rest on the model's own choices: assumptions 30, 31, 69, 70, 71. -/
def Obligations.Models : Prop :=
  (∀ (s : State) (seq : Dword) (c : Cmd),
     let n := seq.toNat
     let f := field c.payload
     let m := f 0 1
     let x := s.slotOf m
     let ready (op : Nat) : Prop := s.cmdReady n op = some c
     let ends (i : Instr) (status : Nat) : Prop := ∃ u, exec i s = .next u ∧ Completed s u n status ∧ u.wgt = s.wgt ∧ u.tileMem = s.tileMem
     let bs := s.hostRead (f 8 8) (min (f 0x10 4) 278912)
     let man := manifestOf bs
     let status := s.manifestStatus bs (f 0x10 4)
     let all := fromTo 0 man.shards.length
     let absent := s.loadAbsent man (f 1 1) (f 0x18 8) (fetchBytes man all) (f 0x20 8) (f 0x28 8)
     let same := ∃ y, x.man = some y ∧ y.mver = man.mver
     let mends := s.loadAbsent man (f 1 1) (f 0x18 8) (fetchBytes man x.quar) (f 0x20 8) (f 0x28 8)
     let still := x.stage = .filling ∨ x.stage = .staged ∨ x.fetch ≠ none ∨ (x.st ≠ .ready ∧ x.st ≠ .degraded)
     (ready 0x40 → f 2 1 = 0 → ends (.modelLoad seq true) 6 ∧ (status ≠ 0 → ends (.modelLoad seq false) status) ∧
       (status = 0 → x.st ≠ .empty → ends (.modelLoad seq false) 0x203) ∧
       (status = 0 → x.st = .empty → absent = true → ends (.modelLoad seq false) 3) ∧
       (status = 0 → x.st = .empty → absent = false → s.loadOverlap m man (f 0x20 8) (f 0x28 8) = true → ends (.modelLoad seq false) 0x205) ∧
       (status = 0 → x.st = .empty → absent = false → s.loadOverlap m man (f 0x20 8) (f 0x28 8) = false → x.fetch = none → ∃ u, exec (.modelLoad seq false) s = .next u ∧
         (u.slotOf m).st = .loading ∧ (u.slotOf m).man = some man ∧ (∃ w, (u.slotOf m).fetch = some w ∧ w.seq = n ∧ w.shards = all ∧ w.done = 0) ∧ SameMem s u)) ∧
     (ready 0x40 → f 2 1 = 1 → ends (.modelLoadRepair seq true) 6 ∧
       (status = 0 → (x.st ≠ .degraded ∨ ¬same) → ends (.modelLoadRepair seq false) 0x203) ∧
       (status = 0 → x.st = .degraded → same → mends = true → ends (.modelLoadRepair seq false) 3) ∧
       (status = 0 → x.st = .degraded → same → mends = false → s.loadOverlap m man (f 0x20 8) (f 0x28 8) = true → ends (.modelLoadRepair seq false) 0x205) ∧
       (status = 0 → x.st = .degraded → x.fetch ≠ none → same → mends = false → s.loadOverlap m man (f 0x20 8) (f 0x28 8) = false →
         exec (.modelLoadRepair seq false) s = .next s) ∧
       (status = 0 → x.st = .degraded → x.fetch = none → same → mends = false → s.loadOverlap m man (f 0x20 8) (f 0x28 8) = false →
         ∃ u w, exec (.modelLoadRepair seq false) s = .next u ∧ (u.slotOf m).st = .degraded ∧ (u.slotOf m).fetch = some w ∧ w.seq = n ∧ w.shards = x.quar ∧
           w.repair = true ∧ SameMem s u)) ∧
     (ready 0x41 → (s.handlesOf m ≠ [] → ends (.modelUnload seq) 0x204) ∧ (s.handlesOf m = [] → still → ends (.modelUnload seq) 0x203) ∧
       (s.handlesOf m = [] → ¬still → ∃ u, exec (.modelUnload seq) s = .next u ∧ Completed s u n 0 ∧ u.slotOf m = ModelSlot.reset ∧ u.tileMem = s.tileMem)) ∧
     (ready 0x42 → ends (.swapLayers seq true) 6 ∧ (status ≠ 0 → ends (.swapLayers seq false) status) ∧
       (∀ y, status = 0 → x.man = some y → s.loadAbsent man (f 1 1) (f 0x18 8) (fetchBytes man (changedShards y man)) 0 0 = false → x.st = .ready → x.stage = .none →
         (swapMismatch y man = true → ends (.swapLayers seq false) 0x209) ∧
         (swapMismatch y man = false → x.stageSize < fetchBytes man (changedShards y man) → ends (.swapLayers seq false) 0x208) ∧
         (swapMismatch y man = false → fetchBytes man (changedShards y man) ≤ x.stageSize → ∃ u w, exec (.swapLayers seq false) s = .next u ∧
           (u.slotOf m).st = .ready ∧ (u.slotOf m).man = x.man ∧ (u.slotOf m).swap = some w ∧ w.seq = n ∧ w.man = man ∧ w.released = false ∧
           (u.slotOf m).stage = (if changedShards y man = [] then .staged else .filling) ∧ SameMem s u))) ∧
     (ready 0x43 → s.fld wgtCfg 30 1 = 0 → (f 1 1 = 1 → ends (.modelKeyEnrol seq false) 5) ∧ (f 1 1 = 2 → ends (.modelKeyRevoke seq) 5)) ∧
     (ready 0x43 → s.fld wgtCfg 30 1 = 1 →
       (f 1 1 = 1 → smFind s.wgt.keys m ≠ none → ends (.modelKeyEnrol seq false) 0x20E) ∧
       (f 1 1 = 1 → smFind s.wgt.keys m = none → ∃ u, exec (.modelKeyEnrol seq false) s = .next u ∧ u.wgt.keys = s.wgt.keys ∧
         u.wgt.flashWait = s.wgt.flashWait ++ [(n, m, some (s.hostRead (f 8 8) 57))]) ∧
       (f 1 1 = 2 → (smFind s.wgt.keys m = none ∨ s.keyInUse m = true) → ends (.modelKeyRevoke seq) 0x20E) ∧
       (f 1 1 = 2 → smFind s.wgt.keys m ≠ none → s.keyInUse m = false → ∃ u, exec (.modelKeyRevoke seq) s = .next u ∧ u.wgt.keys = s.wgt.keys ∧
         u.wgt.flashWait = s.wgt.flashWait ++ [(n, m, none)]))) ∧
  (∀ (s : State) (m : BitVec 3) (f : Fetch) (man : Manifest) (sh : Shard) (p : Nat) (w : Swap),
     let n := m.toNat
     let x := s.slotOf n
     let k := f.shards.getD f.done 0
     let off := f.data + offsetAmong man f.shards k
     let free (cs : List Nat) : Prop := cs.any s.lpParked = false ∧ s.lpHeld cs = none
     let woken (cs : List Nat) : State := (cs.filter (fun c => decide ((s.lpch c).st = .up))).foldl State.lpWake s
     let ranges := s.rangeChans sh.addr sh.size ++ (if f.src = 2 then s.rangeChans off sh.size else [])
     let seen := ((woken ranges).putShard f sh.addr off sh.size).checkShard sh sh.addr
     let scrubbed := (s.scrubList.find? (fun q => decide (s.wgt.scrubPos ≤ q))).orElse (fun _ => s.scrubList.head?)
     let clean (g : Fetch) : Prop := g.seq = f.seq ∧ g.shards = f.shards ∧ g.got = [] ∧ g.spoilt = [] ∧ g.asked = false
     (x.fetch = some f → x.fill = none → x.man = some man → man.shards[k]? = some sh → (f.src = 1 → sh.size ≤ f.got.length) →
       (s.fetchStop f sh.addr off sh.size false = 0 → free ranges →
         (seen.2 = 0 → f.repair = false → f.done + 1 = f.shards.length → ∃ u, exec (.shardCheck m false) s = .next u ∧ (u.slotOf n).st = .ready ∧
           (u.slotOf n).fetch = none ∧ Completed s u f.seq 0 ∧ u.tileMem = s.tileMem) ∧
         (seen.2 = 0 → f.done + 1 < f.shards.length → ∃ u g, exec (.shardCheck m false) s = .next u ∧ (u.slotOf n).st = x.st ∧ (u.slotOf n).fetch = some g ∧
           clean g ∧ g.done = f.done + 1 ∧ g.again = false ∧ g.retries = 0 ∧ u.tileMem = s.tileMem) ∧
         (seen.2 ≠ 0 → f.again = false → ∃ u g, exec (.shardCheck m false) s = .next u ∧ (u.slotOf n).st = x.st ∧ (u.slotOf n).fetch = some g ∧
           clean g ∧ g.done = f.done ∧ g.again = true) ∧
         (seen.2 ≠ 0 → f.again = true → f.repair = false → ∃ u, exec (.shardCheck m false) s = .next u ∧ u.slotOf n = ModelSlot.reset ∧
           Completed s u f.seq (if seen.2 = 2 then 0x207 else 0x206))) ∧
       (∀ err, s.fetchStop f sh.addr off sh.size err ≠ 0 → f.repair = false → ∃ u, exec (.shardCheck m err) s = .next u ∧ u.slotOf n = ModelSlot.reset ∧
         Completed s u f.seq (s.fetchStop f sh.addr off sh.size err)) ∧
       (f.src = 0 → s.rangeStatus sh.addr sh.size = 0 → s.hostLadleStatus = 0 → s.fetchStop f sh.addr off sh.size true = 6)) ∧
     (s.fld (mgtReg 0xB004) 31 1 = 0 → exec .digestScrub s = .next s) ∧
     (s.fld (mgtReg 0xB004) 31 1 = 1 → scrubbed = some p → p / 4096 % 2 = 0 → (s.slotOf (p / 8192)).man = some man → man.shards[p % 4096]? = some sh →
       ((s.rangeChans sh.addr sh.size).any s.lpParked = true → exec .digestScrub s = .next s) ∧
       (free (s.rangeChans sh.addr sh.size) → s.devStatus sh.addr sh.size = 0 → s.goodCws sh.addr sh.size = true →
         (shake256 32 (memRead s.devMem sh.addr sh.size) = sh.digest → (sh.format ≤ 6 → colsumsOk sh.format (memRead s.devMem sh.addr sh.size) = true) →
           ∃ u, exec .digestScrub s = .next u ∧ u.wgt = { s.wgt with scrubPos := p + 1 } ∧ SameMem s u ∧ u.events = s.events) ∧
         (shake256 32 (memRead s.devMem sh.addr sh.size) ≠ sh.digest → p % 4096 ∉ (s.slotOf (p / 8192)).quar → (s.slotOf (p / 8192)).st = .ready →
           ∃ u, exec .digestScrub s = .next u ∧ p % 4096 ∈ (u.slotOf (p / 8192)).quar ∧ (u.slotOf (p / 8192)).st = .degraded ∧ SameMem s u ∧
             Raised s u 0x202 (p / 8192 + p % 4096 * 2 ^ 16 + 2 ^ 28 + 2 ^ 30)))) ∧
     (x.st = .swapping → x.swap = some w → w.layers = [] → w.recompute = false → ∃ u, exec (.swapLayerCopy m) s = .next u ∧
       (u.slotOf n).st = (if x.quar = [] then .ready else .degraded) ∧ (u.slotOf n).man = some w.man ∧ (u.slotOf n).swap = none ∧ Completed s u w.seq 0) ∧
     (∀ l a r j y, x.st = .swapping → x.swap = some w → w.layers = l :: a :: r → x.layerShards w.man l = [(j, y)] →
       let cs := (s.rangeChans (x.stageAddr j) y.size ++ s.rangeChans y.addr y.size).eraseDups
       free cs → s.goodCws (x.stageAddr j) y.size = true → ((woken cs).swapShard x y j).2 = 0 → ∃ u, exec (.swapLayerCopy m) s = .next u ∧
         u.slotOf n = { x with quar := x.quar.filter (fun i => decide (i ≠ j)), swap := some { w with layers := a :: r } } ∧ u.tileMem = s.tileMem ∧
         u.devMem = memWrite s.devMem y.addr (memRead s.devMem (x.stageAddr j) y.size))) ∧
  (∀ (s : State) (m : BitVec 3) (p : NPkt) (ps : List NPkt) (f : Fetch) (j : Nat) (fill : Bool),
     let n := m.toNat
     let r := pktField p 32 20
     let k := pktField p 16 16
     let x := s.slotOf j
     let pop : State := { s with fleet := { s.fleet with bulkIn := ps } }
     s.fleet.bulkIn = p :: ps →
       (bulkOp p = 1 → s.fld wgtCfg 31 1 = 0 →
         exec .bulkReq s = .next (pop.sendRank 4 r 0 0 0 [(bulkHead 3 k s.ownRank (pktField p 64 25), false)])) ∧
       (bulkOp p = 1 → ∃ u, exec .bulkReq s = .next u ∧ u.fleet.bulkIn = ps ∧ SameMem s u ∧ u.wgt = s.wgt) ∧
       (bulkOp p = 0 ∨ 3 < bulkOp p → exec .bulkReq s = .next pop) ∧
       (bulkOp p = 2 → s.fetchFrom r k = some (j, fill) → x.job fill = some f → 32 * pktField p 64 25 = f.got.length → ∃ u, exec .bulkData s = .next u ∧
         u.fleet.bulkIn = ps ∧ u.slotOf j = x.setJob fill (some { f with
           got := f.got ++ (p.data.drop 1).flatMap (fun d => flitBytes d.1)
           spoilt := f.spoilt ++ (((p.data.drop 1).zipIdx).filter (fun d => d.1.2)).map (fun d => 32 * pktField p 64 25 + 32 * d.2)
           since := s.tm.run, asked := false }) ∧ SameMem s u) ∧
       (bulkOp p = 3 → s.fetchFrom r k = some (j, fill) → x.job fill = some f → ∃ u, exec .bulkNoshard s = .next u ∧
         u.fleet.bulkIn = ps ∧ Completed s u f.seq 0x20D ∧ u.slotOf j = (if fill then { x with stage := .failed, fill := none }
           else if f.repair then { x with fetch := none } else ModelSlot.reset)) ∧
       ((s.slotOf n).fetch = some f → f.src = 1 → f.got = [] → f.repair = false → (s.slotOf n).fill = none →
         (∀ man y, (s.slotOf n).man = some man → man.shards[f.shards.getD f.done 0]? = some y → 0 < y.size →
           (s.passed f.since (s.fld wgtCfg 0 16 * peerMs) = false → exec (.peerLimitExpiry m) s = .next s) ∧
           ((∃ q ∈ p :: ps, bulkOp q = 2 ∧ s.fetchFrom (pktField q 32 20) (pktField q 16 16) = some (n, false)) → exec (.peerLimitExpiry m) s = .next s) ∧
           (s.passed f.since (s.fld wgtCfg 0 16 * peerMs) = true → (∀ q ∈ p :: ps, bulkOp q ≠ 2) →
             (3 ≤ f.retries → ∃ u, exec (.peerLimitExpiry m) s = .next u ∧ u.slotOf n = ModelSlot.reset ∧ Completed s u f.seq 0x20C) ∧
             (f.retries < 3 → ∃ u, exec (.peerLimitExpiry m) s = .next u ∧ SameMem s u ∧
               (u.slotOf n).fetch = some { f with retries := f.retries + 1, asked := true, since := s.tm.run })))))

/-- A whole-chip reset, from each of its sources: every unit is at its reset state and device memory is unlisted, while module flash, enrolled keys, host memory and the commands under way from outside stand; RST_CAUSE
adds the source's bit, or shows it alone after a power-on or a thermal restart; the rails and pins go as the source says.
The pins and links around resets: PERST_N rises, the PCI Express link comes up, REFCLK returns; a function-level reset brings the HIF registers and rings to reset, keeps memory and tiles, and leaves the commands of the
host rings without a completion entry.
Completes, under each clause's conditions on state and operands: refLossFatal, por, perst, hotrst, flr, chipResetWrite, wdog, wdogRestart, therm, thermRestart, chipFatal, fatalRestart, inputShutdown, refclkRestored, perstNRising, pcieLinkUp.
Clauses that rest on the model's own choices: assumptions 2, 76, 77. -/
def Obligations.ChipResets : Prop :=
  (∀ (s : State) (req : BitVec 1) (value : Word) (temp cause index : BitVec 8) (volts : BitVec 16),
     let m := s.module
     let added (b : Nat) : Word := BitVec.ofNat 32 (withField (s.reg (rstReg 0)).toNat b 1 1)
     let resets (i : Instr) (why : Word) (y : Module → Prop) : Prop := ∃ u, exec i s = .next u ∧ u.tiles = [] ∧ u.routers = [] ∧ u.clusters = [] ∧ u.segs = [] ∧
       u.vaults = [] ∧ u.lp = [] ∧ u.ladles = [] ∧ u.nports = [] ∧ u.tileMem = [] ∧ u.devMem = [] ∧ u.beat = 0 ∧ u.host.cmds = [] ∧ u.events = [] ∧
       u.fleet = FleetState.reset ∧ u.srv = ServeState.reset ∧ u.power = PowerState.reset ∧ u.boot.stages = 0 ∧ u.boot.doms = [] ∧
       u.wgt = { WeightState.reset with keys := s.wgt.keys } ∧ u.hostMem = s.hostMem ∧ u.flash = s.flash ∧ u.pending = s.pending ∧
       (∀ a, a ≠ rstReg 0 → smFind u.regs a = none) ∧ u.reg (rstReg 0) = why ∧ y u.module
     (m.rails = .on ∨ m.rails = .input → resets .por 1 (fun y => y.rails = .on)) ∧
     (m.rails = .on → resets .perst (added 1) (fun y => y.rails = .on ∧ y.perstLow = true ∧ y.linkUp = false)) ∧
     (s.awake = true → resets .hotrst (added 2) (fun y => y.rails = .on ∧ y.linkUp = false)) ∧
     (s.reaches = true → s.fnServes req.toNat = true → s.isUnlocked req.toNat 0 = true → value.getLsbD 31 = true → resets (.chipResetWrite req value) (added 4) (fun y => y.rails = m.rails)) ∧
     (s.reaches = true → s.fnServes req.toNat = true → s.isUnlocked req.toNat 0 = false → ∃ u, exec (.chipResetWrite req value) s = .next u ∧ u.quiet = s.quiet) ∧
     (s.awake = true → 4 ≤ s.boot.stages → s.fld (rstReg 0xC) 31 1 = 1 →
       (s.passed s.boot.wdogFrom (s.fld (rstReg 0xC) 0 16 * wdogMs) = false → exec .wdog s = .next s) ∧
       (s.passed s.boot.wdogFrom (s.fld (rstReg 0xC) 0 16 * wdogMs) = true → resets .wdog (added 5) (fun y => y.rails = .on ∧ y.faultPin = m.faultPin))) ∧
     (4 ≤ s.boot.stages → exec .wdogRestart s = .next { s with boot := { s.boot with wdogFrom := s.tm.run } }) ∧
     (m.rails = .on → resets .therm (added 6) (fun y => y.rails = .therm ∧ y.thermtrip = true ∧ y.thermLatch = true)) ∧
     (m.rails = .therm → (temp.toNat < 90 → 10 * secU ≤ s.tm.run → resets (.thermRestart temp) 0x40 (fun y => y.rails = .on ∧ y.thermtrip = false)) ∧
       (90 ≤ temp.toNat ∨ s.tm.run < 10 * secU → exec (.thermRestart temp) s = .next s)) ∧
     (m.rails = .on → 1 ≤ cause.toNat → cause.toNat ≤ 6 → resets (.chipFatal cause index) 1 (fun y => y.rails = .fatal ∧ y.faultPin = true ∧
       y.fatalLatch = 2 ^ 31 + cause.toNat * 2 ^ 8 + index.toNat)) ∧
     (m.rails = .on → s.tm.refLost = true → s.passed s.tm.refFrom (9 * usU) = true → resets .refLossFatal 1 (fun y => y.rails = .fatal ∧ y.faultPin = true ∧ y.fatalLatch = 2 ^ 31 + 2 ^ 8)) ∧
     (s.tm.refLost = false ∨ s.passed s.tm.refFrom (9 * usU) = false → exec .refLossFatal s = .next s) ∧
     (m.rails = .fatal → (secU ≤ s.tm.run → resets .fatalRestart 1 (fun y => y.rails = .on)) ∧ (s.tm.run < secU → exec .fatalRestart s = .next s)) ∧
     (volts.toNat < 420 ∨ 580 < volts.toNat → resets (.inputShutdown volts) 1 (fun y => y.rails = .input ∧ y.fatalLatch = 0 ∧ y.thermLatch = false ∧
       y.thermtrip = false ∧ y.faultPin = false)) ∧
     (420 ≤ volts.toNat → volts.toNat ≤ 580 → exec (.inputShutdown volts) s = .next s)) ∧
  (∀ (s : State),
     exec .perstNRising s = .next { s with module := { s.module with perstLow := false } } ∧
     (s.awake = true → s.tm.refLost = false → exec .pcieLinkUp s = .next { s with module := { s.module with linkUp := true } }) ∧
     (s.awake = false ∨ s.tm.refLost = true → exec .pcieLinkUp s = .next s) ∧
     (s.tm.refLost = true → ∃ u, exec .refclkRestored s = .next u ∧ u.tm = { s.tm with refLost := false } ∧ SameMem s u ∧
       u.module.faultPin = (if s.module.fatalLatch = 0 then false else s.module.faultPin)) ∧
     (s.tm.refLost = false → exec .refclkRestored s = .next s) ∧
     (s.awake = true → ∃ u, exec .flr s = .next u ∧ SameMem s u ∧ u.tiles = s.tiles ∧ u.segs = s.segs ∧ u.events = [] ∧ u.host.waiting = [] ∧
       u.host.sq = [] ∧ u.host.cq = PRing.reset ∧ u.host.eq = PRing.reset ∧ u.host.next = s.host.next ∧ u.fld (rstReg 0) 3 1 = 1 ∧
       (∀ o < 0x10000, smFind u.regs (hifReg o) = none) ∧ (∀ c ∈ u.host.cmds, 64 ≤ c.ring) ∧
       u.host.cmds.map (fun c => c.seq) = s.host.cmds.map (fun c => c.seq)))

/-- A domain that is absent completes RESET_DOMAIN with UNIT_ABSENT and no order is posted. A due reset of a domain that is not in RUN, and of a vault whose
cluster is not in RUN, completes with DOMAIN_STATE, and so does a due release of a domain that is not in HELD; the domain stays as it is. -/
def Obligations.DomainOrders : Prop :=
  ∀ (s : State) (seq : Dword) (c : Cmd) (kind : BitVec 3) (index : BitVec 6) (o : DomOrder),
    let n := seq.toNat
    let k := kind.toNat
    let i := index.toNat
    let act := field c.payload 2 1
    let absent (j : Instr) : Prop := ∃ u, exec j s = .next u ∧ Completed s u n 3 ∧ u.boot.domOrders = s.boot.domOrders ∧ u.boot.doms = s.boot.doms
    let wrong (j : Instr) : Prop := ∃ u, exec j s = .next u ∧ Completed s u o.seq 0x300 ∧ u.boot.doms = s.boot.doms ∧
      u.boot.domOrders = s.boot.domOrders.erase o ∧ u.tiles = s.tiles
    (s.cmdReady n 0x22 = some c → c.kind ≠ 7 → s.domainPresent c.kind c.index = false →
      (act = 1 → absent (.resetDomainReset seq)) ∧ (act = 2 → absent (.resetDomainRelease seq))) ∧
    (s.dueOrder k i = some o → o.release = false → k ≠ 7 → s.domain k i ≠ .run ∨ (k = 2 ∧ s.domain 1 i ≠ .run) →
      wrong (.domainResetEffect kind index)) ∧
    (s.dueOrder k i = some o → o.release = true → s.domain k i ≠ .held → wrong (.domainReleaseEffect kind index))

/-- RESET_DOMAIN. An order for a domain that is there waits for its beat, and one for the whole chip does. A due RESET takes the domain from RUN to RESET and a
due RELEASE from HELD to RESTORE. A reset cluster's tiles are ISOLATED; a domain in RESET becomes HELD, in RESTORE it becomes RUN again, a port's once it carries traffic or is not to train. KIND 7 resets the chip.
A cluster-fatal fault is reported with its cause, and loss of lock takes the region out of the ballast; with AUTO_ISOLATE set, the reset of a cluster that still runs is ordered as a management command.
Completes, under each clause's conditions on state and operands: resetDomainReset, resetDomainRelease, resetDomainChip, clusterFatal, domainResetEffect, domainHeld, domainReleaseEffect, domainRestoreComplete.
Clauses that rest on the model's own choices: assumptions 2, 3, 78. -/
def Obligations.DomainResets : Prop :=
  (∀ (s : State) (seq : Dword) (c : Cmd) (kind : BitVec 3) (index : BitVec 6) (o : DomOrder) (kept : Bool) (passes : List (BitVec 2)),
     let n := seq.toNat
     let k := kind.toNat
     let i := index.toNat
     let ready : Prop := s.cmdReady n 0x22 = some c
     let act := field c.payload 2 1
     let posted (j : Instr) (release : Bool) : Prop := (s.domainPresent c.kind c.index = true ∨ c.kind = 7) → ∃ u, exec j s = .next u ∧ SameMem s u ∧
       u.boot.domOrders = s.boot.domOrders ++ [⟨n, c.kind, c.index, release, field c.payload 8 8⟩] ∧ u.tiles = s.tiles
     let wakes (st : DomSt) (y : State → Prop) (j : Instr) : Prop := ∃ v : State, exec j s = .next (v.raise 0x301 (k + i * 2 ^ 8 + (if st = .reset then 2 ^ 16 else 0))) ∧
       v.domain k i = st ∧ y v
     (ready → c.kind ≠ 7 → (act = 1 → posted (.resetDomainReset seq) false) ∧ (act = 2 → posted (.resetDomainRelease seq) true)) ∧
     (ready → c.kind = 7 → posted (.resetDomainChip seq) false) ∧
     (s.dueOrder k i = some o → o.release = false → k ≠ 7 →
       (s.domain k i = .run → (k = 2 → s.domain 1 i = .run) → wakes .reset (fun v => smGet v.boot.resetting (domKey k i) 0 = o.seq ∧
         v.boot.domOrders = s.boot.domOrders.erase o ∧ (k = 1 → ∀ l < 64, (v.tile (tileAt i l)).st = .isolated)) (.domainResetEffect kind index))) ∧
     (s.dueOrder k i = some o → o.release = false → k = 7 → ∃ u, exec (.domainResetEffect kind index) s = .next u ∧ u.tiles = [] ∧ u.devMem = [] ∧
       u.reg (rstReg 0) = BitVec.ofNat 32 (withField (s.reg (rstReg 0)).toNat 4 1 1)) ∧
     (s.dueOrder k i = none → exec (.domainResetEffect kind index) s = .next s ∧ exec (.domainReleaseEffect kind index) s = .next s) ∧
     (s.dueOrder k i = some o → o.release = true → s.domain k i = .held → ∃ u, exec (.domainReleaseEffect kind index) s = .next u ∧ Completed s u o.seq 0 ∧
       u.domain k i = .restore ∧ u.boot.domOrders = s.boot.domOrders.erase o) ∧
     (∀ q, s.domain k i = .reset → smFind s.boot.resetting (domKey k i) = some q → ∃ u, exec (.domainHeld kind index) s = .next u ∧ u.domain k i = .held ∧
       Completed s u q 0) ∧
     (s.domain k i = .restore → s.restored k i = false → exec (.domainRestoreComplete kind index kept passes) s = .next s) ∧
     (s.domain k i = .restore → s.restored k i = true → wakes .run (fun v => (k = 1 → (v.cluster i).isolated = false) ∧
         (k = 6 → (v.ladle (64 + i)).ch = [] ∧ (v.ladle (64 + i)).intake = []) ∧ (k = 1 → ∀ l < 64, v.tile (tileAt i l) = (s.tile (tileAt i l)).afterReset ∧
           (v.tile (tileAt i l)).st = .idle ∧ (v.router (tileAt i l)).zeroed = true)) (.domainRestoreComplete kind index kept passes))) ∧
  (∀ (s : State) (cluster : BitVec 6) (cause : BitVec 4),
     let c := cluster.toNat
     let order := s.fld (mgtReg 0xC000) 31 1 = 1 ∧ s.domain 1 c = .run ∧ (s.cluster c).isolated = false
     c < s.nClusters → ∃ u, exec (.clusterFatal cluster cause) s = .next u ∧ Raised s u 0x401 (c + cause.toNat * 2 ^ 8 + bit (decide order) * 2 ^ 12) ∧
       u.tileMem = s.tileMem ∧ u.tiles = s.tiles ∧ (cause = 2 → c ∈ u.unlocked) ∧ (¬order → u.host.cmds = s.host.cmds ∧ u.host.next = s.host.next) ∧
       (order → u.host.next = s.host.next + 1))

/-- The stages of bring-up, each where reset is released and the reference runs: their numbers in GEN_STATUS, what each leaves, and the errors that stop it (no valid firmware 1, no key 2, a vault 3, unreadable flash 4).
Completes, under each clause's conditions on state and operands: bringupStage.
Clauses that rest on the model's own choices: assumptions 30, 73, 75, 76. -/
def Obligations.BringUp : Prop :=
  ∀ (s : State) (fail unread : Bool) (lat : List Byte),
    let st := s.boot.stages
    let go : Prop := s.awake = true ∧ s.tm.refLost = false ∧ s.fld (genReg 4) 24 4 = 0
    let stage (k : Nat) (y : State → Prop) : Prop := ∃ u, exec (.bringupStage fail unread lat) s = .next u ∧ u.boot.stages = k + 1 ∧ u.fld (genReg 4) 29 3 = k ∧
      u.tileMem = s.tileMem ∧ u.tiles = s.tiles ∧ y u
    let error (e : Nat) : Prop := ∃ u, exec (.bringupStage fail unread lat) s = .next u ∧ u.boot.stages = st ∧ u.fld (genReg 4) 24 4 = e ∧ SameMem s u
    let booted (b : Nat) (u : State) : Prop := u.boot.cdi = shake256 64 (Config.uds ++ shake256 32 (s.fwSlot b)) ∧
      u.boot.dseed = shake256 57 (Config.uds ++ [0x44]) ∧ u.boot.running = s.fwSlot b ∧ u.fld (rstReg 0x40) 31 1 = b
    (¬go → exec (.bringupStage fail unread lat) s = .next s) ∧
    (go → st = 0 → stage 0 (fun _ => True)) ∧
    (go → st = 1 → (unread = true → error 4) ∧ (unread = false → fail = true → error 2) ∧
      (unread = false → fail = false → s.fwValid 0 = true → stage 1 (booted 0)) ∧
      (unread = false → fail = false → s.fwValid 0 = false → s.fwValid 1 = true → stage 1 (booted 1)) ∧
      (unread = false → fail = false → s.fwValid 0 = false → s.fwValid 1 = false → error 1)) ∧
    (go → st = 2 → stage 2 (fun u => u.fld (clkReg 0) 31 1 = bit (s.boot.meso || fail))) ∧
    (go → st = 3 → stage 3 (fun u => u.module.fatalLatch = 0 ∧ u.boot.wdogFrom = s.tm.run ∧ u.module.faultPin = false)) ∧
    (go → st = 4 → (fail = true → error 3) ∧ (fail = false → s.MemOk → stage 4 (fun u => (∀ v < s.nClusters, (u.vault v).trained = true) ∧
      memRead u.devMem (jrnAddr 0) 32 = entryHead 0 0xFF 0xFF 0 s.beat.toNat 0))) ∧
    (go → st = 5 → (s.full = true → (∃ c < 32, (s.lpch c).st = .untrained) → exec (.bringupStage fail unread lat) s = .next s) ∧
      (s.full = false ∨ (∀ c < 32, (s.lpch c).st ≠ .untrained) → stage 5 (fun _ => True))) ∧
    (go → st = 6 → unread = true → error 4) ∧
    (go → st = 6 → unread = false → stage 6 (fun u => ∀ n < s.nPorts, u.reg (nbpReg n 0x14) =
      (match s.flash.ident.inForce with | some c => Config.linkId c | none => 0).setWidth 32)) ∧
    (go → st = 7 → stage 7 (fun u => u.ready = true ∧ ∀ n < s.nPorts, s.fld (nbpReg n 0) 0 1 = 1 → (s.nport n).st = .off → (u.nport n).st = .train))

/-- Module flash and management: a commit of the running security version above the recorded one waits for flash, and a key change too; a firmware slot is written by PLDM, a service package where the vendor signed it and a change is left;
PLDM reports what was sampled; the I3C controller gives the dynamic address once.
Completes, under each clause's conditions on state and operands: secCommit, pldmFirmwareUpdate, pldmPlatformMonitoring, flashWriteComplete, dynamicAddressAssignment.
Clauses that rest on the model's own choices: assumptions 31, 72, 74. -/
def Obligations.FlashAndManagement : Prop :=
  ∀ (s : State) (req : BitVec 1) (value : Word) (image : List Byte) (addr : BitVec 7) (w : Nat × Nat × Option (List Byte)) (ws : List (Nat × Nat × Option (List Byte))),
    let took (t : PldmTarget) (f : Flash) : Prop := exec (.pldmFirmwareUpdate t image) s = .next (({ s with flash := f } : State).mctpOut (.pldmUpdate true))
    let refused (t : PldmTarget) : Prop := exec (.pldmFirmwareUpdate t image) s = .next (s.mctpOut (.pldmUpdate false))
    let signed := Config.packageSigned image = true
    (s.reaches = true → s.fnServes req.toNat = true → s.isUnlocked req.toNat 0 = true → value.getLsbD 31 = true → s.boot.commit = none → s.secVer < s.runningSvn → 0 < s.flash.secVer.left →
      ∃ u, exec (.secCommit req value) s = .next u ∧ u.boot = { s.boot with commit := some s.runningSvn } ∧ u.isUnlocked req.toNat 0 = false ∧ SameMem s u) ∧
    (s.reaches = true → s.fnServes req.toNat = true → s.isUnlocked req.toNat 0 = false → ∃ u, exec (.secCommit req value) s = .next u ∧ u.quiet = s.quiet) ∧
    (∀ v, s.boot.commit = some v → exec (.flashWriteComplete true) s = .next { s with
      flash := { s.flash with secVer := s.flash.secVer.append [BitVec.ofNat 8 v] }, boot := { s.boot with commit := none } }) ∧
    (s.wgt.flashWait = w :: ws → ∃ u, exec (.flashWriteComplete false) s = .next u ∧ Completed s u w.1 0 ∧ u.wgt.flashWait = ws ∧
      u.wgt.keys = (match w.2.2 with | some k => smSet s.wgt.keys w.2.1 k | none => smDel s.wgt.keys w.2.1)) ∧
    (s.mctpUp = true ∨ (s.awake = true ∧ s.fld (genReg 4) 24 4 = 1) → took .slotA { s.flash with fw := smSet s.flash.fw 0 image } ∧ took .slotB { s.flash with fw := smSet s.flash.fw 1 image } ∧
      (signed → 0 < s.flash.repair.left → took .repair { s.flash with repair := s.flash.repair.append image }) ∧
      (signed → 0 < s.flash.ident.left → took .ident { s.flash with ident := s.flash.ident.append image }) ∧
      (¬signed → refused .repair ∧ refused .ident) ∧ (s.flash.repair.left = 0 → refused .repair) ∧ (s.flash.ident.left = 0 → refused .ident)) ∧
    (s.mctpUp = true → ∃ hottest, exec .pldmPlatformMonitoring s = .next (s.mctpOut (.pldmPlatform s.power.vin s.power.avg s.power.tStage s.power.tStack hottest
      s.module.thermtrip s.module.faultPin)) ∧ ∀ r ∈ s.regions, r.2.temp ≤ hottest) ∧
    (s.mctpUp = true → s.module.i3c = none → exec (.dynamicAddressAssignment addr none) s = .next { s with module := { s.module with i3c := some addr.toNat } } ∧
      exec (.dynamicAddressAssignment addr (some (BitVec.ofNat 7 (s.fld (mgtReg 0x14) 0 7)))) s =
        .next { s with module := { s.module with i3c := some addr.toNat } }) ∧
    (∀ a, s.module.i3c = some a → exec (.dynamicAddressAssignment addr none) s = .next s)

/-- Attestation over MCTP and DOE. Where the transport is up: GET_VERSION begins anew and answers 1.2 and 1.3; capabilities for one of those versions; Ed448 with SHA3-512 is agreed after them; then digests, certificate parts, CHALLENGE and
GET_MEASUREMENTS of slot 0 are answered with what they carry, and with an error before.
Completes, under each clause's conditions on state and operands: getVersion, getCapabilities, negotiateAlgorithms, getDigests, getCertificate, challenge, getMeasurements.
Clauses that rest on the model's own choices: assumptions 30, 31, 73, 74. -/
def Obligations.Attestation : Prop :=
  ∀ (s : State) (doe : Bool) (version slot index : BitVec 8) (off len : BitVec 16) (nonce : List Byte),
    let x := s.spdm doe
    let gives (i : Instr) (r : SpdmResp) (y : SpdmState) : Prop := ∃ u, exec i s = .next u ∧ u.outbox = s.outbox ++ (if doe then [] else [.ibi]) ++ [.spdm doe r] ∧ u.spdm doe = y ∧
      (∀ d, d ≠ doe → u.spdm d = s.spdm d) ∧ SameMem s u ∧ u.flash = s.flash
    let chain := s.certChain
    let block (k : Nat) : Nat × List Byte := (k, sha3512 (s.measured k))
    let signature (bs : List (Nat × List Byte)) := ed448Sign s.aliasPrivate (Config.spdmTranscript nonce (bs.flatMap (fun b => b.2)))
    s.spdmUp doe = true →
      gives (.getVersion doe) (.versions [0x12, 0x13]) SpdmState.reset ∧
      (version = 0x12 ∨ version = 0x13 → gives (.getCapabilities doe version) .capabilities { x with version := some version.toNat, caps := true }) ∧
      (version ≠ 0x12 → version ≠ 0x13 → gives (.getCapabilities doe version) .error x) ∧
      (x.caps = true → gives (.negotiateAlgorithms doe true true) .algorithms { x with algs := true } ∧
        gives (.negotiateAlgorithms doe false true) .error x ∧ gives (.negotiateAlgorithms doe true false) .error x) ∧
      (x.caps = false → gives (.negotiateAlgorithms doe true true) .error x) ∧
      (x.algs = false → gives (.getDigests doe) .error x ∧ gives (.getCertificate doe slot off len) .error x ∧ gives (.challenge doe slot nonce) .error x ∧
        gives (.getMeasurements doe index none) .error x) ∧
      (x.algs = true → gives (.getDigests doe) (.digest (sha3512 chain)) x ∧
        (off.toNat < chain.length → gives (.getCertificate doe 0 off len)
          (.certificate ((chain.drop off.toNat).take len.toNat) (chain.length - off.toNat - len.toNat)) x) ∧
        (chain.length ≤ off.toNat → gives (.getCertificate doe 0 off len) .error x) ∧
        gives (.challenge doe 0 nonce) (.challengeAuth (ed448Sign s.aliasPrivate (Config.spdmTranscript nonce (sha3512 chain)))) x ∧
        gives (.getMeasurements doe 0 none) (.measurements [] 6 none) x ∧
        (1 ≤ index.toNat → index.toNat ≤ 6 → gives (.getMeasurements doe index none) (.measurements [block index.toNat] 6 none) x ∧
          gives (.getMeasurements doe index (some nonce)) (.measurements [block index.toNat] 6 (some (signature [block index.toNat]))) x) ∧
        gives (.getMeasurements doe 0xFF none) (.measurements [block 1, block 2, block 3, block 4, block 5, block 6] 6 none) x ∧
        (6 < index.toNat → index ≠ 0xFF → gives (.getMeasurements doe index none) .error x))

/-- Health scores: at a decay each present part's score loses an eighth of itself, and memories stay; a write of a score stores it, raises
HEALTH_WARN or HEALTH_ALERT where it first reaches the threshold, and arms the event again below half of it.
Margin measurements and the pattern checker. A measurement starts by GO, and a write while it runs is dropped; at its end GO clears, with ERR
and zero results for a target that is absent or not in its state. EN is accepted where the port's depth or its peer's allows it and clears the counts where it was 0; else ERR. Only the lanes selected count.
The loopback generator clears its counts and gives the port its first packet; it ends once COUNT packets are counted or 10,000 beats after the
last left. The memory test leaves its pattern in the range, counts the words that did not match and keeps the first one's place; a test of an empty
range, of the journal or of an absent unit is refused.
Completes, under each clause's conditions on state and operands: scoreDecay, marginStart, marginComplete, prbsEnable, lbgStart, lbgComplete, memtestStart, memtestComplete, registerWrite.
Clauses that rest on the model's own choices: assumptions 79, 80, 81, 82. -/
def Obligations.HealthAndTest : Prop :=
  (∀ (s : State) (req : BitVec 1) (k : Nat) (v : BitVec 16),
     let warn := s.fld (mgtReg 0xC008) 0 16
     let alert := s.fld (mgtReg 0xC008) 16 16
     let detail := k + v.toNat * 2 ^ 16
     let decays := s.passed s.boot.decayFrom (s.fld (mgtReg 0xC000) 0 16 * 60 * secU)
     s.partPresent k = true →
       (decays = false → exec .scoreDecay s = .next s) ∧
       (decays = true → ∃ u, exec .scoreDecay s = .next u ∧ u.boot.decayFrom = s.tm.run ∧ SameMem s u ∧ u.tiles = s.tiles ∧
         u.fld (hltScore k) 0 16 = s.fld (hltScore k) 0 16 - s.fld (hltScore k) 0 16 / 8) ∧
       (s.reaches = true → s.fnServes req.toNat = true → ∃ u, exec (.registerWrite req .bar0 (BitVec.ofNat 26 (hltScore k)) [(v.setWidth 32, 0xF)]) s = .next u ∧
         u.fld (hltScore k) 0 16 = v.toNat ∧ SameMem s u ∧ u.tiles = s.tiles ∧ (∀ a, a ≠ hltScore k → a ≠ hifReg 0x38 → u.reg a = s.reg a) ∧
         (warn ≤ v.toNat → k ∉ s.hltWarned → Raised s u 0x402 detail ∧ k ∈ u.hltWarned) ∧
         (alert ≤ v.toNat → k ∉ s.hltAlerted → Raised s u 0x403 detail ∧ k ∈ u.hltAlerted) ∧
         (v.toNat < warn → v.toNat < alert → u.events = s.events) ∧
         (2 * v.toNat < warn → u.hltWarned = s.hltWarned.erase k) ∧ (2 * v.toNat < alert → u.hltAlerted = s.hltAlerted.erase k))) ∧
  (∀ (s : State) (value r0 r1 e : Word) (peerL4 : Bool),
     let kind := s.fld marginCtrl 16 3
     let target := s.fld marginCtrl 0 7
     let run (i : Instr) (y : State → Prop) : Prop := ∃ u, exec i s = .next u ∧ SameMem s u ∧ u.tiles = s.tiles ∧ u.nports = s.nports ∧ u.regions = s.regions ∧ y u
     let ends (w0 w1 : Word) (err : Nat) : Prop := run (.marginComplete r0 r1) (fun u =>
       u.fld marginCtrl 31 1 = 0 ∧ u.fld marginCtrl 30 1 = err ∧ u.reg (mgtReg 0xC018) = w0 ∧ u.reg (mgtReg 0xC01C) = w1)
     let n := value.toNat
     let start := fieldOf n 31 1 = 1
     let port := fieldOf n 16 5
     let may := (s.portOk port = true ∧ (s.nport port).st = .loop ∧ (s.fld (nbpReg port 0) 26 3 = 1 ∨ s.fld (nbpReg port 0) 26 3 = 2)) ∨
       (s.portOk port = true ∧ peerL4 = true)
     (s.reaches = true → value.getLsbD 31 = true → s.fld marginCtrl 31 1 = 1 → exec (.marginStart value) s = .next s) ∧
     (s.reaches = true → value.getLsbD 31 = true → s.fld marginCtrl 31 1 = 0 → run (.marginStart value) (fun u => u.fld marginCtrl 31 1 = 1 ∧
       u.fld marginCtrl 16 3 = fieldOf n 16 3 ∧ u.fld marginCtrl 0 7 = fieldOf n 0 7 ∧ ∀ a, a ≠ marginCtrl → u.reg a = s.reg a)) ∧
     (s.fld marginCtrl 31 1 = 1 →
       (kind = 1 → s.portOk target = true → (s.nport target).st = .up → ends r0 (r1 &&& 0xFFFF#32) 0) ∧
       (kind = 2 → s.regionOk target = true → ends (r0 &&& 0xFFFF#32) 0 0) ∧
       (kind = 3 → target < 64 → s.regionOk target = true → ends (r0 &&& 0xFFFF#32) (word32 (smGet s.points target 2)) 0) ∧
       (kind = 1 → s.portOk target = true → (s.nport target).st = .down → ends 0 0 1) ∧ (s.portOk target = false → kind = 1 ∨ kind = 4 → ends 0 0 1) ∧
       (s.regionOk target = false → kind = 2 ∨ kind = 3 → ends 0 0 1)) ∧
     (s.reaches = true → start → may → run (.prbsEnable value peerL4 []) (fun u => u.fld prbsCtrl 31 1 = 1 ∧ u.fld prbsCtrl 30 1 = 0 ∧ u.fld prbsCtrl 16 5 = port ∧
       ∀ i < 4, u.reg (mgtReg (0xC024 + 4 * i)) = (if s.fld prbsCtrl 31 1 = 1 then s.reg (mgtReg (0xC024 + 4 * i)) else 0))) ∧
     (s.reaches = true → start → ¬may → run (.prbsEnable value peerL4 []) (fun u => u.fld prbsCtrl 31 1 = 0 ∧ u.fld prbsCtrl 30 1 = 1)) ∧
     (s.reaches = true → ¬start → s.fld prbsCtrl 31 1 = 1 → run (.prbsEnable value peerL4 [e]) (fun u => u.fld prbsCtrl 31 1 = 0 ∧
       (u.reg (mgtReg 0xC024)).toNat = (if s.fld prbsCtrl 0 1 = 1 then min ((s.reg (mgtReg 0xC024)).toNat + e.toNat) (2 ^ 32 - 1)
         else (s.reg (mgtReg 0xC024)).toNat)))) ∧
  (∀ (s : State) (value : Word) (peerL5 : Bool) (w : BitVec 33),
     let n := value.toNat
     let port := fieldOf n 26 5
     let lbg (k : Nat) := s.fld (mgtReg (0xC038 + 4 * k)) 0 32
     let a := s.memtestBase
     let len := s.memtestLen
     let pat := s.fld memtestCtrl 28 2
     let asked := 4096 * fieldOf n 0 24
     let works : Prop := s.devStatus a len = 0 ∧ (s.rangeChans a len).any s.lpParked = false ∧ s.lpHeld (s.rangeChans a len) = none
     (s.reaches = true → value.getLsbD 31 = true → s.fld lbgCtrl 31 1 = 0 → s.portOk port = true → 0 < fieldOf n 0 16 →
       ∃ u, exec (.lbgStart value peerL5) s = .next u ∧ u.fld lbgCtrl 31 1 = 1 ∧ SameMem s u ∧ u.tiles = s.tiles ∧
         (∀ k < 3, u.reg (mgtReg (0xC038 + 4 * k)) = 0) ∧
         ∃ p, (u.nport port).ctl = (s.nport port).ctl ++ [p] ∧ p.flow = 0xFFFE ∧ p.job = 0 ∧ p.drank = s.fld (mgtReg 0xA000) 0 20 ∧
           p.data.length = max 1 (min 16 (fieldOf n 21 5))) ∧
     (s.fld lbgCtrl 31 1 = 1 → s.fld lbgCtrl 0 16 ≤ lbg 1 + lbg 2 ∨ s.passed s.boot.lbgLast (10000 * usU) = true →
       ∃ u, exec .lbgComplete s = .next u ∧ u.fld lbgCtrl 31 1 = 0 ∧ SameMem s u ∧ ∀ b, b ≠ lbgCtrl → u.reg b = s.reg b) ∧
     (s.fld lbgCtrl 31 1 = 1 → lbg 1 + lbg 2 < s.fld lbgCtrl 0 16 → s.passed s.boot.lbgLast (10000 * usU) = false → exec .lbgComplete s = .next s) ∧
     (s.reaches = true → value.getLsbD 31 = true → s.fld memtestCtrl 31 1 = 1 → exec (.memtestStart value) s = .next s) ∧
     (s.reaches = true → value.getLsbD 31 = true → s.fld memtestCtrl 31 1 = 0 → ∃ u, exec (.memtestStart value) s = .next u ∧ SameMem s u ∧
       (asked = 0 ∨ s.devPresent a = false ∨ (a ≤ 0x2FC00000 ∧ 0x2FC00000 < a + asked) →
         u.fld memtestCtrl 30 1 = 1 ∧ u.fld memtestCtrl 31 1 = 0) ∧
       (s.memtestRefused a asked = false → u.fld memtestCtrl 31 1 = 1 ∧ u.fld memtestCtrl 30 1 = 0 ∧ u.reg (mgtReg 0xC050) = 0)) ∧
     (s.fld memtestCtrl 31 1 = 1 → s.devStatus a len ≠ 0 → ∃ u, exec (.memtestComplete []) s = .next u ∧ u.fld memtestCtrl 31 1 = 0 ∧
       u.fld memtestCtrl 30 1 = 1 ∧ SameMem s u) ∧
     (s.fld memtestCtrl 31 1 = 1 → s.devStatus a len = 0 → (s.rangeChans a len).any s.lpParked = true → exec (.memtestComplete []) s = .next s) ∧
     (s.fld memtestCtrl 31 1 = 1 → works → s.goodCws a len = true → pat ≠ 3 → s.MemOk →
       ∃ u, exec (.memtestComplete []) s = .next u ∧ u.fld memtestCtrl 31 1 = 0 ∧ memRead u.devMem a len = memtestPattern pat a len ∧
         (∀ b, b < a ∨ a + len ≤ b → memGet u.devMem b = memGet s.devMem b) ∧ u.tileMem = s.tileMem ∧ u.reg (mgtReg 0xC050) = s.reg (mgtReg 0xC050)) ∧
     (s.fld memtestCtrl 31 1 = 1 → works → s.goodCws a len = true → 8 * w.toNat < len → s.reg (mgtReg 0xC050) = 0 →
       ∃ u, exec (.memtestComplete [w]) s = .next u ∧ u.reg (mgtReg 0xC050) = 1 ∧ u.reg (mgtReg 0xC054) = word32 (8 * w.toNat)))

/-- BAR2. A read of present memory without bad symbols answers its bytes, and of absent memory Unsupported Request; before full ready it answers zeros. A write stores
its bytes and no other; what lies in the journal is dropped, what lies in absent memory dropped and logged; a poisoned unit is marked bad. An access beyond the size of
BAR2 is none of the function's, and one that the Kettle or a channel parked holds waits. In D3hot none is served, and a write is logged. BAR4 shows the journal. Configuration space answers once the link has trained.
Completes, under each clause's conditions on state and operands: bar2Read, bar2Write, registerWrite.
Clauses that rest on the model's own choices: assumptions 2, 84, 94. -/
def Obligations.HostMemoryWindow : Prop :=
  ∀ (s : State) (off : BitVec 36) (len : BitVec 13) (data : List Byte) (poison : Bool) (c : Nat) (addr : BitVec 26) (v : Word) (x : PciItem),
    let o := off.toNat
    let a := s.pair (hifReg 8) + o
    let n := len.toNat
    let m := data.length
    let inside (k : Nat) : Prop := o + k ≤ 2 ^ s.host.bar2
    let reach (k : Nat) : Prop := ∀ p ∈ pieces a k, s.bar2Reach p.1 = true
    let parked (k : Nat) : Bool := (s.bar2Chans (pieces a k)).any s.lpParked
    let free (k : Nat) : Prop := parked k = false ∧ s.lpHeld (s.bar2Chans (pieces a k)) = none
    let unused (k : Nat) : Prop := ∀ p ∈ pieces a k, s.ladleUses p.1 p.2 = false
    let log : LoggedReq := ⟨2, o, (m + 3) / 4, true⟩
    s.awake = true → (s.fnServes 0 = false → 0 < n → exec (.bar2Read .bar2 off len) s = .next (s.out (.barData o none false)) ∧
        (inside m → exec (.bar2Write off data poison) s = .next (s.logUnsupported log))) ∧
      (s.fnServes 0 = true →
      (s.ready = true → 0 < n → inside n → reach n → free n → s.goodCws a n = true →
        ∃ u, exec (.bar2Read .bar2 off len) s = .next u ∧ u.outbox = s.outbox ++ [.barData o (some (memRead s.devMem a n)) false] ∧ SameMem s u ∧
          u.cwErr = s.cwErr) ∧
      (s.ready = true → 0 < n → inside n → ¬reach n → exec (.bar2Read .bar2 off len) s = .next (s.out (.barData o none false))) ∧
      (s.ready = true → 0 < n → inside n → reach n → parked n = true → exec (.bar2Read .bar2 off len) s = .next s) ∧
      (s.ready = true → 0 < n → inside n → reach n → parked n = false → s.lpHeld (s.bar2Chans (pieces a n)) = some c →
        exec (.bar2Read .bar2 off len) s = .next (s.holdUnit (lpUnit c))) ∧
      (0 < n → ¬inside n → exec (.bar2Read .bar2 off len) s = .next s) ∧
      (s.ready = false → 0 < n → (inside n → exec (.bar2Read .bar2 off len) s = .next (s.out (.barData o (some (List.replicate n 0)) false))) ∧
        exec (.bar2Read .bar4 off len) s = .next (s.out (.barData o (some (List.replicate n 0)) false))) ∧
      (s.ready = true → 0xC00000 ≤ o → o + n ≤ 0x1000000 → 0 < n → s.bar2Reach (o - 0xC00000 + 0x2FC00000) = true → s.goodCws (o - 0xC00000 + 0x2FC00000) n = true →
        ∃ u, exec (.bar2Read .bar4 off len) s = .next u ∧ SameMem s u ∧
          u.outbox = s.outbox ++ [.barData o (some (memRead s.devMem (o - 0xC00000 + 0x2FC00000) n)) false]) ∧
      (s.ready = true → s.MemOk → 0 < m → inside m → reach m → free m → unused m → (∀ p ∈ pieces a m, inJournal p.1 = false) →
        s.goodCws a m = true → ∃ u, exec (.bar2Write off data false) s = .next u ∧ memRead u.devMem a m = data ∧
          (∀ b, b < a ∨ a + m ≤ b → memGet u.devMem b = memGet s.devMem b) ∧ u.tileMem = s.tileMem ∧ u.hostMem = s.hostMem ∧ u.outbox = s.outbox) ∧
      (s.ready = true → inside m → reach m → (∀ p ∈ pieces a m, inJournal p.1 = true) → exec (.bar2Write off data poison) s = .next s) ∧
      (s.ready = true → inside m → ¬reach m → (∀ p ∈ pieces a m, s.bar2Reach p.1 = false ∨ inJournal p.1 = true) →
        exec (.bar2Write off data poison) s = .next (s.logUnsupported log)) ∧
      (s.ready = true → inside m → reach m → (∀ p ∈ pieces a m, inJournal p.1 = false) → parked m = false → s.lpHeld (s.bar2Chans (pieces a m)) = some c →
        exec (.bar2Write off data poison) s = .next (s.holdUnit (lpUnit c))) ∧
      (s.ready = true → a % 64 + m ≤ 64 → 0 < m → inside m → s.bar2Reach a = true → free m → unused m → inJournal a = false →
        ∃ u, exec (.bar2Write off data true) s = .next u ∧ (a / 64, CwErr.bad) ∈ u.cwErr)) ∧
      (s.module.linkUp = true → (0 < n → exec (.bar2Read (.config x) off len) s = .next (s.out (.barData o (some (leBytes 4 (s.pciRead x))) false))) ∧
        exec (.registerWrite 0 (.config .maxPayload) addr [(v, 0xF)]) s =
          .next (if v.toNat ≤ 2 then { s with host := { s.host with pcie := { s.host.pcie with maxPayload := v.toNat } } } else s) ∧
        (28 ≤ v.toNat → v.toNat ≤ 36 → ∃ u, exec (.registerWrite 0 (.config .bar2Size) addr [(v, 0xF)]) s = .next u ∧ u.host.bar2 = v.toNat ∧ SameMem s u ∧
          u.pair (hifReg 8) = s.pair (hifReg 8) / 2 ^ v.toNat * 2 ^ v.toNat))

/-- Reads of BAR0. LO answers its bits and keeps HI of the same cycle for the requester, whose read of HI then answers it; a stored register reads as stored;
nothing answers at an unoccupied place, in an absent unit, or before full ready but the two GEN registers. GEN_SYNC answers 0 with no slow write of the requester left.
Writes of BAR0. A whole dword is stored where its access code lets it; a key-guarded one only while the block is unlocked for the requester, which then locks, else it is counted;
a partial dword and a request of more than 16 are counted and dropped; a write to the slow blocks joins its requester's queue; and a drained bank of the rank table alone takes a word.
Completes, under each clause's conditions on state and operands: loRead, genSync, unlock, rankTableAccess, oversizeAccess, slowWriteEffect, registerWrite.
Clauses that rest on the model's own choices: assumptions 84, 85, 87. -/
def Obligations.RegisterAccess : Prop :=
  (∀ (s : State) (req : BitVec 1) (w : Word) (t : BitVec 12) (k : BitVec 5) (first last : BitVec 4),
     let q := req.toNat
     let at26 (a : Nat) : BitVec 26 := BitVec.ofNat 26 a
     let gives (a : Nat) (v : Word) : Prop := exec (.loRead req (at26 a) 0 first last) s = .next (s.out (.regData q a (enabledBytes first v)))
     let lo := BitVec.ofNat 32 s.host.next
     let hi := BitVec.ofNat 32 (s.host.next / 2 ^ 32)
     let on := s.awake = true ∧ s.fnServes q = true
     let live := on ∧ s.ready = true
     (live → ∃ u, exec (.loRead req (at26 (jrnReg 0x10)) 0 first last) s = .next u ∧ u.outbox = s.outbox ++ [.regData q (jrnReg 0x10) (enabledBytes first lo)] ∧
       smFind u.acc.latches (q * 2 ^ 27 + jrnReg 0x10) = some hi ∧ SameMem s u ∧ u.regs = s.regs) ∧
     (live → q = 0 → ∃ u, exec (.loRead req (at26 (jrnReg 0x10)) 1 first last) s = .next u ∧ SameMem s u ∧ u.regs = s.regs ∧
       u.outbox = s.outbox ++ [.regData q (jrnReg 0x10) (enabledBytes first lo), .regData q (jrnReg 0x14) (enabledBytes last hi)]) ∧
     (live → smFind s.acc.latches (q * 2 ^ 27 + jrnReg 0x10) = some w → gives (jrnReg 0x14) w) ∧
     (live → smFind s.acc.latches (q * 2 ^ 27 + jrnReg 0x10) = none → gives (jrnReg 0x14) 0) ∧
     (live → gives (genReg 0x24) (s.reg (genReg 0x24)) ∧ gives (hifReg 0) (s.reg (hifReg 0))) ∧
     (on → gives (genReg 0) (s.reg (genReg 0))) ∧
     (live → s.tileOk t.toNat = true → gives (tilReg t.toNat (0x80 + 4 * k.toNat)) (((s.tile t.toNat).tally k).setWidth 32)) ∧
     (on → gives 0x70000 0 ∧ gives 0x500000 0 ∧ gives 0x3FFFFFC 0) ∧
     (live → s.full = false → gives (mgtReg 0xC3C4) 0 ∧ gives (lpxReg 0x100) 0) ∧
     (on → s.ready = false → gives (mgtReg 0x14) 0 ∧ gives (genReg 0x24) 0) ∧
     (s.awake = false → exec (.loRead req (at26 (genReg 0)) 0 first last) s = .next s) ∧
     (s.awake = true → s.fnServes q = false → exec (.loRead req (at26 (genReg 0)) 0 first last) s = .next (s.out (.barData (genReg 0) none false))) ∧
     (on → s.ready = false → exec (.genSync req) s = .next (s.out (.regData q (genReg 0x20) 0))) ∧
     (live → s.slowWaiting q = false → exec (.genSync req) s = .next (s.slowEdge.out (.regData q (genReg 0x20) 0)))) ∧
  (∀ (s : State) (req : BitVec 1) (sp : HostSpace) (addr : BitVec 26) (v : Word) (be : BitVec 4) (ds : List (Word × BitVec 4)) (dwords : BitVec 10),
     let q := req.toNat
     let wr (a : Nat) : Instr := .registerWrite req .bar0 (BitVec.ofNat 26 a) [(v, 0xF)]
     let counted (i : Instr) (kind a rq : Nat) (k : Nat) : Prop := ∃ u, exec i s = .next u ∧ SameMem s u ∧ u.tiles = s.tiles ∧
       u.fld (mgtReg 4) k 8 = min (s.fld (mgtReg 4) k 8 + 1) 255 ∧ u.reg (mgtReg 8) = word32 (2 ^ 31 + kind * 2 ^ 28 + rq * 2 ^ 27 + a) ∧
       ∀ b, b ≠ mgtReg 4 → b ≠ mgtReg 8 → u.reg b = s.reg b
     let ai := mgtReg 0xA01C
     let bank := s.fld ai 16 1
     let ix := s.fld ai 0 16
     let limit := max 100 (fieldOf v.toNat 0 16)
     (s.reaches = true → s.fnServes q = true →
       exec (wr (genReg 0x24)) s = .next (s.setReg (genReg 0x24) v) ∧
       exec (wr 0x060300) s = .next (s.setReg (jrnReg 0) (word32 (fieldOf v.toNat 31 1 * 2 ^ 31 + fieldOf (s.reg (jrnReg 0)).toNat 0 31))) ∧
       (s.isUnlocked q 0 = true → ∃ u, exec (wr (rstReg 0xC)) s = .next u ∧ u.isUnlocked q 0 = false ∧ SameMem s u ∧
         u.fld (rstReg 0xC) 31 1 = fieldOf v.toNat 31 1 ∧ u.fld (rstReg 0xC) 0 16 = limit ∧ ∀ b, b ≠ rstReg 0xC → u.reg b = s.reg b) ∧
       (s.isUnlocked q 0 = false → s.fld (rstReg 0xC) 0 16 ≥ 100 → counted (wr (rstReg 0xC)) 1 (rstReg 0xC) q 24) ∧
       ((smGet s.acc.slowQ (slowKey q ⟨.pwr, 0, 4⟩) []).length < 8 → ∃ u, exec (wr (pwrReg 4)) s = .next u ∧ u.regs = s.regs ∧ SameMem s u ∧
         smGet u.acc.slowQ (slowKey q ⟨.pwr, 0, 4⟩) [] = smGet s.acc.slowQ (slowKey q ⟨.pwr, 0, 4⟩) [] ++ [(pwrReg 4, v)]) ∧
       exec (wr 0x70000) s = .next s ∧ exec (wr (genReg 0)) s = .next (s.setReg (genReg 0) (s.reg (genReg 0)))) ∧
     (s.awake = true → s.fnServes q = true → be ≠ 0xF → counted (.registerWrite req .bar0 addr [(v, be)]) 2 (addr.toNat / 4 * 4) q 16) ∧
     (s.awake = true → s.fnServes 0 = true → 16 < ds.length → counted (.registerWrite 0 .bar0 addr ds) 3 (addr.toNat / 4 * 4) 0 8) ∧
     (s.awake = true → s.fnServes 0 = true → 16 < dwords.toNat → counted (.oversizeAccess true addr dwords) 3 addr.toNat 0 8) ∧
     (s.awake = true → 16 < dwords.toNat → exec (.oversizeAccess false addr dwords) s = .next (s.out (.barData addr.toNat none false))) ∧
     (s.awake = true → s.fnServes 0 = true → s.ready = false → sp = .bar0 ∨ sp = .bar4 ∨ sp = .bar2 → exec (.registerWrite req sp addr [(v, 0xF)]) s = .next s) ∧
     (s.reaches = true → s.fnServes q = true → ∀ mgt, ∃ u, exec (.unlock req mgt v) s = .next u ∧ (u.isUnlocked q (bit mgt) = true ↔ v = 0xC1A5#32) ∧
       u.regs = s.regs ∧ SameMem s u ∧ ∀ r m, ¬(r = q ∧ m = bit mgt) → r < 2 → m < 2 → u.isUnlocked r m = s.isUnlocked r m) ∧
     (s.reaches = true → s.fnServes q = true → (s.fleet.bank bank).isDrained = true → ∃ u, exec (.rankTableAccess req (some v)) s = .next u ∧
       u.rankWord bank ix = (v &&& 0xFFE0FFF0#32) ∧ SameMem s u ∧ u.fld ai 0 16 = (ix + s.fld ai 31 1) % 2 ^ 16) ∧
     (s.reaches = true → s.fnServes q = true → (s.fleet.bank bank).isDrained = false → ∃ u, exec (.rankTableAccess req (some v)) s = .next u ∧ u.fleet = s.fleet ∧
       u.fld ai 0 16 = (ix + s.fld ai 31 1) % 2 ^ 16) ∧
     (s.reaches = true → s.fnServes q = true → ∃ u, exec (.rankTableAccess req none) s = .next u ∧ u.outbox = s.outbox ++ [.regData q (mgtReg 0xA020) (s.rankWord bank ix)] ∧
       u.fleet = s.fleet) ∧
     (s.awake = true → s.fnServes q = true → s.ready = false → exec (.rankTableAccess req (some v)) s = .next s ∧
       exec (.rankTableAccess req none) s = .next (s.out (.regData q (mgtReg 0xA020) 0))) ∧
     (∀ w r, s.acc.slowOut = w :: r → w.edges ≤ 1 → (∀ x ∈ r, 1 < x.edges) → w.addr = pwrReg 0x20 → (∀ b ∈ s.acc.risen, b.1 ≠ pwrReg 0x20) → s.acc.slowQ = [] →
       ∃ u, exec .slowWriteEffect s = .next u ∧ u.reg (pwrReg 0x20) = w.value ∧ u.acc.slowOut = r.map (fun x => { x with edges := x.edges - 1 }) ∧ SameMem s u) ∧
     ((∀ w ∈ s.acc.slowOut, 1 < w.edges) → exec .slowWriteEffect s = .next s))
end

