-- ==== Sys2Proof/Laws/Tables.lean ====
section
/-!
SUPPORT. Laws of the sparse tables and of byte memory: read after write, and the canonical form of memory, which every
memory operation keeps.
-/

namespace Sys2Proof

/-! ## Tables -/

@[simp] theorem smGet_nil {α : Type} (k : Nat) (d : α) : smGet [] k d = d := rfl
@[simp] theorem smFind_nil {α : Type} (k : Nat) : smFind ([] : SMap α) k = none := rfl

theorem smFind_smSet {α : Type} (m : SMap α) (k j : Nat) (v : α) :
    smFind (smSet m k v) j = if k = j then some v else smFind m j := by
  induction m with
  | nil => simp [smSet, smFind]
  | cons p r ih =>
    obtain ⟨i, w⟩ := p
    simp only [smSet]
    split
    · subst i; simp only [smFind]; split <;> simp_all
    · split
      · simp [smFind]
      · simp only [smFind, ih]
        by_cases h1 : i = j <;> by_cases h2 : k = j <;> simp_all

@[simp] theorem smFind_smSet_same {α : Type} (m : SMap α) (k : Nat) (v : α) : smFind (smSet m k v) k = some v := by
  simp [smFind_smSet]

theorem smFind_smSet_ne {α : Type} (m : SMap α) {k j : Nat} (v : α) (h : k ≠ j) : smFind (smSet m k v) j = smFind m j := by
  simp [smFind_smSet, h]

theorem smGet_eq_smFind {α : Type} (m : SMap α) (k : Nat) (d : α) : smGet m k d = (smFind m k).getD d := by
  induction m with
  | nil => rfl
  | cons p r ih => obtain ⟨i, w⟩ := p; simp only [smGet, smFind]; split <;> simp_all

theorem smGet_smSet {α : Type} (m : SMap α) (k j : Nat) (v d : α) :
    smGet (smSet m k v) j d = if k = j then v else smGet m j d := by
  simp only [smGet_eq_smFind, smFind_smSet]; split <;> rfl

@[simp] theorem smGet_smSet_same {α : Type} (m : SMap α) (k : Nat) (v d : α) : smGet (smSet m k v) k d = v := by
  simp [smGet_smSet]

theorem smGet_smSet_ne {α : Type} (m : SMap α) {k j : Nat} (v d : α) (h : k ≠ j) : smGet (smSet m k v) j d = smGet m j d := by
  simp [smGet_smSet, h]

@[simp] theorem smSet_smSet {α : Type} (m : SMap α) (k : Nat) (v w : α) : smSet (smSet m k v) k w = smSet m k w := by
  induction m with
  | nil => simp [smSet]
  | cons p r ih =>
    obtain ⟨i, u⟩ := p
    by_cases h : i = k
    · simp [smSet, h]
    · by_cases h2 : k < i
      · simp [smSet, h, h2]
      · simp [smSet, h, h2, ih]

/-! ## Byte memory -/

/-- The first listed address of a memory lies above a bound. -/
def above (k : Nat) (m : Memory) : Prop := ∀ c ∈ m, k < c.1

theorem memWf_cons (a : Nat) (v : Byte) (r : Memory) :
    memWf ((a, v) :: r) = true ↔ v ≠ 0 ∧ above a r ∧ memWf r = true := by
  induction r generalizing a v with
  | nil => simp [memWf, above]
  | cons c r ih =>
    obtain ⟨b, w⟩ := c
    have h := ih b w
    constructor
    · intro e
      simp only [memWf, Bool.and_eq_true, decide_eq_true_eq] at e
      obtain ⟨⟨e1, e2⟩, e3⟩ := e
      have e4 : memWf ((b, w) :: r) = true := by simpa [memWf] using e3
      refine ⟨e1, ?_, e4⟩
      intro x hx
      rcases List.mem_cons.mp hx with rfl | hx
      · exact e2
      · exact Nat.lt_trans e2 ((h.mp e4).2.1 x hx)
    · rintro ⟨e1, e2, e3⟩
      have := e2 (b, w) (List.mem_cons_self ..)
      simp only [memWf, Bool.and_eq_true, decide_eq_true_eq]
      exact ⟨⟨e1, this⟩, by simpa [memWf] using e3⟩

theorem above_memPut {b k : Nat} {v : Byte} {m : Memory} (h : above b m) (hk : b < k) : above b (memPut m k v) := by
  induction m with
  | nil => intro x hx; simp only [memPut] at hx; split at hx <;> simp_all
  | cons c r ih =>
    obtain ⟨j, w⟩ := c
    have hr : above b r := fun x hx => h x (List.mem_cons_of_mem _ hx)
    have hj := h (j, w) (List.mem_cons_self ..)
    intro x hx
    simp only [memPut] at hx
    split at hx
    · split at hx
      · exact hr x hx
      · rcases List.mem_cons.mp hx with rfl | hx
        · exact hk
        · exact hr x hx
    · split at hx
      · split at hx
        · exact h x hx
        · rcases List.mem_cons.mp hx with rfl | hx
          · exact hk
          · exact h x hx
      · rcases List.mem_cons.mp hx with rfl | hx
        · exact hj
        · exact ih hr x hx

/-- Storing a byte keeps the canonical form. -/
theorem memWf_memPut {m : Memory} (k : Nat) (v : Byte) (h : memWf m = true) : memWf (memPut m k v) = true := by
  induction m with
  | nil => simp only [memPut]; split <;> simp_all [memWf]
  | cons c r ih =>
    obtain ⟨j, w⟩ := c
    obtain ⟨h1, h2, h3⟩ := (memWf_cons j w r).mp h
    simp only [memPut]
    split
    · rename_i e; subst e
      split
      · exact h3
      · exact (memWf_cons ..).mpr ⟨by assumption, h2, h3⟩
    · split
      · split
        · exact h
        · refine (memWf_cons ..).mpr ⟨by assumption, ?_, h⟩
          intro x hx
          rcases List.mem_cons.mp hx with rfl | hx
          · assumption
          · exact Nat.lt_trans (by assumption) (h2 x hx)
      · exact (memWf_cons ..).mpr ⟨h1, above_memPut h2 (by omega), ih h3⟩

theorem memWf_memWrite {m : Memory} (a : Nat) (bs : List Byte) (h : memWf m = true) : memWf (memWrite m a bs) = true := by
  induction bs generalizing m a with
  | nil => exact h
  | cons b r ih => exact ih _ (memWf_memPut a b h)

theorem memWf_filter {m : Memory} (p : Host.Cell → Bool) (h : memWf m = true) : memWf (m.filter p) = true := by
  induction m with
  | nil => exact h
  | cons c r ih =>
    obtain ⟨j, w⟩ := c
    obtain ⟨h1, h2, h3⟩ := (memWf_cons j w r).mp h
    rw [List.filter_cons]
    split
    · exact (memWf_cons ..).mpr ⟨h1, fun x hx => h2 x (List.mem_of_mem_filter hx), ih h3⟩
    · exact ih h3

theorem memWf_memClear {m : Memory} (lo hi : Nat) (h : memWf m = true) : memWf (memClear m lo hi) = true := memWf_filter _ h

theorem memGet_above {b : Nat} {m : Memory} (h : above b m) : memGet m b = 0 := by
  induction m with
  | nil => rfl
  | cons c r ih =>
    obtain ⟨j, w⟩ := c
    have := h (j, w) (List.mem_cons_self ..)
    simp only [memGet]
    split
    · simp at this; omega
    · exact ih (fun x hx => h x (List.mem_cons_of_mem _ hx))

/-- A read after a store to the same address gives the byte stored; a store leaves every other address alone. -/
theorem memGet_memPut {m : Memory} (k j : Nat) (v : Byte) (h : memWf m = true) :
    memGet (memPut m k v) j = if k = j then v else memGet m j := by
  induction m with
  | nil => by_cases hv : v = 0 <;> by_cases hj : k = j <;> simp_all [memPut, memGet]
  | cons c r ih =>
    obtain ⟨i, w⟩ := c
    obtain ⟨h1, h2, h3⟩ := (memWf_cons i w r).mp h
    simp only [memPut]
    split
    · rename_i e; subst e
      by_cases hv : v = 0
      · simp only [hv, ↓reduceIte, memGet]
        by_cases hj : i = j
        · subst hj; simp [memGet_above h2]
        · simp [hj]
      · rw [if_neg hv]; by_cases hj : i = j <;> simp [memGet, hj]
    · rename_i e
      split
      · rename_i e2
        by_cases hv : v = 0
        · simp only [hv, ↓reduceIte]
          by_cases hj : k = j
          · subst hj
            simp only [↓reduceIte]
            apply memGet_above
            intro x hx
            rcases List.mem_cons.mp hx with rfl | hx
            · exact e2
            · exact Nat.lt_trans e2 (h2 x hx)
          · simp [hj]
        · rw [if_neg hv]; by_cases hj : k = j <;> simp [memGet, hj]
      · simp only [memGet, ih h3]
        by_cases hi : i = j
        · subst hi; simp [Ne.symm e]
        · simp [hi]

/-- Storing bytes leaves every address outside them alone. -/
theorem memGet_memWrite_out {m : Memory} {a j : Nat} {bs : List Byte} (h : memWf m = true) (hj : j < a ∨ a + bs.length ≤ j) :
    memGet (memWrite m a bs) j = memGet m j := by
  induction bs generalizing m a with
  | nil => rfl
  | cons b r ih =>
    simp only [List.length_cons] at hj
    simp only [memWrite]
    rw [ih (memWf_memPut a b h) (by omega), memGet_memPut _ _ _ h]
    simp; omega

/-- Reading an address inside stored bytes gives the byte stored there. -/
theorem memGet_memWrite_in {m : Memory} {a i : Nat} {bs : List Byte} (h : memWf m = true) (hi : i < bs.length) :
    memGet (memWrite m a bs) (a + i) = bs[i] := by
  induction bs generalizing m a i with
  | nil => simp at hi
  | cons b r ih =>
    simp only [memWrite]
    cases i with
    | zero =>
      rw [memGet_memWrite_out (memWf_memPut a b h) (by omega), memGet_memPut _ _ _ h]
      simp
    | succ i =>
      have := ih (a := a + 1) (i := i) (memWf_memPut a b h) (by simpa using hi)
      simpa [Nat.add_assoc, Nat.add_comm 1 i] using this

@[simp] theorem length_fromTo (a n : Nat) : (fromTo a n).length = n := by
  induction n generalizing a with
  | zero => rfl
  | succ n ih => simp [fromTo, ih]

theorem getElem_fromTo (a n i : Nat) (h : i < (fromTo a n).length) : (fromTo a n)[i] = a + i := by
  induction n generalizing a i with
  | zero => simp [fromTo] at h
  | succ n ih =>
    cases i with
    | zero => rfl
    | succ i => simp only [fromTo, List.getElem_cons_succ]; rw [ih]; omega

@[simp] theorem length_leBytes (n v : Nat) : (leBytes n v).length = n := by
  induction n generalizing v with
  | zero => rfl
  | succ n ih => simp [leBytes, ih]

/-- Reading back the range just stored gives the bytes stored. -/
theorem memRead_memWrite {m : Memory} (a : Nat) (bs : List Byte) (h : memWf m = true) :
    memRead (memWrite m a bs) a bs.length = bs := by
  apply List.ext_getElem
  · simp [memRead]
  · intro i h1 h2
    simp only [memRead, List.getElem_map, getElem_fromTo]
    exact memGet_memWrite_in h h2

end Sys2Proof
end

