-- ==== Sys2Proof/Laws/Hash.lean ====
section
/-!
SUPPORT. The lengths of the sponge's outputs.
-/

namespace Sys2Proof.Machine

open Sys2Proof

theorem length_keccakRound (a : List (BitVec 64)) (rc : BitVec 64) : (keccakRound a rc).length = 25 := by
  unfold keccakRound
  simp only
  split
  · next h => exact absurd (congrArg List.length h) (by simp)
  · next h => have := congrArg List.length h; simp at this; simp [this]

theorem length_keccakF (a : List (BitVec 64)) : (keccakF a).length = 25 := by
  unfold keccakF
  have h : ∀ (l : List (BitVec 64)) (b : List (BitVec 64)), l ≠ [] → (l.foldl keccakRound b).length = 25 := by
    intro l
    induction l with
    | nil => simp
    | cons c r ih =>
      intro b _
      rw [List.foldl_cons]
      by_cases hr : r = []
      · simp [hr, length_keccakRound]
      · exact ih _ hr
  exact h _ _ (by simp [keccakRc])

theorem length_sponge (bs : List (List Byte)) (a : List (BitVec 64)) (h : a.length = 25) :
    (bs.foldl (fun a blk => keccakF (keccakAbsorb a blk)) a).length = 25 := by
  induction bs generalizing a with
  | nil => exact h
  | cons b r ih => exact ih _ (length_keccakF _)

theorem length_lanes (a : List (BitVec 64)) : (a.flatMap (fun w => leBytes 8 w.toNat)).length = 8 * a.length := by
  induction a with
  | nil => rfl
  | cons w r ih => simp only [List.flatMap_cons, List.length_append, length_leBytes, List.length_cons, ih]; omega

/-- SHAKE256 answers as many bytes as are asked for, up to one block. -/
theorem length_shake256 (n : Nat) (m : List Byte) (h : n ≤ 136) : (shake256 n m).length = n := by
  unfold shake256 keccak
  simp only [keccakSqueeze, List.length_take, List.length_append, length_lanes]
  rw [length_sponge _ _ (by simp)]
  omega

end Sys2Proof.Machine
end

