-- ==== Sys2Proof/Laws/Issue.lean ====
section
/-!
SUPPORT. What the firing rule can do: when an instruction issues, and what it leaves as it was; what a Goose and a port's
next replay leave alone.
-/

namespace Sys2Proof.Machine

open Sys2Proof

/-! ## Tiles of a state -/

@[simp] theorem tile_setTile_same (s : State) (t : Nat) (x : TileState) : (s.setTile t x).tile t = x := by
  simp [State.tile, State.setTile]

theorem tile_setTile (s : State) (t m : Nat) (x : TileState) : (s.setTile t x).tile m = if t = m then x else s.tile m := by
  simp [State.tile, State.setTile, smGet_smSet]

@[simp] theorem setTile_setTile (s : State) (t : Nat) (x y : TileState) : (s.setTile t x).setTile t y = s.setTile t y := by
  simp [State.setTile]

@[simp] theorem eng_setEng_same (x : TileState) (e : Engine) (y : EngineState) : (x.setEng e y).eng e = y := by
  simp [TileState.eng, TileState.setEng]

theorem engIdx_inj {e f : Engine} (h : engIdx e = engIdx f) : e = f := by cases e <;> cases f <;> simp_all [engIdx]

theorem eng_setEng (x : TileState) (e f : Engine) (y : EngineState) : (x.setEng e y).eng f = if e = f then y else x.eng f := by
  split
  · subst_vars; simp
  · have h : engIdx e ≠ engIdx f := fun h => by simp_all [engIdx_inj h]
    have : (engIdx e : Nat) ≠ (engIdx f : Nat) := fun q => h (Fin.ext q)
    simp [TileState.eng, TileState.setEng, this]

theorem gpr_setGpr (x : TileState) (i j : BitVec 5) (w : Word) :
    (x.setGpr i w).gpr j = if j = i ∧ i ≠ 0 then w else x.gpr j := by
  unfold TileState.setGpr TileState.gpr
  by_cases hi : i = 0#5
  · simp [hi]
  · by_cases hj : j = 0#5
    · have : ¬ j = i := fun e => hi (e ▸ hj)
      simp [hj, Ne.symm hi]
    · have e : (i.toNat = j.toNat) ↔ (j = i) := by rw [eq_comm, ← BitVec.toNat_inj]
      by_cases h : j = i
      · subst h; simp [hi]
      · simp [hi, hj, e, h]

/-! ## What counting, recording and raising an event leave alone -/

@[simp] theorem setReg_quiet (s : State) (a : Nat) (w : Word) : (s.setReg a w).quiet = s.quiet := rfl
@[simp] theorem setFld_quiet (s : State) (a lo w v : Nat) : (s.setFld a lo w v).quiet = s.quiet := rfl
@[simp] theorem bump_quiet (s : State) (a n : Nat) : (s.bump a n).quiet = s.quiet := rfl
@[simp] theorem bumpF_quiet (s : State) (a lo w n : Nat) : (s.bumpF a lo w n).quiet = s.quiet := rfl
@[simp] theorem setBit_quiet (s : State) (a i : Nat) : (s.setBit a i).quiet = s.quiet := rfl
@[simp] theorem setMark_quiet (s : State) (c : Nat) (r : GooseMark) : (s.setMark c r).quiet = s.quiet := rfl
@[simp] theorem setCluster_quiet (s : State) (c : Nat) (x : ClusterState) : (s.setCluster c x).quiet = s.quiet := rfl

theorem ite_quiet {s u v : State} {c : Prop} [Decidable c] (h1 : u.quiet = s.quiet) (h2 : v.quiet = s.quiet) :
    (if c then u else v).quiet = s.quiet := by split <;> assumption

@[simp] theorem queueEvent_quiet (s : State) (e : Event) : (s.queueEvent e).quiet = s.quiet := by
  unfold State.queueEvent; exact ite_quiet rfl rfl

@[simp] theorem raise_quiet (s : State) (a d : Nat) : (s.raise a d).quiet = s.quiet := by
  unfold State.raise State.raiseAt; exact ite_quiet (queueEvent_quiet s _) (queueEvent_quiet s _)

@[simp] theorem raiseAt_quiet (s : State) (b a d : Nat) : (s.raiseAt b a d).quiet = s.quiet := by
  unfold State.raiseAt; exact ite_quiet (queueEvent_quiet s _) (queueEvent_quiet s _)

@[simp] theorem gooseMax_quiet (s : State) (a l g w c b : Nat) : (s.gooseMax a l g w c b).quiet = s.quiet := by
  unfold State.gooseMax; exact ite_quiet rfl rfl

theorem alarm_quiet (q : State) (l : List Nat) : ({ q with alarmMap := l } : State).quiet = q.quiet := rfl

/-- A cluster Goose writes registers, its own record of replays and events only. -/
@[simp] theorem gooseCluster_quiet (s : State) (c t p : Nat) (seg : BitVec 16) (n : BitVec 64) (g l d b : Nat) :
    (s.gooseCluster c t p seg n g l d b).quiet = s.quiet := by
  unfold State.gooseCluster
  refine ite_quiet rfl ?_
  extract_lets sl m s1 s2 w al ev s3 s4 src s5 en d s6
  have h2 : s2.quiet = s.quiet := by simp [s2, s1]
  have h3 : s3.quiet = s.quiet := (setMark_quiet ..).trans h2
  have h4 : s4.quiet = s.quiet :=
    ite_quiet ((setBit_quiet ..).trans ((bump_quiet ..).trans ((setBit_quiet ..).trans h3))) h3
  have hs : src.quiet = s.quiet := (bump_quiet ..).trans ((setBit_quiet ..).trans h4)
  have h5 : s5.quiet = s.quiet := ite_quiet ((alarm_quiet src _).trans hs) h4
  have h6 : s6.quiet = s.quiet := ite_quiet ((raiseAt_quiet ..).trans h5) h5
  exact ite_quiet h2 (ite_quiet ((raiseAt_quiet ..).trans h6) h6)

/-! ## What taking up the next replay at a port leaves alone -/

theorem SamePlans.trans {s u v : State} (h : SamePlans s u) (k : SamePlans u v) : SamePlans s v :=
  ⟨k.1.trans h.1, k.2.1.trans h.2.1, k.2.2.trans h.2.2⟩

theorem quiet_plans {s u : State} (h : u.quiet = s.quiet) : SamePlans s u := by
  unfold SamePlans
  injection h with _ _ _ _ _ _ _ _ _ _ _ ht _ _ hs hr
  exact ⟨ht, hs, congrArg (List.map (fun r => r.seg)) hr⟩

/-- The lateness kept for a replay changes the record of that replay alone. -/
theorem noteReplayLate_plans (s : State) (g : BitVec 16) (n : BitVec 64) (l : Nat) : SamePlans s (s.noteReplayLate g n l) := by
  unfold State.noteReplayLate State.modLive
  split
  · exact ⟨rfl, rfl, rfl⟩
  · refine ⟨rfl, rfl, ?_⟩
    simp only [State.setRun, List.map_map]
    refine List.map_congr_left (fun r _ => ?_)
    simp only [Function.comp_apply]
    split
    · rename_i h; exact h.1.symm
    · rfl

/-- The chip Goose writes registers, the record of the replay, the port's own marks and events only. -/
theorem gooseChip_plans (s : State) (p : OwnPort) (k : Nat) (g : BitVec 16) (n : BitVec 64) (gate l d : Nat) :
    SamePlans s (s.gooseChip p k g n gate l d) := by
  unfold State.gooseChip
  extract_lets a sl m s1 r warn alarm s2 s3 s4 ev dt s5
  split
  · exact ⟨rfl, rfl, rfl⟩
  · have h1 : SamePlans s s1 := (quiet_plans (gooseMax_quiet ..)).trans (noteReplayLate_plans ..)
    have h2 : SamePlans s s2 := h1
    have h3 : s3.quiet = s2.quiet := ite_quiet ((bump_quiet ..).trans (setBit_quiet ..)) rfl
    have h4 : s4.quiet = s2.quiet := ite_quiet ((bump_quiet ..).trans ((setBit_quiet ..).trans h3)) h3
    have h5 : s5.quiet = s2.quiet := ite_quiet ((raise_quiet ..).trans h4) h4
    exact h2.trans (quiet_plans (ite_quiet ((raise_quiet ..).trans h5) h5))

theorem goosePort_plans (s : State) (p : OwnPort) (r : ReplayRec) (gate l d : Nat) : SamePlans s (s.goosePort p r gate l d) := by
  unfold State.goosePort
  dsimp only
  split <;> first | exact gooseChip_plans .. | exact quiet_plans (gooseCluster_quiet ..) | exact ⟨rfl, rfl, rfl⟩ | skip
  all_goals
    split <;> first | exact quiet_plans (gooseCluster_quiet ..) | exact ⟨rfl, rfl, rfl⟩

/-- A port that takes up its next replay changes no tile, no segment and no ordered replay's segment. -/
theorem startNext_plans (s : State) (p : OwnPort) (n : Nat) : SamePlans s (s.startNext p n) := by
  induction n generalizing s with
  | zero => exact ⟨rfl, rfl, rfl⟩
  | succ n ih =>
    unfold State.startNext
    dsimp only
    split
    · split
      · exact SamePlans.trans (u := s.setPort p _) ⟨rfl, rfl, rfl⟩ (ih _)
      · exact SamePlans.trans (u := s.setPort p _) ⟨rfl, rfl, rfl⟩ (goosePort_plans ..)
    · exact ⟨rfl, rfl, rfl⟩

/-! ## An instruction that issues -/

theorem setTile_quiet {s u : State} (h : u.quiet = s.quiet) (t : Nat) (x : TileState) :
    (u.setTile t x).quiet = (s.setTile t x).quiet := by
  have : u.tiles = s.tiles := by injection h
  unfold State.setTile
  rw [this]
  have h1 : ∀ v : State, ({ v with tiles := smSet s.tiles t x } : State).quiet = { v.quiet with tiles := smSet s.tiles t x } := fun _ => rfl
  rw [h1, h1, h]

theorem tile_quiet {s u : State} (h : u.quiet = s.quiet) (m : Nat) : u.tile m = s.tile m := by
  have : u.tiles = s.tiles := by injection h
  simp [State.tile, this]

theorem mem_quiet {s u : State} (h : u.quiet = s.quiet) : SameMem s u :=
  by unfold SameMem; injection h; exact ⟨by assumption, by assumption, by assumption⟩

/-- STREAM_END_MISMATCH of a PC out of its stream changes the tile's state and halt record only. -/
theorem pcCheck_cases (s : State) (t : Nat) (e : Engine) :
    s.pcCheck t e = s ∨ ∃ y, s.pcCheck t e = s.setTile t y ∧ y.engines = (s.tile t).engines ∧ y.fresh = (s.tile t).fresh ∧ y.work = (s.tile t).work := by
  unfold State.pcCheck State.halt
  dsimp only
  split
  · rename_i h
    simp only [State.pcLeft, Bool.and_eq_true, decide_eq_true_eq] at h
    rw [h.1.1]
    let y : TileState :=
      { s.tile t with
        st := .halted, halt := some ⟨engCode e, rsnStreamEnd, ((s.tile t).eng e).pc, 0, s.beatAt (clusterOf t), 0xFFFF⟩, haltReported := false }
    exact .inr ⟨y, by simp [y, rsnStreamEnd, rsnEcc], rfl, rfl, rfl⟩
  · exact .inl rfl

/-- What an issue leaves once the work of the instruction has given q: the engine advanced with the instruction outstanding. -/
def IssuedTile (s u : State) (e : Engine) (k : Issue) (q : State) (wide : List (Nat × Nat)) (dest : List (Nat × Nat × Nat)) (heavy : Bool) (pc : Nat) : Prop :=
  (u.tile k.tile.toNat).work = (q.tile k.tile.toNat).work ∧
    (u.tile k.tile.toNat).fresh = (dest.foldl (fun w d => w.wrote (engCode e) d.1 d.2.1 d.2.2) ((q.tile k.tile.toNat).ordered (engCode e) (waitTallies k))).fresh ∧
    (∀ f, f ≠ e → (u.tile k.tile.toNat).eng f = (q.tile k.tile.toNat).eng f) ∧
    (u.tile k.tile.toNat).eng e = { (q.tile k.tile.toNat).eng e with
      pc := pc, head := none, inflight := ((q.tile k.tile.toNat).eng e).inflight ++ [⟨s.pcOf e k, k.signal, wide, dest, heavy, false⟩] } ∧
    u.quiet = (q.setTile k.tile.toNat (u.tile k.tile.toNat)).quiet ∧
    ((s.tile k.tile.toNat).firstIssued = true → u = q.setTile k.tile.toNat (u.tile k.tile.toNat))

/-- Writes that are noted change no more than what is visible to which engine. -/
theorem wrote_only (x : TileState) (c m o n : Nat) : x.wrote c m o n = { x with fresh := (x.wrote c m o n).fresh } := by
  unfold TileState.wrote; split <;> rfl

theorem wrotes_only (dest : List (Nat × Nat × Nat)) (c : Nat) (x : TileState) :
    dest.foldl (fun w d => w.wrote c d.1 d.2.1 d.2.2) x =
      { x with fresh := (dest.foldl (fun (w : TileState) d => w.wrote c d.1 d.2.1 d.2.2) x).fresh } := by
  induction dest generalizing x with
  | nil => rfl
  | cons d r ih => simp only [List.foldl_cons]; rw [ih, wrote_only]

theorem work_setEng (x : TileState) (e : Engine) (y : EngineState) : (x.setEng e y).work = x.work := rfl

theorem finishIssue_done (s q : State) (e : Engine) (k : Issue) (wide : List (Nat × Nat)) (dest : List (Nat × Nat × Nat)) (heavy : Bool)
    (pc : Option Nat) (ws cs : List (Nat × Nat)) :
    IssuedTile s (s.finishIssue q e k false wide dest heavy pc ws cs) e k q wide dest heavy (pc.getD (s.pcOf e k + 1)) := by
  unfold State.finishIssue
  extract_lets t x y gb late z now fl z1 x1 x2 q1 q2
  have hx1 : x1 = { q.tile t with fresh := x1.fresh } := by
    simp only [x1]; rw [wrotes_only]; rfl
  have hx2 : x2 = { (q.tile t).setEng e z1 with fresh := x1.fresh } := by
    simp only [x2]; conv_lhs => rw [hx1]
    rfl
  have hnow : now = false := by simp [now]
  have h3 : q2.signalNow t e (if now = true then k.signal else none) = q2.pcCheck t e := by rw [hnow]; rfl
  have h2 : q2.quiet = q1.quiet := by simp only [q2]; exact ite_quiet rfl (gooseCluster_quiet ..)
  have ht : q2.tile t = { (q.tile t).setEng e z1 with firstIssued := true, firing := [], fresh := x1.fresh } := by
    rw [tile_quiet h2]; simp only [q1]; rw [tile_setTile_same, hx2]
  have hf : (s.tile t).firstIssued = true → q2 = q1 := fun h => if_pos h
  have hz : z1 = { z with pc := pc.getD (s.pcOf e k + 1), head := none, inflight := z.inflight ++ [⟨s.pcOf e k, k.signal, wide, dest, heavy, false⟩] } := by
    simp only [z1, fl, hnow]; rfl
  have main : ∀ u : TileState, u.engines = ((q.tile t).setEng e z1).engines →
      (∀ f, f ≠ e → u.eng f = (q.tile t).eng f) ∧ u.eng e = z1 := by
    intro u h
    have h' : ∀ f, u.eng f = ((q.tile t).setEng e z1).eng f := fun f => by unfold TileState.eng; rw [h]
    exact ⟨fun f hfe => by rw [h', eng_setEng, if_neg (Ne.symm hfe)], by rw [h', eng_setEng_same]⟩
  rw [h3]
  unfold IssuedTile
  have hT : k.tile.toNat = t := rfl
  rw [hT]
  rcases pcCheck_cases q2 t e with h | ⟨w, h, he, hf1, hw⟩
  · rw [h]
    have hw : (q2.tile t).work = (q.tile t).work := by rw [ht]; rfl
    obtain ⟨m1, m2⟩ := main (q2.tile t) (by rw [ht])
    refine ⟨hw, by rw [ht], m1, m2.trans hz, ?_, ?_⟩
    · rw [h2, ht]; simp only [q1]; rw [hx2]
    · intro hi; rw [hf hi]; rw [tile_setTile_same]
  · have hr := tile_setTile_same q2 t w
    have hq : w.work = (q.tile t).work := by rw [hw, ht]; rfl
    obtain ⟨m1, m2⟩ := main w (by rw [he, ht])
    rw [h, hr]
    refine ⟨hq, by rw [hf1, ht], m1, m2.trans hz, ?_, ?_⟩
    · rw [setTile_quiet h2]; simp [q1]
    · intro hi; rw [hf hi]; simp [q1]

/-- A read that meets no bad symbols changes nothing. -/
theorem eccRead_good {s : State} {t mem off n : Nat} (h : s.goodWords t mem off n = true) (q : State) (hq : q.wordErr = s.wordErr) (b : Bool) : q.eccRead t mem off n b = (q, none) := by
  have : (q.wordErr.filter (fun p => decide (tmAddr t mem 0 / 32 + off / 32 ≤ p.1) && decide (p.1 * 32 < tmAddr t mem 0 / 32 * 32 + off + n))) = [] := by
    rw [hq, List.filter_eq_nil_iff]
    intro p hp
    have := (List.all_eq_true.mp h) p hp
    simp at this ⊢; omega
  unfold State.eccRead
  dsimp only
  rw [this]; rfl

/-- Where an instruction may issue, its word has been read already or reads as it stands. -/
theorem issue_fires {s : State} {e : Engine} {k : Issue} {cs : List CreditNeed} {hold : State → Option (Hold × State)} {alone : Bool}
    {run : State → Run} (hi : s.canIssue e k = true) : s.issue e k cs hold alone run = s.fire e k cs hold alone run := by
  simp only [State.canIssue, Bool.and_eq_true, decide_eq_true_eq, Bool.not_eq_true'] at hi
  obtain ⟨⟨⟨⟨⟨⟨⟨h1, h2⟩, h3⟩, h4⟩, h5⟩, -⟩, -⟩, -⟩ := hi
  have hl : ¬ s.unlocked.contains (clusterOf k.tile.toNat) = true := by simpa using h4
  unfold State.issue
  dsimp only
  rw [if_neg (by simp only [h1, h2, h3, hl]; simp)]
  split
  · rfl
  · rename_i hn
    have hw : s.goodWords k.tile.toNat (4 + engCode e) (8 * ((s.tile k.tile.toNat).eng e).pc) 8 = true := by
      unfold State.fetched at h5; simpa [hn] using h5
    rw [eccRead_good hw s rfl false]

/-- An instruction that may issue, whose credits are there and which nothing else holds, does what its run gives. -/
theorem fire_runs {s : State} {e : Engine} {k : Issue} {cs : List CreditNeed} {hold : State → Option (Hold × State)} {alone : Bool}
    {run : State → Run} (hi : s.canIssue e k = true) (hc : unmetCredit cs = none) (hh : hold s = none) :
    s.fire e k cs hold alone run =
      (let t := k.tile.toNat
       let fin := fun q wide dest heavy pc => s.finishIssue q e k alone wide dest heavy pc
         ((needOf (s.tile t) k).map (fun w => (w.1.tally.toNat, w.2))) (cs.map (fun c => (c.out, c.need)))
       match run (s.setTile t (s.taken k)) with
       | .stop conds => (s.noteStop t e conds).haltMany t (engCode e) (s.pcOf e k) conds
       | .clash cs => (s.setTile t (s.taken k)).bankConflict t e (s.pcOf e k) cs
       | .fail q r i => q.halt t (engCode e) r (s.pcOf e k) i
       | .halted q => q
       | .done q wide heavy pc => fin q wide [] heavy pc
       | .moves q wide d => fin q wide [d] false none
       | .store q mem off bytes wide heavy => fin (q.tmStore t mem off bytes) wide [(mem, off, bytes.length)] heavy none) := by
  simp only [State.canIssue, Bool.and_eq_true, decide_eq_true_eq, Bool.not_eq_true', Option.isNone_iff_eq_none] at hi
  obtain ⟨⟨⟨-, h4⟩, h5⟩, h6⟩ := hi
  have hw : waitsNeed (s.tile k.tile.toNat) k = .ok (needOf (s.tile k.tile.toNat) k) := by
    unfold needsKnown at h4; unfold needOf; split <;> simp_all
  unfold State.fire
  dsimp only
  rw [hw]
  dsimp only
  rw [h5]
  dsimp only
  rw [hc]
  dsimp only
  rw [h6]
  simp only [Bool.not_true, Bool.false_eq_true, if_false, hh, List.map_map, Function.comp_def]
  rfl

/-- An instruction that may issue and whose work is done leaves what `IssuedTile` says. -/
theorem issue_done {s q : State} {e : Engine} {k : Issue} {cs : List CreditNeed} {hold : State → Option (Hold × State)}
    {run : State → Run} {wide : List (Nat × Nat)} {heavy : Bool} {pc : Option Nat} (hi : s.canIssue e k = true)
    (hc : unmetCredit cs = none) (hh : hold s = none) (hr : run (s.setTile k.tile.toNat (s.taken k)) = .done q wide heavy pc) :
    IssuedTile s (s.issue e k cs hold false run) e k q wide [] heavy (pc.getD (s.pcOf e k + 1)) := by
  rw [issue_fires hi, fire_runs hi hc hh]
  dsimp only
  rw [hr]
  exact finishIssue_done s q e k wide [] heavy pc _ _

/-- One whose store is done leaves the same, with the words it writes until it completes. -/
theorem issue_store {s q : State} {e : Engine} {k : Issue} {cs : List CreditNeed} {hold : State → Option (Hold × State)}
    {run : State → Run} {mem off : Nat} {bs : List Byte} {wide : List (Nat × Nat)} {heavy : Bool} (hi : s.canIssue e k = true)
    (hc : unmetCredit cs = none) (hh : hold s = none) (hr : run (s.setTile k.tile.toNat (s.taken k)) = .store q mem off bs wide heavy) :
    IssuedTile s (s.issue e k cs hold false run) e k (q.tmStore k.tile.toNat mem off bs) wide [(mem, off, bs.length)] heavy (s.pcOf e k + 1) := by
  rw [issue_fires hi, fire_runs hi hc hh]
  dsimp only
  rw [hr]
  exact finishIssue_done s _ e k wide _ heavy none _ _

/-- One that fills a vector register, or sends a packet, as its accesses go on. -/
theorem issue_moves {s q : State} {e : Engine} {k : Issue} {cs : List CreditNeed} {hold : State → Option (Hold × State)}
    {run : State → Run} {d : Nat × Nat × Nat} {wide : List (Nat × Nat)} (hi : s.canIssue e k = true)
    (hc : unmetCredit cs = none) (hh : hold s = none) (hr : run (s.setTile k.tile.toNat (s.taken k)) = .moves q wide d) :
    IssuedTile s (s.issue e k cs hold false run) e k q wide [d] false (s.pcOf e k + 1) := by
  rw [issue_fires hi, fire_runs hi hc hh]
  dsimp only
  rw [hr]
  exact finishIssue_done s _ e k wide _ false none _ _

theorem issuesIn_of {i : Instr} {s u q : State} {e : Engine} {k : Issue} {wide : List (Nat × Nat)} {dest : List (Nat × Nat × Nat)} {heavy : Bool} {pc : Nat}
    (he : exec i s = .next u) (h : IssuedTile s u e k q wide dest heavy pc) : IssuesIn i s e k q wide dest heavy pc :=
  ⟨u, he, h⟩

/-- An instruction whose work changes only the issuing tile. -/
theorem issues_of {i : Instr} {s : State} {e : Engine} {k : Issue} {run : State → Run} {f : TileState → TileState}
    (he : exec i s = .next (s.issuePlain e k run)) (hi : s.canIssue e k = true)
    (hr : run (s.setTile k.tile.toNat (s.taken k)) = .tile (s.setTile k.tile.toNat (s.taken k)) k.tile.toNat f) :
    Issues i s e k (f (s.taken k)) := by
  refine issuesIn_of he (issue_done (wide := []) (heavy := false) (pc := none) hi rfl rfl ?_)
  rw [hr]
  simp [Run.tile, State.modTile]

/-- A register form writes GD alone. -/
theorem rForm_issues {s : State} {k : Issue} {gd ga gb : BitVec 5} {f : Word → Word → Word} {i : Instr} (hi : s.canIssue .sc k = true)
    (he : exec i s = .next (rForm k gd ga gb f s)) :
    Issues i s .sc k ((s.taken k).setGpr gd (f ((s.taken k).gpr ga) ((s.taken k).gpr gb))) :=
  issues_of (f := fun x => x.setGpr gd (f (x.gpr ga) (x.gpr gb))) he hi rfl

/-- An immediate form writes GD alone. -/
theorem iForm_issues {s : State} {k : Issue} {gd ga : BitVec 5} {f : Word → Word} {i : Instr} (hi : s.canIssue .sc k = true)
    (he : exec i s = .next (iForm k gd ga f s)) :
    Issues i s .sc k ((s.taken k).setGpr gd (f ((s.taken k).gpr ga))) :=
  issues_of (f := fun x => x.setGpr gd (f (x.gpr ga))) he hi rfl

/-- An instruction whose work gives state q. -/
theorem issuesIn_plain {i : Instr} {s q : State} {e : Engine} {k : Issue} {run : State → Run} {wide : List (Nat × Nat)} {heavy : Bool}
    {pc : Option Nat} (he : exec i s = .next (s.issuePlain e k run)) (hi : s.canIssue e k = true)
    (hr : run (s.setTile k.tile.toNat (s.taken k)) = .done q wide heavy pc) :
    IssuesIn i s e k q wide [] heavy (pc.getD (s.pcOf e k + 1)) :=
  issuesIn_of he (issue_done hi rfl rfl hr)

/-- Where an instruction meets conditions at its issue, the state is the halt of its tile. -/
theorem issue_stop {s : State} {e : Engine} {k : Issue} {cs : List CreditNeed} {hold : State → Option (Hold × State)}
    {run : State → Run} {alone : Bool} {conds : List (Nat × Nat)} (hi : s.canIssue e k = true)
    (hc : unmetCredit cs = none) (hh : hold s = none) (hr : run (s.setTile k.tile.toNat (s.taken k)) = .stop conds) :
    s.issue e k cs hold alone run = (s.noteStop k.tile.toNat e conds).haltMany k.tile.toNat (engCode e) (s.pcOf e k) conds := by
  rw [issue_fires hi, fire_runs hi hc hh]
  dsimp only
  rw [hr]

theorem canIssue_running {s : State} {e : Engine} {k : Issue} (h : s.canIssue e k = true) : (s.tile k.tile.toNat).st = .running := by
  simp only [State.canIssue, Bool.and_eq_true, decide_eq_true_eq] at h
  exact h.1.1.1.1.1.1.1

/-- A halt of a running tile for another reason than an uncorrectable word or the power budget. -/
theorem halt_running {s : State} {t : Nat} (e r pc info : Nat) (h : (s.tile t).st = .running) (hr : r ≠ rsnEcc) :
    s.halt t e r pc info = s.setTile t { s.tile t with st := .halted, halt := some ⟨e, r, pc, 0, s.beatAt (clusterOf t), info⟩, haltReported := false } := by
  unfold State.halt; simp [h, hr]

theorem haltsWith_one {i : Instr} {s : State} {e : Engine} {k : Issue} {run : State → Run} {r info : Nat}
    (he : exec i s = .next (s.issuePlain e k run)) (hi : s.canIssue e k = true)
    (hr : run (s.setTile k.tile.toNat (s.taken k)) = .stop [(r, info)]) (h1 : r ≠ rsnEcc) (h2 : r ≠ rsnPowerBudget) :
    HaltsWith i s e k r info false := by
  unfold HaltsWith State.issuePlain at *
  rw [he, issue_stop hi rfl rfl hr]
  simp [State.noteStop, h2, State.haltMany, halt_running _ _ _ _ (canIssue_running hi) h1]

/-- The takes change tallies only. -/
theorem taken_eq (s : State) (k : Issue) : s.taken k = { s.tile k.tile.toNat with tallies := (s.taken k).tallies } := by
  unfold State.taken takeAll
  generalize needOf _ _ = ws
  generalize s.tile k.tile.toNat = x
  induction ws generalizing x with
  | nil => rfl
  | cons p r ih => simp only [List.foldl_cons]; rw [ih]; split <;> rfl

@[simp] theorem taken_eng (s : State) (k : Issue) (e : Engine) : (s.taken k).eng e = (s.tile k.tile.toNat).eng e := by rw [taken_eq]; rfl

theorem haltsWith_two {i : Instr} {s : State} {e : Engine} {k : Issue} {run : State → Run} {r info r2 i2 : Nat}
    (he : exec i s = .next (s.issuePlain e k run)) (hi : s.canIssue e k = true)
    (hr : run (s.setTile k.tile.toNat (s.taken k)) = .stop [(r, info), (r2, i2)]) (h1 : r ≠ rsnEcc) (h2 : r ≠ rsnPowerBudget)
    (h3 : r2 ≠ rsnPowerBudget) (h4 : r ≤ r2) : HaltsWith i s e k r info true := by
  unfold HaltsWith State.issuePlain at *
  rw [he, issue_stop hi rfl rfl hr]
  have hn : s.noteStop k.tile.toNat e [(r, info), (r2, i2)] = s := by simp [State.noteStop, h2, h3]
  rw [hn]
  have hb : ¬ r2 < r := by omega
  simp only [State.haltMany, List.foldl_cons, List.foldl_nil, hb, if_false]
  rw [halt_running _ _ _ _ (canIssue_running hi) h1]
  simp [State.modTile]

/-- The instruction word at an engine's PC does not depend on the takes. -/
@[simp] theorem imWord_taken (s : State) (k : Issue) (e : Engine) : (s.setTile k.tile.toNat (s.taken k)).imWord k.tile.toNat e =
    memNat s.tileMem (tmAddr k.tile.toNat (4 + engCode e) (s.pcOf e k * 8)) 4 := by
  simp [State.imWord, State.tmNat, State.pcOf]; rfl

end Sys2Proof.Machine
end

