-- ==== Sys2Proof/Laws/KeepsBase.lean ====
section
/-!
SUPPORT. What every command leaves as it was, the queue, and what it keeps, the canonical form of the memories: the relation, and the ways it is passed on.
-/

namespace Sys2Proof.Machine

open Sys2Proof

/-- u came of s by work that left the queue alone and kept the memories' canonical form. -/
def Keeps (s u : State) : Prop := u.pending = s.pending ∧ (s.MemOk → u.MemOk)

theorem Keeps.rfl' (s : State) : Keeps s s := ⟨rfl, id⟩

/-- A state whose queue and memories are those of v. -/
theorem Keeps.upd {s v u : State} (hp : u.pending = v.pending) (ht : u.tileMem = v.tileMem) (hd : u.devMem = v.devMem)
    (hh : u.hostMem = v.hostMem) (h : Keeps s v) : Keeps s u := by
  refine ⟨hp.trans h.1, fun m => ?_⟩
  have := h.2 m
  unfold State.MemOk at *
  rw [ht, hd, hh]; exact this

/-- A record update that leaves the queue and the memories. -/
theorem Keeps.mk {s v : State} (h : Keeps s v) (x_variant : Variant) (x_beat : Beat) (x_lagging : List Nat) (x_freeCtr : Nat) (x_regs : SMap
    Word) (x_wordErr : SMap Bool) (x_cwErr : SMap CwErr) (x_tiles : SMap TileState) (x_routers : SMap RouterState) (x_clusters : SMap
    ClusterState) (x_segs : List Segment) (x_replays : List ReplayRun) (x_ports : SMap PortOwn) (x_intakeQ : SMap (List Packet)) (x_termPart
    : SMap Packet) (x_fenceMap : List Nat) (x_power : PowerState) (x_points : SMap Nat) (x_unlocked : List Nat) (x_vaults : SMap VaultState)
    (x_skillets : SMap SkilletState) (x_lp : SMap LpChan) (x_ladles : SMap LadleState) (x_lpWrites : List (Nat × Nat × Nat × Nat)) (x_lpReqs
    : List (Nat × Nat)) (x_bfPulses : List Nat) (x_events : List Event) (x_evLost : Bool) (x_alarmMap : List Nat) (x_hltWarned : List Nat)
    (x_hltAlerted : List Nat) (x_host : HostState) (x_tm : TimeState) (x_regions : SMap Region) (x_nports : SMap NPort) (x_fleet :
    FleetState) (x_srv : ServeState) (x_wgt : WeightState) (x_boot : BootState) (x_flash : Flash) (x_module : Module) (x_acc : AccessState)
    (x_evForward : List (Nat × Event)) (x_outbox : List Out) :
    Keeps s (State.mk x_variant v.pending x_beat x_lagging x_freeCtr x_regs v.tileMem v.devMem v.hostMem x_wordErr x_cwErr x_tiles x_routers
    x_clusters x_segs x_replays x_ports x_intakeQ x_termPart x_fenceMap x_power x_points x_unlocked x_vaults x_skillets x_lp x_ladles
    x_lpWrites x_lpReqs x_bfPulses x_events x_evLost x_alarmMap x_hltWarned x_hltAlerted x_host x_tm x_regions x_nports x_fleet x_srv x_wgt
    x_boot x_flash x_module x_acc x_evForward x_outbox) := h

/-- The same, where bytes of tile memory are read as 0 again. -/
theorem Keeps.clear {s v : State} (h : Keeps s v) (x_variant : Variant) (x_beat : Beat) (x_lagging : List Nat) (x_freeCtr : Nat) (x_regs :
    SMap Word) (x_wordErr : SMap Bool) (x_cwErr : SMap CwErr) (x_tiles : SMap TileState) (x_routers : SMap RouterState) (x_clusters : SMap
    ClusterState) (x_segs : List Segment) (x_replays : List ReplayRun) (x_ports : SMap PortOwn) (x_intakeQ : SMap (List Packet)) (x_termPart
    : SMap Packet) (x_fenceMap : List Nat) (x_power : PowerState) (x_points : SMap Nat) (x_unlocked : List Nat) (x_vaults : SMap VaultState)
    (x_skillets : SMap SkilletState) (x_lp : SMap LpChan) (x_ladles : SMap LadleState) (x_lpWrites : List (Nat × Nat × Nat × Nat)) (x_lpReqs
    : List (Nat × Nat)) (x_bfPulses : List Nat) (x_events : List Event) (x_evLost : Bool) (x_alarmMap : List Nat) (x_hltWarned : List Nat)
    (x_hltAlerted : List Nat) (x_host : HostState) (x_tm : TimeState) (x_regions : SMap Region) (x_nports : SMap NPort) (x_fleet :
    FleetState) (x_srv : ServeState) (x_wgt : WeightState) (x_boot : BootState) (x_flash : Flash) (x_module : Module) (x_acc : AccessState)
    (x_evForward : List (Nat × Event)) (x_outbox : List Out) (lo hi : Nat) :
    Keeps s (State.mk x_variant v.pending x_beat x_lagging x_freeCtr x_regs (memClear v.tileMem lo hi) v.devMem v.hostMem x_wordErr x_cwErr
    x_tiles x_routers x_clusters x_segs x_replays x_ports x_intakeQ x_termPart x_fenceMap x_power x_points x_unlocked x_vaults x_skillets
    x_lp x_ladles x_lpWrites x_lpReqs x_bfPulses x_events x_evLost x_alarmMap x_hltWarned x_hltAlerted x_host x_tm x_regions x_nports
    x_fleet x_srv x_wgt x_boot x_flash x_module x_acc x_evForward x_outbox) :=
  ⟨h.1, fun m => ⟨memWf_memClear _ _ (h.2 m).1, (h.2 m).2⟩⟩

theorem Keeps.foldl {α : Type} {s u : State} {f : State → α → State} {l : List α} (hf : ∀ q x, Keeps s q → Keeps s (f q x))
    (h : Keeps s u) : Keeps s (l.foldl f u) := by
  induction l generalizing u with
  | nil => exact h
  | cons x l ih => exact ih (hf u x h)

theorem Keeps.foldl1 {α β : Type} {s : State} {a : State × β} {f : State × β → α → State × β} {l : List α}
    (hf : ∀ q x, Keeps s q.1 → Keeps s (f q x).1) (h : Keeps s a.1) : Keeps s (l.foldl f a).1 := by
  induction l generalizing a with
  | nil => exact h
  | cons x l ih => exact ih (hf a x h)

theorem Keeps.ite {s u v : State} {c : Prop} [Decidable c] (hu : Keeps s u) (hv : Keeps s v) : Keeps s (if c then u else v) := by
  split
  · exact hu
  · exact hv

/-- The same of the first of a pair. -/
def Keeps1 {α : Type} (s : State) (p : State × α) : Prop := Keeps s p.1

theorem Keeps1.mk {α : Type} {s u : State} (h : Keeps s u) (a : α) : Keeps1 s (u, a) := h

theorem Keeps1.ite {α : Type} {s : State} {c : Prop} [Decidable c] {p q : State × α} (hp : Keeps1 s p) (hq : Keeps1 s q) :
    Keeps1 s (if c then p else q) := by
  split
  · exact hp
  · exact hq

/-- The command answers a next state that keeps the queue and the memories' form. -/
def Answers (s : State) (r : Res) : Prop := ∃ u, r = .next u ∧ Keeps s u

theorem Answers.next {s u : State} (h : Keeps s u) : Answers s (.next u) := ⟨u, rfl, h⟩

/-- What an instruction's own work leaves, where it issues. -/
def RunKeeps (s : State) : Run → Prop
  | .done q _ _ _ => Keeps s q
  | .fail q _ _ => Keeps s q
  | .stop _ => True
  | .clash _ => True
  | .moves q _ _ => Keeps s q
  | .store q _ _ _ _ _ => Keeps s q
  | .halted q => Keeps s q

theorem RunKeeps.done {s q : State} (h : Keeps s q) (w : List (Nat × Nat)) (hv : Bool) (pc : Option Nat) : RunKeeps s (.done q w hv pc) := h
theorem RunKeeps.fail {s q : State} (h : Keeps s q) (r i : Nat) : RunKeeps s (.fail q r i) := h

theorem RunKeeps.store {s q : State} (h : Keeps s q) (m o : Nat) (b : List Byte) (w : List (Nat × Nat)) (hv : Bool) :
    RunKeeps s (.store q m o b w hv) := h
theorem RunKeeps.halted {s q : State} (h : Keeps s q) : RunKeeps s (.halted q) := h
theorem RunKeeps.stop (s : State) (c : List (Nat × Nat)) : RunKeeps s (.stop c) := trivial
theorem RunKeeps.clash (s : State) (cs : List (Nat × Nat × Engine)) : RunKeeps s (.clash cs) := trivial
theorem RunKeeps.moves {s q : State} (h : Keeps s q) (w : List (Nat × Nat)) (d : Nat × Nat × Nat) : RunKeeps s (.moves q w d) := h

/-- A state that an operation may answer. -/
def OptKeeps (s : State) : Option State → Prop
  | none => True
  | some u => Keeps s u

def OptKeeps2 {α : Type} (s : State) : Option (α × State) → Prop
  | none => True
  | some u => Keeps s u.2

theorem OptKeeps.none (s : State) : OptKeeps s .none := trivial
theorem OptKeeps.some {s u : State} (h : Keeps s u) : OptKeeps s (.some u) := h
theorem OptKeeps2.none {α : Type} (s : State) : OptKeeps2 (α := α) s .none := trivial
theorem OptKeeps2.some {α : Type} {s u : State} (h : Keeps s u) (a : α) : OptKeeps2 s (.some (a, u)) := h
theorem OptKeeps.of {s u : State} {o : Option State} (h : OptKeeps s o) (e : o = .some u) : Keeps s u := by rw [e] at h; exact h
theorem OptKeeps.getD {s u : State} {o : Option State} (h : OptKeeps s o) (hu : Keeps s u) : Keeps s (o.getD u) := by
  cases o with
  | none => exact hu
  | some _ => exact h
theorem OptKeeps2.of {α : Type} {s u : State} {a : α} {o : Option (α × State)} (h : OptKeeps2 s o) (e : o = .some (a, u)) : Keeps s u := by
  rw [e] at h; exact h
theorem Keeps.pair {α : Type} {s u : State} {a : α} {o : State × α} (h : Keeps s o.1) (e : o = (u, a)) : Keeps s u := by rw [e] at h; exact h
theorem Keeps.fst {α : Type} {s u : State} (h : Keeps s u) (a : α) : Keeps s (u, a).1 := h

end Sys2Proof.Machine
end

