-- ==== Sys2Proof/Laws/KeepsOps.lean ====
section
/-!
SUPPORT. Each operation and command of the named operations leaves the queue and keeps the memories' canonical form.
-/

set_option linter.all false
set_option Elab.async false

namespace Sys2Proof.Machine

open Sys2Proof

variable (s0 : State)

theorem State.setReg_keeps (s : State) (a : Nat) (w : Word) (h_s : Keeps s0 s) :
    Keeps s0 (State.setReg s a w) := by
  unfold State.setReg
  repeat' first
      | (with_reducible first | assumption | (fail_if_no_progress apply Keeps.mk))
      | split | (intro _) | dsimp only

theorem State.setFld_keeps (s : State) (a : Nat) (lo : Nat) (w : Nat) (v : Nat) (h_s : Keeps s0 s) :
    Keeps s0 (State.setFld s a lo w v) := by
  unfold State.setFld
  repeat' first
      | (with_reducible first | assumption | apply State.setReg_keeps)
      | split | (intro _) | dsimp only

theorem State.bumpF_keeps (s : State) (a : Nat) (lo : Nat) (w : Nat) (n : Nat) (h_s : Keeps s0 s) :
    Keeps s0 (State.bumpF s a lo w n) := by
  unfold State.bumpF
  repeat' first
      | (with_reducible first | assumption | apply State.setFld_keeps)
      | split | (intro _) | dsimp only

theorem State.bump_keeps (s : State) (a : Nat) (n : Nat) (h_s : Keeps s0 s) :
    Keeps s0 (State.bump s a n) := by
  unfold State.bump
  repeat' first
      | (with_reducible first | assumption | apply State.bumpF_keeps)
      | split | (intro _) | dsimp only

theorem State.setBit_keeps (s : State) (a : Nat) (i : Nat) (h_s : Keeps s0 s) :
    Keeps s0 (State.setBit s a i) := by
  unfold State.setBit
  repeat' first
      | (with_reducible first | assumption | apply State.setFld_keeps)
      | split | (intro _) | dsimp only

theorem State.rise_keeps (s : State) (a : Nat) (i : Nat) (h_s : Keeps s0 s) :
    Keeps s0 (State.rise s a i) := by
  unfold State.rise
  repeat' first
      | (with_reducible first | assumption | apply State.setBit_keeps | (fail_if_no_progress apply Keeps.mk))
      | split | (intro _) | dsimp only

theorem State.setTile_keeps (s : State) (t : Nat) (x : TileState) (h_s : Keeps s0 s) :
    Keeps s0 (State.setTile s t x) := by
  unfold State.setTile
  repeat' first
      | (with_reducible first | assumption | (fail_if_no_progress apply Keeps.mk))
      | split | (intro _) | dsimp only

theorem State.modTile_keeps (s : State) (t : Nat) (f : TileState → TileState) (h_s : Keeps s0 s) :
    Keeps s0 (State.modTile s t f) := by
  unfold State.modTile
  repeat' first
      | (with_reducible first | assumption | apply State.setTile_keeps)
      | split | (intro _) | dsimp only

theorem State.setRouter_keeps (s : State) (t : Nat) (x : RouterState) (h_s : Keeps s0 s) :
    Keeps s0 (State.setRouter s t x) := by
  unfold State.setRouter
  repeat' first
      | (with_reducible first | assumption | (fail_if_no_progress apply Keeps.mk))
      | split | (intro _) | dsimp only

theorem State.modRouter_keeps (s : State) (t : Nat) (f : RouterState → RouterState) (h_s : Keeps s0 s) :
    Keeps s0 (State.modRouter s t f) := by
  unfold State.modRouter
  repeat' first
      | (with_reducible first | assumption | apply State.setRouter_keeps)
      | split | (intro _) | dsimp only

theorem State.setCluster_keeps (s : State) (c : Nat) (x : ClusterState) (h_s : Keeps s0 s) :
    Keeps s0 (State.setCluster s c x) := by
  unfold State.setCluster
  repeat' first
      | (with_reducible first | assumption | (fail_if_no_progress apply Keeps.mk))
      | split | (intro _) | dsimp only

theorem State.modCluster_keeps (s : State) (c : Nat) (f : ClusterState → ClusterState) (h_s : Keeps s0 s) :
    Keeps s0 (State.modCluster s c f) := by
  unfold State.modCluster
  repeat' first
      | (with_reducible first | assumption | apply State.setCluster_keeps)
      | split | (intro _) | dsimp only

theorem State.setVault_keeps (s : State) (v : Nat) (x : VaultState) (h_s : Keeps s0 s) :
    Keeps s0 (State.setVault s v x) := by
  unfold State.setVault
  repeat' first
      | (with_reducible first | assumption | (fail_if_no_progress apply Keeps.mk))
      | split | (intro _) | dsimp only

theorem State.modVault_keeps (s : State) (v : Nat) (f : VaultState → VaultState) (h_s : Keeps s0 s) :
    Keeps s0 (State.modVault s v f) := by
  unfold State.modVault
  repeat' first
      | (with_reducible first | assumption | apply State.setVault_keeps)
      | split | (intro _) | dsimp only

theorem State.setSkillet_keeps (s : State) (v : Nat) (x : SkilletState) (h_s : Keeps s0 s) :
    Keeps s0 (State.setSkillet s v x) := by
  unfold State.setSkillet
  repeat' first
      | (with_reducible first | assumption | (fail_if_no_progress apply Keeps.mk))
      | split | (intro _) | dsimp only

theorem State.setLpch_keeps (s : State) (c : Nat) (x : LpChan) (h_s : Keeps s0 s) :
    Keeps s0 (State.setLpch s c x) := by
  unfold State.setLpch
  repeat' first
      | (with_reducible first | assumption | (fail_if_no_progress apply Keeps.mk))
      | split | (intro _) | dsimp only

theorem State.setLadle_keeps (s : State) (l : Nat) (x : LadleState) (h_s : Keeps s0 s) :
    Keeps s0 (State.setLadle s l x) := by
  unfold State.setLadle
  repeat' first
      | (with_reducible first | assumption | (fail_if_no_progress apply Keeps.mk))
      | split | (intro _) | dsimp only

theorem State.setLchan_keeps (s : State) (l : Nat) (k : Nat) (x : LChan) (h_s : Keeps s0 s) :
    Keeps s0 (State.setLchan s l k x) := by
  unfold State.setLchan
  repeat' first
      | (with_reducible first | assumption | apply State.setLadle_keeps)
      | split | (intro _) | dsimp only

theorem State.setPort_keeps (s : State) (p : OwnPort) (x : PortOwn) (h_s : Keeps s0 s) :
    Keeps s0 (State.setPort s p x) := by
  unfold State.setPort
  repeat' first
      | (with_reducible first | assumption | (fail_if_no_progress apply Keeps.mk))
      | split | (intro _) | dsimp only

theorem State.tmWrite_keeps (s : State) (a : Nat) (bs : List Byte) (h_s : Keeps s0 s) : Keeps s0 (State.tmWrite s a bs) := by
  exact ⟨h_s.1, fun m => ⟨memWf_memWrite _ _ (h_s.2 m).1, (h_s.2 m).2⟩⟩

theorem State.dvWrite_keeps (s : State) (a : Nat) (bs : List Byte) (h_s : Keeps s0 s) : Keeps s0 (State.dvWrite s a bs) := by
  exact ⟨h_s.1, fun m => ⟨(h_s.2 m).1, memWf_memWrite _ _ (h_s.2 m).2.1, (h_s.2 m).2.2⟩⟩

theorem State.hostWrite_keeps (s : State) (a : Nat) (bs : List Byte) (h_s : Keeps s0 s) : Keeps s0 (State.hostWrite s a bs) := by
  exact ⟨h_s.1, fun m => ⟨(h_s.2 m).1, (h_s.2 m).2.1, memWf_memWrite _ _ (h_s.2 m).2.2⟩⟩

theorem State.queueEvent_keeps (s : State) (e : Event) (h_s : Keeps s0 s) :
    Keeps s0 (State.queueEvent s e) := by
  unfold State.queueEvent
  repeat' first
      | (with_reducible first | assumption | apply State.bump_keeps | (fail_if_no_progress apply Keeps.mk))
      | split | (intro _) | dsimp only

theorem State.raiseAt_keeps (s : State) (beat : Nat) (type : Nat) (detail : Nat) (h_s : Keeps s0 s) :
    Keeps s0 (State.raiseAt s beat type detail) := by
  unfold State.raiseAt
  repeat' first
      | (with_reducible first | assumption | apply State.queueEvent_keeps | (fail_if_no_progress apply Keeps.mk))
      | split | (intro _) | dsimp only

theorem State.raise_keeps (s : State) (type : Nat) (detail : Nat) (h_s : Keeps s0 s) :
    Keeps s0 (State.raise s type detail) := by
  unfold State.raise
  repeat' first
      | (with_reducible first | assumption | apply State.raiseAt_keeps)
      | split | (intro _) | dsimp only

theorem State.setScore_keeps (s : State) (k : Nat) (v : Nat) (h_s : Keeps s0 s) :
    Keeps s0 (State.setScore s k v) := by
  unfold State.setScore
  repeat' first
      | (with_reducible first | assumption | apply State.setFld_keeps | apply State.raise_keeps | (fail_if_no_progress apply Keeps.mk))
      | split | (intro _) | dsimp only

theorem State.health_keeps (s : State) (k : Nat) (cls : Nat) (h_s : Keeps s0 s) :
    Keeps s0 (State.health s k cls) := by
  unfold State.health
  repeat' first
      | (with_reducible first | assumption | apply State.setScore_keeps)
      | split | (intro _) | dsimp only

theorem State.refStall_keeps (s : State) (v : Nat) (h_s : Keeps s0 s) :
    Keeps s0 (State.refStall s v) := by
  unfold State.refStall
  repeat' first
      | (with_reducible first | assumption | apply State.bump_keeps)
      | split | (intro _) | dsimp only

theorem State.awaitBanks_keeps (s : State) (a : Nat) (n : Nat) (h_s : Keeps s0 s) :
    Keeps s0 (State.awaitBanks s a n) := by
  unfold State.awaitBanks
  repeat' first
      | (with_reducible first | assumption | apply State.modVault_keeps | apply State.refStall_keeps)
      | split | (intro _) | dsimp only

theorem State.clearCw_keeps (s : State) (cw : Nat) (h_s : Keeps s0 s) :
    Keeps s0 (State.clearCw s cw) := by
  unfold State.clearCw
  repeat' first
      | (with_reducible first | assumption | (fail_if_no_progress apply Keeps.mk))
      | split | (intro _) | dsimp only

theorem State.markCw_keeps (s : State) (cw : Nat) (h_s : Keeps s0 s) :
    Keeps s0 (State.markCw s cw) := by
  unfold State.markCw
  repeat' first
      | (with_reducible first | assumption | (fail_if_no_progress apply Keeps.mk))
      | split | (intro _) | dsimp only

theorem State.vaultCwRead_keeps (s : State) (v : Nat) (cw : Nat) (e : CwErr) (scrub : Bool) (h_s : Keeps s0 s) :
    Keeps s0 (State.vaultCwRead s v cw e scrub).1 := by
  unfold State.vaultCwRead
  repeat' first
      | (with_reducible first | assumption | apply State.health_keeps | apply State.setReg_keeps | apply State.bump_keeps
                               | apply State.clearCw_keeps | apply State.setBit_keeps | apply State.raise_keeps)
      | split | (intro _) | dsimp only

theorem State.lpCwRead_keeps (s : State) (cw : Nat) (e : CwErr) (scrub : Bool) (h_s : Keeps s0 s) :
    Keeps s0 (State.lpCwRead s cw e scrub).1 := by
  unfold State.lpCwRead
  repeat' first
      | (with_reducible first | assumption | apply State.setReg_keeps | apply State.health_keeps | apply State.bump_keeps
                               | apply State.clearCw_keeps | apply State.setBit_keeps | apply State.raise_keeps)
      | split | (intro _) | dsimp only

theorem State.cwRead_keeps (s : State) (cw : Nat) (scrub : Bool) (h_s : Keeps s0 s) :
    Keeps s0 (State.cwRead s cw scrub).1 := by
  unfold State.cwRead
  repeat' first
      | (with_reducible first | assumption | apply State.vaultCwRead_keeps | apply State.lpCwRead_keeps)
      | (refine Keeps.pair (o := _) ?_ (by assumption); with_reducible apply State.vaultCwRead_keeps)
      | (refine Keeps.pair (o := _) ?_ (by assumption); with_reducible apply State.lpCwRead_keeps)
      | split | (intro _) | dsimp only

theorem State.countGran_keeps (s : State) (reg : Nat) (a : Nat) (n : Nat) (h_s : Keeps s0 s) :
    Keeps s0 (State.countGran s reg a n) := by
  unfold State.countGran
  repeat' first
      | (with_reducible first | assumption | apply State.bump_keeps)
      | split | (intro _) | dsimp only

theorem State.devCheck_keeps (s : State) (a : Nat) (n : Nat) (scrub : Bool) (h_s : Keeps s0 s) :
    Keeps s0 (State.devCheck s a n scrub).1 := by
  unfold State.devCheck
  repeat' first
      | (with_reducible first | assumption | apply State.cwRead_keeps | apply State.countGran_keeps | apply Keeps.foldl
                               | apply Keeps.foldl1)
      | (refine Keeps.pair (o := _) ?_ (by assumption); with_reducible apply State.cwRead_keeps)
      | split | (intro _) | dsimp only

theorem State.devStore_keeps (s : State) (a : Nat) (bs : List Byte) (h_s : Keeps s0 s) :
    Keeps s0 (State.devStore s a bs) := by
  unfold State.devStore
  repeat' first
      | (with_reducible first | assumption | apply State.cwRead_keeps | apply State.countGran_keeps | apply State.dvWrite_keeps
                               | apply Keeps.foldl | apply Keeps.foldl1)
      | (refine Keeps.pair (o := _) ?_ (by assumption); with_reducible apply State.cwRead_keeps)
      | split | (intro _) | dsimp only

theorem State.devStoreUnit_keeps (s : State) (a : Nat) (bs : List Byte) (poison : Bool) (h_s : Keeps s0 s) :
    Keeps s0 (State.devStoreUnit s a bs poison) := by
  unfold State.devStoreUnit
  repeat' first
      | (with_reducible first | assumption | apply State.devStore_keeps | apply State.markCw_keeps)
      | split | (intro _) | dsimp only

theorem State.devFree_keeps (s : State) (a : Nat) (n : Nat) (h_s : Keeps s0 s) :
    Keeps s0 (State.devFree s a n) := by
  unfold State.devFree
  repeat' first
      | (with_reducible first | assumption | apply State.devStore_keeps | (fail_if_no_progress apply Keeps.mk))
      | split | (intro _) | dsimp only

theorem State.hostFree_keeps (s : State) (a : Nat) (n : Nat) (h_s : Keeps s0 s) :
    Keeps s0 (State.hostFree s a n) := by
  unfold State.hostFree
  repeat' first
      | (with_reducible first | assumption | apply State.hostWrite_keeps | (fail_if_no_progress apply Keeps.mk))
      | split | (intro _) | dsimp only

theorem State.out_keeps (s : State) (o : Out) (h_s : Keeps s0 s) :
    Keeps s0 (State.out s o) := by
  unfold State.out
  repeat' first
      | (with_reducible first | assumption | (fail_if_no_progress apply Keeps.mk))
      | split | (intro _) | dsimp only

theorem State.mctpOut_keeps (s : State) (o : Out) (h_s : Keeps s0 s) :
    Keeps s0 (State.mctpOut s o) := by
  unfold State.mctpOut
  repeat' first
      | (with_reducible first | assumption | apply State.out_keeps)
      | split | (intro _) | dsimp only

theorem State.mirrorFault_keeps (s : State) (seq : Nat) (h_s : Keeps s0 s) :
    Keeps s0 (State.mirrorFault s seq) := by
  unfold State.mirrorFault
  repeat' first
      | (with_reducible first | assumption | apply State.raise_keeps | apply State.setBit_keeps)
      | split | (intro _) | dsimp only

theorem State.journalWrite_keeps (s : State) (seq : Nat) (off : Nat) (bs : List Byte) (h_s : Keeps s0 s) :
    Keeps s0 (State.journalWrite s seq off bs) := by
  unfold State.journalWrite
  repeat' first
      | (with_reducible first | assumption | apply State.devStore_keeps | apply State.awaitBanks_keeps | apply State.mirrorFault_keeps
                               | apply State.devCheck_keeps | apply State.hostWrite_keeps | apply State.hostFree_keeps
                               | (fail_if_no_progress apply Keeps.mk))
      | (refine Keeps.pair (o := _) ?_ (by assumption); with_reducible apply State.devCheck_keeps)
      | split | (intro _) | dsimp only

theorem State.complete_keeps (s : State) (seq : Nat) (status : Nat) (result : Nat) (h_s : Keeps s0 s) :
    Keeps s0 (State.complete s seq status result) := by
  unfold State.complete
  repeat' first
      | (with_reducible first | assumption | apply State.journalWrite_keeps | apply State.mctpOut_keeps
                               | (fail_if_no_progress apply Keeps.mk))
      | split | (intro _) | dsimp only

theorem State.started_keeps (s : State) (seq : Nat) (left : Nat) (h_s : Keeps s0 s) :
    Keeps s0 (State.started s seq left) := by
  unfold State.started
  repeat' first
      | (with_reducible first | assumption | (fail_if_no_progress apply Keeps.mk))
      | split | (intro _) | dsimp only

theorem State.halt_keeps (s : State) (t : Nat) (engine : Nat) (reason : Nat) (pc : Nat) (info : Nat) (h_s : Keeps s0 s) :
    Keeps s0 (State.halt s t engine reason pc info) := by
  unfold State.halt
  repeat' first
      | (with_reducible first | assumption | apply State.setTile_keeps | apply State.health_keeps)
      | split | (intro _) | dsimp only

theorem State.haltMany_keeps (s : State) (t : Nat) (engine : Nat) (pc : Nat) (conds : List (Nat × Nat)) (h_s : Keeps s0 s) :
    Keeps s0 (State.haltMany s t engine pc conds) := by
  unfold State.haltMany
  repeat' first
      | (with_reducible first | assumption | apply State.halt_keeps | apply State.modTile_keeps | apply Keeps.foldl | apply Keeps.foldl1)
      | split | (intro _) | dsimp only

theorem State.haltAll_keeps (s : State) (t : Nat) (conds : List (Nat × Nat × Nat × Nat)) (h_s : Keeps s0 s) :
    Keeps s0 (State.haltAll s t conds) := by
  unfold State.haltAll
  repeat' first
      | (with_reducible first | assumption | apply State.halt_keeps | apply Keeps.foldl | apply Keeps.foldl1)
      | split | (intro _) | dsimp only

theorem State.noteSlots_keeps (s : State) (l : Nat) (k : Nat) (before : Nat) (after : Nat) (h_s : Keeps s0 s) :
    Keeps s0 (State.noteSlots s l k before after) := by
  unfold State.noteSlots
  repeat' first
      | (with_reducible first | assumption | (fail_if_no_progress apply Keeps.mk))
      | split | (intro _) | dsimp only

theorem State.addTally_keeps (s : State) (t : Nat) (i : BitVec 5) (inc : Nat) (by_ : Nat) (h_s : Keeps s0 s) :
    Keeps s0 (State.addTally s t i inc by_) := by
  unfold State.addTally
  repeat' first
      | (with_reducible first | assumption | apply State.setTile_keeps | apply State.halt_keeps)
      | split | (intro _) | dsimp only

theorem State.gooseMax_keeps (s : State) (a : Nat) (late : Nat) (seg : Nat) (gate : Nat) (loc : Nat) (beat : Nat) (h_s : Keeps s0 s) :
    Keeps s0 (State.gooseMax s a late seg gate loc beat) := by
  unfold State.gooseMax
  repeat' first
      | (with_reducible first | assumption | apply State.setReg_keeps | apply State.setFld_keeps)
      | split | (intro _) | dsimp only

theorem State.setStarted_keeps (s : State) (c : Nat) (r : Started) (h_s : Keeps s0 s) :
    Keeps s0 (State.setStarted s c r) := by
  unfold State.setStarted
  repeat' first
      | (with_reducible first | assumption | apply State.modCluster_keeps)
      | split | (intro _) | dsimp only

theorem State.setMark_keeps (s : State) (c : Nat) (r : GooseMark) (h_s : Keeps s0 s) :
    Keeps s0 (State.setMark s c r) := by
  unfold State.setMark
  repeat' first
      | (with_reducible first | assumption | apply State.modCluster_keeps)
      | split | (intro _) | dsimp only

theorem State.setRun_keeps (s : State) (q : ReplayRun) (h_s : Keeps s0 s) :
    Keeps s0 (State.setRun s q) := by
  unfold State.setRun
  repeat' first
      | (with_reducible first | assumption | (fail_if_no_progress apply Keeps.mk))
      | split | (intro _) | dsimp only

theorem State.modLive_keeps (s : State) (seg : BitVec 16) (count : BitVec 64) (f : LiveReplay → LiveReplay) (h_s : Keeps s0 s) :
    Keeps s0 (State.modLive s seg count f) := by
  unfold State.modLive
  repeat' first
      | (with_reducible first | assumption | apply State.setRun_keeps)
      | split | (intro _) | dsimp only

theorem State.noteReplayLate_keeps (s : State) (seg : BitVec 16) (count : BitVec 64) (late : Nat) (h_s : Keeps s0 s) :
    Keeps s0 (State.noteReplayLate s seg count late) := by
  unfold State.noteReplayLate
  repeat' first
      | (with_reducible first | assumption | apply State.modLive_keeps)
      | split | (intro _) | dsimp only

theorem State.settleReplay_keeps (s : State) (seg : BitVec 16) (count : BitVec 64) (h_s : Keeps s0 s) :
    Keeps s0 (State.settleReplay s seg count) := by
  unfold State.settleReplay
  repeat' first
      | (with_reducible first | assumption | apply State.setFld_keeps | apply State.setRun_keeps | (fail_if_no_progress apply Keeps.mk))
      | split | (intro _) | dsimp only

theorem State.gooseCluster_keeps (s : State) (c : Nat) (tile : Nat) (port : Nat) (seg : BitVec 16) (count : BitVec 64) (gate : Nat) (late
    : Nat) (cond : Nat) (beat : Nat) (h_s : Keeps s0 s) :
    Keeps s0 (State.gooseCluster s c tile port seg count gate late cond beat) := by
  unfold State.gooseCluster
  repeat' first
      | (with_reducible first | assumption | apply State.gooseMax_keeps | apply State.setMark_keeps | apply State.setBit_keeps
                               | apply State.bump_keeps | apply State.raiseAt_keeps | (fail_if_no_progress apply Keeps.mk))
      | split | (intro _) | dsimp only

theorem State.gooseChip_keeps (s : State) (p : OwnPort) (num : Nat) (seg : BitVec 16) (count : BitVec 64) (gate : Nat) (late : Nat) (cond
    : Nat) (h_s : Keeps s0 s) :
    Keeps s0 (State.gooseChip s p num seg count gate late cond) := by
  unfold State.gooseChip
  repeat' first
      | (with_reducible first | assumption | apply State.noteReplayLate_keeps | apply State.gooseMax_keeps | apply State.setPort_keeps
                               | apply State.bump_keeps | apply State.setBit_keeps | apply State.raise_keeps)
      | split | (intro _) | dsimp only

theorem State.setDomain_keeps (s : State) (kind : Nat) (index : Nat) (x : DomSt) (h_s : Keeps s0 s) :
    Keeps s0 (State.setDomain s kind index x) := by
  unfold State.setDomain
  repeat' first
      | (with_reducible first | assumption | (fail_if_no_progress apply Keeps.mk))
      | split | (intro _) | dsimp only

theorem State.setServing_keeps (s : State) (m : Nat) (x : Serving) (h_s : Keeps s0 s) :
    Keeps s0 (State.setServing s m x) := by
  unfold State.setServing
  repeat' first
      | (with_reducible first | assumption | (fail_if_no_progress apply Keeps.mk))
      | split | (intro _) | dsimp only

theorem State.stepFailed_keeps (s : State) (m : Nat) (h_s : Keeps s0 s) :
    Keeps s0 (State.stepFailed s m) := by
  unfold State.stepFailed
  repeat' first
      | (with_reducible first | assumption | apply State.raise_keeps | apply State.setServing_keeps | (fail_if_no_progress apply Keeps.mk))
      | split | (intro _) | dsimp only

theorem State.serveHalted_keeps (s : State) (t : Nat) (h_s : Keeps s0 s) :
    Keeps s0 (State.serveHalted s t) := by
  unfold State.serveHalted
  repeat' first
      | (with_reducible first | assumption | apply State.stepFailed_keeps | apply Keeps.foldl | apply Keeps.foldl1)
      | split | (intro _) | dsimp only

theorem State.rebalance_keeps (s : State) (h_s : Keeps s0 s) :
    Keeps s0 (State.rebalance s) := by
  unfold State.rebalance
  repeat' first
      | (with_reducible first | assumption | (fail_if_no_progress apply Keeps.mk))
      | split | (intro _) | dsimp only

theorem State.startUnit_keeps (s : State) (u : Nat) (h_s : Keeps s0 s) :
    Keeps s0 (State.startUnit s u) := by
  unfold State.startUnit
  repeat' first
      | (with_reducible first | assumption | apply State.rebalance_keeps | (fail_if_no_progress apply Keeps.mk))
      | split | (intro _) | dsimp only

theorem State.holdUnit_keeps (s : State) (u : Nat) (h_s : Keeps s0 s) :
    Keeps s0 (State.holdUnit s u) := by
  unfold State.holdUnit
  repeat' first
      | (with_reducible first | assumption | apply State.bump_keeps | (fail_if_no_progress apply Keeps.mk))
      | split | (intro _) | dsimp only

theorem State.stopUnit_keeps (s : State) (u : Nat) (h_s : Keeps s0 s) :
    Keeps s0 (State.stopUnit s u) := by
  unfold State.stopUnit
  repeat' first
      | (with_reducible first | assumption | apply State.rebalance_keeps | (fail_if_no_progress apply Keeps.mk))
      | split | (intro _) | dsimp only

theorem State.noteBudget_keeps (s : State) (c : Nat) (kind : Nat) (gate : Nat) (tile : Nat) (h_s : Keeps s0 s) :
    Keeps s0 (State.noteBudget s c kind gate tile) := by
  unfold State.noteBudget
  repeat' first
      | (with_reducible first | assumption | apply State.bump_keeps | apply State.setReg_keeps)
      | split | (intro _) | dsimp only

theorem State.joinWindow_keeps (s : State) (t : Nat) (g : Nat) (h_s : Keeps s0 s) :
    Keeps s0 (State.joinWindow s t g) := by
  unfold State.joinWindow
  repeat' first
      | (with_reducible first | assumption | apply State.setStarted_keeps)
      | split | (intro _) | dsimp only

end Sys2Proof.Machine
end

