-- ==== Sys2Proof/Laws/KeepsTile.lean ====
section
/-!
SUPPORT. Each operation and command of the tiles and the mesh leaves the queue and keeps the memories' canonical form.
-/

set_option linter.all false
set_option Elab.async false

namespace Sys2Proof.Machine

open Sys2Proof

variable (s0 : State)

theorem State.corrected_keeps (s : State) (t : Nat) (mem : Nat) (off : Nat) (scrub : Bool) (h_s : Keeps s0 s) :
    Keeps s0 (State.corrected s t mem off scrub) := by
  unfold State.corrected
  repeat' first
      | (with_reducible first | assumption | apply State.bumpF_keeps | apply State.setReg_keeps | apply State.health_keeps
                               | apply State.modTile_keeps)
      | split | (intro _) | dsimp only

theorem State.eccRead_keeps (s : State) (t : Nat) (mem : Nat) (off : Nat) (n : Nat) (scrub : Bool) (h_s : Keeps s0 s) :
    Keeps s0 (State.eccRead s t mem off n scrub).1 := by
  unfold State.eccRead
  repeat' first
      | (with_reducible first | assumption | apply State.corrected_keeps | apply Keeps.foldl | apply Keeps.foldl1)
      | split | (intro _) | dsimp only

theorem State.tmStore_keeps (s : State) (t : Nat) (mem : Nat) (off : Nat) (bs : List Byte) (h_s : Keeps s0 s) :
    Keeps s0 (State.tmStore s t mem off bs) := by
  unfold State.tmStore
  repeat' first
      | (with_reducible first | assumption | apply State.tmWrite_keeps | apply State.modTile_keeps | (fail_if_no_progress apply Keeps.mk))
      | split | (intro _) | dsimp only

theorem State.tmPoison_keeps (s : State) (t : Nat) (mem : Nat) (off : Nat) (h_s : Keeps s0 s) :
    Keeps s0 (State.tmPoison s t mem off) := by
  unfold State.tmPoison
  repeat' first
      | (with_reducible first | assumption | (fail_if_no_progress apply Keeps.mk))
      | split | (intro _) | dsimp only

theorem State.tmFree_keeps (s : State) (t : Nat) (mem : Nat) (off : Nat) (n : Nat) (h_s : Keeps s0 s) :
    Keeps s0 (State.tmFree s t mem off n) := by
  unfold State.tmFree
  repeat' first
      | (with_reducible first | assumption | apply State.tmStore_keeps | (fail_if_no_progress apply Keeps.mk))
      | split | (intro _) | dsimp only

theorem State.vregFree_keeps (s : State) (t : Nat) (v : Nat) (h_s : Keeps s0 s) :
    Keeps s0 (State.vregFree s t v) := by
  unfold State.vregFree
  repeat' first
      | (with_reducible first | assumption | apply State.modTile_keeps | (fail_if_no_progress apply Keeps.mk))
      | split | (intro _) | dsimp only

theorem State.sentFree_keeps (s : State) (t : Nat) (after : Nat) (h_s : Keeps s0 s) :
    Keeps s0 (State.sentFree s t after) := by
  unfold State.sentFree
  repeat' first
      | (with_reducible first | assumption | apply State.setRouter_keeps | (fail_if_no_progress apply Keeps.mk))
      | split | (intro _) | dsimp only

theorem State.freeDest_keeps (s : State) (t : Nat) (dest : List (Nat × Nat × Nat)) (h_s : Keeps s0 s) :
    Keeps s0 (State.freeDest s t dest) := by
  unfold State.freeDest
  repeat' first
      | (with_reducible first | assumption | apply State.vregFree_keeps | apply State.sentFree_keeps | apply State.tmFree_keeps
                               | apply Keeps.foldl | apply Keeps.foldl1)
      | split | (intro _) | dsimp only

theorem State.engRead_keeps (s : State) (k : Issue) (e : Engine) (mem : Nat) (off : Nat) (n : Nat) (h_s : Keeps s0 s) :
    Keeps s0 (State.engRead s k e mem off n).1 := by
  unfold State.engRead
  repeat' first
      | (with_reducible first | assumption | apply State.eccRead_keeps | (fail_if_no_progress apply Keeps.mk))
      | (refine Keeps.pair (o := _) ?_ (by assumption); with_reducible apply State.eccRead_keeps)
      | split | (intro _) | dsimp only

theorem State.cutOff_keeps (s : State) (t : Nat) (e : Engine) (mem : Nat) (bank : Nat) (h_s : Keeps s0 s) :
    Keeps s0 (State.cutOff s t e mem bank).1 := by
  unfold State.cutOff
  repeat' first
      | (with_reducible first | assumption | apply State.modTile_keeps | apply State.stopUnit_keeps | apply State.freeDest_keeps)
      | split | (intro _) | dsimp only

theorem State.bankConflict_keeps (s : State) (t : Nat) (e : Engine) (pc : Nat) (cs : List (Nat × Nat × Engine)) (h_s : Keeps s0 s) :
    Keeps s0 (State.bankConflict s t e pc cs) := by
  unfold State.bankConflict
  repeat' first
      | (with_reducible first | assumption | apply State.cutOff_keeps | apply State.halt_keeps | apply State.modTile_keeps
                               | apply OptKeeps.getD | apply Keeps.foldl | apply Keeps.foldl1)
      | (refine Keeps.pair (o := _) ?_ (by assumption); with_reducible apply State.cutOff_keeps)
      | split | (intro _) | dsimp only

theorem State.pcCheck_keeps (s : State) (t : Nat) (e : Engine) (h_s : Keeps s0 s) :
    Keeps s0 (State.pcCheck s t e) := by
  unfold State.pcCheck
  repeat' first
      | (with_reducible first | assumption | apply State.halt_keeps)
      | split | (intro _) | dsimp only

theorem State.noteStop_keeps (s : State) (t : Nat) (e : Engine) (conds : List (Nat × Nat)) (h_s : Keeps s0 s) :
    Keeps s0 (State.noteStop s t e conds) := by
  unfold State.noteStop
  repeat' first
      | (with_reducible first | assumption | apply State.noteBudget_keeps)
      | split | (intro _) | dsimp only

theorem State.signalNow_keeps (s : State) (t : Nat) (e : Engine) (g : Option Signal) (h_s : Keeps s0 s) :
    Keeps s0 (State.signalNow s t e g) := by
  unfold State.signalNow
  repeat' first
      | (with_reducible first | assumption | apply State.pcCheck_keeps | apply State.addTally_keeps | apply State.modTile_keeps)
      | split | (intro _) | dsimp only

theorem State.finishIssue_keeps (s : State) (q : State) (e : Engine) (k : Issue) (alone : Bool) (wide : List (Nat × Nat)) (dest : List
    (Nat × Nat × Nat)) (heavy : Bool) (pc : Option Nat) (ws : List (Nat × Nat)) (cs : List (Nat × Nat)) (h_s : Keeps s0 s) (h_q : Keeps s0
    (q)) :
    Keeps s0 (State.finishIssue s q e k alone wide dest heavy pc ws cs) := by
  unfold State.finishIssue
  repeat' first
      | (with_reducible first | assumption | apply State.setTile_keeps | apply State.gooseCluster_keeps | apply State.signalNow_keeps
                               | apply OptKeeps.getD | apply Keeps.foldl | apply Keeps.foldl1)
      | split | (intro _) | dsimp only

theorem State.fire_keeps (s0 s : State) (e : Engine) (k : Issue) (credits : List CreditNeed) (hold : State → Option (Hold × State))
    (alone : Bool) (run : State → Run) (h_s : Keeps s0 s) (h_hold : ∀ q, Keeps s0 q → OptKeeps2 s0 (hold q))
    (h_run : ∀ q, Keeps s0 q → RunKeeps s0 (run q)) : Keeps s0 (s.fire e k credits hold alone run) := by
  have ht : ∀ x, Keeps s0 (s.setTile k.tile.toNat x) := fun x => State.setTile_keeps _ _ _ _ h_s
  unfold State.fire
  dsimp only
  repeat' first
   | with_reducible assumption
   | exact OptKeeps2.of (h_hold _ h_s) (by assumption)
   | with_reducible apply State.haltMany_keeps
   | with_reducible apply State.noteStop_keeps
   | with_reducible apply State.modTile_keeps
   | with_reducible apply State.bankConflict_keeps
   | with_reducible apply State.setTile_keeps
   | with_reducible apply State.finishIssue_keeps
   | (have hr := h_run _ (ht (takeAll (s.tile k.tile.toNat) (by assumption))); simp only [*] at hr; exact hr)
   | with_reducible apply State.halt_keeps
   | with_reducible apply State.tmStore_keeps
   | split

theorem State.issue_keeps (s0 s : State) (e : Engine) (k : Issue) (credits : List CreditNeed) (hold : State → Option (Hold × State))
    (alone : Bool) (run : State → Run) (h_s : Keeps s0 s) (h_hold : ∀ q, Keeps s0 q → OptKeeps2 s0 (hold q))
    (h_run : ∀ q, Keeps s0 q → RunKeeps s0 (run q)) : Keeps s0 (s.issue e k credits hold alone run) := by
  have hr := State.eccRead_keeps s0 s k.tile.toNat (4 + engCode e) (8 * ((s.tile k.tile.toNat).eng e).pc) 8 false h_s
  unfold State.issue
  dsimp only
  split
  · exact h_s
  · split
    · exact State.fire_keeps _ _ _ _ _ _ _ _ h_s h_hold h_run
    · split
      · exact State.halt_keeps _ _ _ _ _ _ _ hr
      · exact State.fire_keeps _ _ _ _ _ _ _ _ hr h_hold h_run

theorem State.issuePlain_keeps (s : State) (e : Engine) (k : Issue) (run : State → Run) (h_s : Keeps s0 s) (h_run : ∀ (y1 : State), Keeps
    s0 (y1) → RunKeeps s0 (run y1)) :
    Keeps s0 (State.issuePlain s e k run) := by
  unfold State.issuePlain
  repeat' first
      | (with_reducible first | assumption | apply h_run | apply State.issue_keeps | apply OptKeeps.none | apply OptKeeps.some
                               | apply OptKeeps2.none | apply OptKeeps2.some)
      | split | (intro _) | dsimp only

theorem Run.tile_keeps (s : State) (t : Nat) (f : TileState → TileState) (h_s : Keeps s0 s) :
    RunKeeps s0 (Run.tile s t f) := by
  unfold Run.tile
  repeat' first
      | (with_reducible first | assumption | apply State.modTile_keeps | apply RunKeeps.done | apply RunKeeps.fail
                               | apply RunKeeps.stop | apply RunKeeps.clash | apply RunKeeps.moves | apply RunKeeps.store
                               | apply RunKeeps.halted)
      | split | (intro _) | dsimp only

theorem State.fixGates_keeps (s : State) (c : Nat) (q : ReplayRun) (k : Nat) (h_s : Keeps s0 s) :
    Keeps s0 (State.fixGates s c q k) := by
  unfold State.fixGates
  repeat' first
      | (with_reducible first | assumption | apply State.setCluster_keeps)
      | split | (intro _) | dsimp only

theorem State.goosePort_keeps (s : State) (p : OwnPort) (r : ReplayRec) (gate : Nat) (late : Nat) (cond : Nat) (h_s : Keeps s0 s) :
    Keeps s0 (State.goosePort s p r gate late cond) := by
  unfold State.goosePort
  repeat' first
      | (with_reducible first | assumption | apply State.gooseCluster_keeps | apply State.setPort_keeps | apply State.gooseChip_keeps)
      | split | (intro _) | dsimp only

theorem State.placeWindow_keeps (s : State) (p : OwnPort) (t : Nat) (h_s : Keeps s0 s) :
    Keeps s0 (State.placeWindow s p t) := by
  unfold State.placeWindow
  repeat' first
      | (with_reducible first | assumption | apply State.gooseCluster_keeps | apply State.setPort_keeps)
      | split | (intro _) | dsimp only

theorem State.startNext_keeps (s0 s : State) (p : OwnPort) (n : Nat) (h_s : Keeps s0 s) : Keeps s0 (s.startNext p n) := by
  induction n generalizing s with
  | zero => exact h_s
  | succ n ih =>
    unfold State.startNext
    repeat' first
     | with_reducible assumption
     | with_reducible apply ih
     | with_reducible apply State.setPort_keeps
     | with_reducible apply State.goosePort_keeps
     | split
     | dsimp only

theorem State.endPacketLeft_keeps (s : State) (p : OwnPort) (via : Nat) (h_s : Keeps s0 s) :
    Keeps s0 (State.endPacketLeft s p via) := by
  unfold State.endPacketLeft
  repeat' first
      | (with_reducible first | assumption | apply State.setPort_keeps | apply State.settleReplay_keeps | apply State.startNext_keeps)
      | split | (intro _) | dsimp only

theorem State.passOwnership_keeps (s : State) (p : OwnPort) (h_s : Keeps s0 s) :
    Keeps s0 (State.passOwnership s p) := by
  unfold State.passOwnership
  repeat' first
      | (with_reducible first | assumption | apply State.goosePort_keeps | apply State.setPort_keeps)
      | split | (intro _) | dsimp only

theorem State.orderAtPort_keeps (s : State) (p : OwnPort) (r : ReplayRec) (h_s : Keeps s0 s) :
    Keeps s0 (State.orderAtPort s p r) := by
  unfold State.orderAtPort
  repeat' first
      | (with_reducible first | assumption | apply State.modLive_keeps | apply State.fixGates_keeps | apply State.settleReplay_keeps
                               | apply State.startNext_keeps | apply State.setPort_keeps)
      | split | (intro _) | dsimp only

theorem State.noteHwm_keeps (s : State) (t : Nat) (inp : RPort) (cls : Nat) (n : Nat) (h_s : Keeps s0 s) :
    Keeps s0 (State.noteHwm s t inp cls n) := by
  unfold State.noteHwm
  repeat' first
      | (with_reducible first | assumption | apply State.setFld_keeps)
      | split | (intro _) | dsimp only

theorem State.enqueue_keeps (s : State) (t : Nat) (inp : RPort) (cls : Nat) (f : Flit) (h_s : Keeps s0 s) :
    Keeps s0 (State.enqueue s t inp cls f) := by
  unfold State.enqueue
  repeat' first
      | (with_reducible first | assumption | apply State.noteHwm_keeps | apply State.setRouter_keeps)
      | split | (intro _) | dsimp only

theorem State.dropHead_keeps (s : State) (t : Nat) (inp : RPort) (cls : Nat) (h_s : Keeps s0 s) :
    Keeps s0 (State.dropHead s t inp cls) := by
  unfold State.dropHead
  repeat' first
      | (with_reducible first | assumption | apply State.setRouter_keeps)
      | split | (intro _) | dsimp only

theorem State.routeConflict_keeps (s : State) (t : Nat) (inp : RPort) (cls : Nat) (outp : Nat) (flow : Nat) (h_s : Keeps s0 s) :
    Keeps s0 (State.routeConflict s t inp cls outp flow) := by
  unfold State.routeConflict
  repeat' first
      | (with_reducible first | assumption | apply State.halt_keeps | apply State.dropHead_keeps)
      | split | (intro _) | dsimp only

theorem State.deliverLocal_keeps (s : State) (t : Nat) (cls : Nat) (f : Flit) (h_s : Keeps s0 s) :
    Keeps s0 (State.deliverLocal s t cls f) := by
  unfold State.deliverLocal
  repeat' first
      | (with_reducible first | assumption | apply State.modTile_keeps | apply State.bump_keeps | apply State.setTile_keeps)
      | split | (intro _) | dsimp only

theorem State.putIntake_keeps (s : State) (i : OwnPort) (p : Packet) (h_s : Keeps s0 s) :
    Keeps s0 (State.putIntake s i p) := by
  unfold State.putIntake
  repeat' first
      | (with_reducible first | assumption | (fail_if_no_progress apply Keeps.mk))
      | split | (intro _) | dsimp only

theorem State.deliverUnit_keeps (s : State) (t : Nat) (out : RPort) (cls : Nat) (f : Flit) (h_s : Keeps s0 s) :
    Keeps s0 (State.deliverUnit s t out cls f) := by
  unfold State.deliverUnit
  repeat' first
      | (with_reducible first | assumption | apply State.putIntake_keeps | (fail_if_no_progress apply Keeps.mk))
      | split | (intro _) | dsimp only

theorem State.arrive_keeps (s : State) (n : Nat) (inp : RPort) (cls : Nat) (f : Flit) (e : LinkErr) (h_s : Keeps s0 s) :
    Keeps s0 (State.arrive s n inp cls f e) := by
  unfold State.arrive
  repeat' first
      | (with_reducible first | assumption | apply State.setRouter_keeps | apply State.enqueue_keeps | apply State.health_keeps
                               | apply State.bumpF_keeps | apply State.halt_keeps)
      | split | (intro _) | dsimp only

theorem State.moveFlit_keeps (s : State) (t : Nat) (out : RPort) (inp : RPort) (cls : Nat) (e : LinkErr) (h_s : Keeps s0 s) :
    Keeps s0 (State.moveFlit s t out inp cls e) := by
  unfold State.moveFlit
  extract_lets r ikey okey taken
  split
  · extract_lets left all r1 r2 q1 q2 qc q3 q4
    have h1 : Keeps s0 q1 := State.bump_keeps _ _ _ _ (State.setRouter_keeps _ _ _ _ h_s)
    clear_value r2 q1
    have h2 : Keeps s0 q2 := by
      unfold q2
      split
      · exact State.bump_keeps _ _ _ _ h1
      · exact h1
    clear_value q2
    have hc : Keeps s0 qc := State.deliverUnit_keeps _ _ _ _ _ _ h2
    clear_value qc
    have h3 : Keeps s0 q3 := by
      unfold q3
      repeat' first
       | with_reducible apply State.deliverLocal_keeps
       | with_reducible apply State.deliverUnit_keeps
       | with_reducible apply State.arrive_keeps
       | with_reducible apply State.placeWindow_keeps
       | with_reducible assumption
       | split
    clear_value q3
    have h4 : Keeps s0 q4 := State.endPacketLeft_keeps _ _ _ _ h3
    clear_value q4
    repeat' first
     | with_reducible assumption
     | with_reducible apply State.endPacketLeft_keeps
     | split
  · exact h_s

theorem State.arriveIn_keeps (s : State) (t : Nat) (inp : RPort) (cls : Nat) (f : Flit) (h_s : Keeps s0 s) :
    Keeps s0 (State.arriveIn s t inp cls f) := by
  unfold State.arriveIn
  repeat' first
      | (with_reducible first | assumption | apply State.arrive_keeps)
      | split | (intro _) | dsimp only

theorem State.checkInput_keeps (s : State) (t : Nat) (inp : RPort) (cls : Nat) (e : LinkErr) (h_s : Keeps s0 s) :
    Keeps s0 (State.checkInput s t inp cls e).1 := by
  unfold State.checkInput
  repeat' first
      | (with_reducible first | assumption | apply State.health_keeps | apply State.bumpF_keeps | apply State.halt_keeps
                               | apply State.dropHead_keeps | apply State.setRouter_keeps)
      | split | (intro _) | dsimp only

theorem State.enterMesh_keeps (s : State) (t : Nat) (inp : RPort) (hdr : FlitWord) (data : List (FlitWord × Bool)) (h_s : Keeps s0 s) :
    Keeps s0 (State.enterMesh s t inp hdr data) := by
  unfold State.enterMesh
  repeat' first
      | (with_reducible first | assumption | apply State.arriveIn_keeps | apply Keeps.foldl | apply Keeps.foldl1)
      | split | (intro _) | dsimp only

theorem State.answerOrigin_keeps (s : State) (u key n fuel : Nat) (h_s : Keeps s0 s) : Keeps s0 (State.answerOrigin s u key n fuel) := by
  induction fuel generalizing s u key n with
  | zero => exact h_s
  | succ fuel ih =>
    unfold State.answerOrigin
    repeat' first
      | (with_reducible first | assumption | apply State.setLchan_keeps | apply ih)
      | split | dsimp only

theorem State.onward_keeps (s : State) (l : Nat) (tr : Transfer) (n : Nat) (h_s : Keeps s0 s) :
    Keeps s0 (State.onward s l tr n) := by
  unfold State.onward
  repeat' first
      | (with_reducible first | assumption | apply State.answerOrigin_keeps)
      | split | (intro _) | dsimp only

theorem State.answerLadle_keeps (s : State) (h : FlitWord) (h_s : Keeps s0 s) :
    Keeps s0 (State.answerLadle s h) := by
  unfold State.answerLadle
  repeat' first
      | (with_reducible first | assumption | apply State.onward_keeps | apply State.setLchan_keeps | apply Keeps.foldl | apply Keeps.foldl1)
      | split | (intro _) | dsimp only

theorem State.inject_keeps (s : State) (t : Nat) (hdr : FlitWord) (data : List FlitWord) (h_s : Keeps s0 s) :
    Keeps s0 (State.inject s t hdr data) := by
  unfold State.inject
  repeat' first
      | (with_reducible first | assumption | apply State.bump_keeps | apply State.modTile_keeps | apply State.enterMesh_keeps)
      | split | (intro _) | dsimp only

theorem execSync_keeps (e : Engine) (k : Issue) (s : State) (h_s : Keeps s0 s) :
    Answers s0 (execSync e k s) := by
  unfold execSync
  repeat' first
      | (with_reducible first | assumption | apply State.issue_keeps | apply Answers.next | apply RunKeeps.done | apply RunKeeps.fail
                               | apply RunKeeps.stop | apply RunKeeps.clash | apply RunKeeps.moves | apply RunKeeps.store
                               | apply RunKeeps.halted | apply OptKeeps.none | apply OptKeeps.some | apply OptKeeps2.none
                               | apply OptKeeps2.some)
      | split | (intro _) | dsimp only

theorem execEnd_keeps (e : Engine) (k : Issue) (seg : BitVec 16) (s : State) (h_s : Keeps s0 s) :
    Answers s0 (execEnd e k seg s) := by
  unfold execEnd
  repeat' first
      | (with_reducible first | assumption | apply State.issuePlain_keeps | apply Run.tile_keeps | apply Answers.next
                               | apply RunKeeps.done | apply RunKeeps.fail | apply RunKeeps.stop | apply RunKeeps.clash
                               | apply RunKeeps.moves | apply RunKeeps.store | apply RunKeeps.halted)
      | split | (intro _) | dsimp only

theorem aregOp_keeps (e : Engine) (k : Issue) (ad : BitVec 3) (f : TileState → Word → Word) (s : State) (h_s : Keeps s0 s) :
    Keeps s0 (aregOp e k ad f s) := by
  unfold aregOp
  repeat' first
      | (with_reducible first | assumption | apply State.issuePlain_keeps | apply Run.tile_keeps | apply RunKeeps.done
                               | apply RunKeeps.fail | apply RunKeeps.stop | apply RunKeeps.clash | apply RunKeeps.moves
                               | apply RunKeeps.store | apply RunKeeps.halted)
      | split | (intro _) | dsimp only

theorem execAmov_keeps (e : Engine) (k : Issue) (ad : BitVec 3) (imm : Word) (s : State) (h_s : Keeps s0 s) :
    Answers s0 (execAmov e k ad imm s) := by
  unfold execAmov
  repeat' first
      | (with_reducible first | assumption | apply aregOp_keeps | apply Answers.next)
      | split | (intro _) | dsimp only

theorem execAadd_keeps (e : Engine) (k : Issue) (ad : BitVec 3) (imm : Word) (s : State) (h_s : Keeps s0 s) :
    Answers s0 (execAadd e k ad imm s) := by
  unfold execAadd
  repeat' first
      | (with_reducible first | assumption | apply aregOp_keeps | apply Answers.next)
      | split | (intro _) | dsimp only

theorem execApar_keeps (e : Engine) (k : Issue) (ad : BitVec 3) (p : BitVec 6) (s : State) (h_s : Keeps s0 s) :
    Answers s0 (execApar e k ad p s) := by
  unfold execApar
  repeat' first
      | (with_reducible first | assumption | apply aregOp_keeps | apply Answers.next)
      | split | (intro _) | dsimp only

theorem execLoopStart_keeps (e : Engine) (k : Issue) (n : LoopCount) (body : BitVec 16) (s : State) (h_s : Keeps s0 s) :
    Answers s0 (execLoopStart e k n body s) := by
  unfold execLoopStart
  repeat' first
      | (with_reducible first | assumption | apply State.issuePlain_keeps | apply State.setTile_keeps | apply Answers.next
                               | apply RunKeeps.done | apply RunKeeps.fail | apply RunKeeps.stop | apply RunKeeps.clash
                               | apply RunKeeps.moves | apply RunKeeps.store | apply RunKeeps.halted)
      | split | (intro _) | dsimp only

theorem execLoopEnd_keeps (e : Engine) (k : Issue) (s : State) (h_s : Keeps s0 s) :
    Answers s0 (execLoopEnd e k s) := by
  unfold execLoopEnd
  repeat' first
      | (with_reducible first | assumption | apply State.issuePlain_keeps | apply State.setTile_keeps | apply Answers.next
                               | apply RunKeeps.done | apply RunKeeps.fail | apply RunKeeps.stop | apply RunKeeps.clash
                               | apply RunKeeps.moves | apply RunKeeps.store | apply RunKeeps.halted)
      | split | (intro _) | dsimp only

theorem rForm_keeps (k : Issue) (gd : BitVec 5) (ga : BitVec 5) (gb : BitVec 5) (f : Word → Word → Word) (s : State) (h_s : Keeps s0 s) :
    Keeps s0 (rForm k gd ga gb f s) := by
  unfold rForm
  repeat' first
      | (with_reducible first | assumption | apply State.issuePlain_keeps | apply Run.tile_keeps | apply RunKeeps.done
                               | apply RunKeeps.fail | apply RunKeeps.stop | apply RunKeeps.clash | apply RunKeeps.moves
                               | apply RunKeeps.store | apply RunKeeps.halted)
      | split | (intro _) | dsimp only

theorem iForm_keeps (k : Issue) (gd : BitVec 5) (ga : BitVec 5) (f : Word → Word) (s : State) (h_s : Keeps s0 s) :
    Keeps s0 (iForm k gd ga f s) := by
  unfold iForm
  repeat' first
      | (with_reducible first | assumption | apply State.issuePlain_keeps | apply Run.tile_keeps | apply RunKeeps.done
                               | apply RunKeeps.fail | apply RunKeeps.stop | apply RunKeeps.clash | apply RunKeeps.moves
                               | apply RunKeeps.store | apply RunKeeps.halted)
      | split | (intro _) | dsimp only

theorem shiftForm_keeps (k : Issue) (gd : BitVec 5) (ga : BitVec 5) (imm : BitVec 24) (f : Word → Nat → Word) (s : State) (h_s : Keeps s0
    s) :
    Keeps s0 (shiftForm k gd ga imm f s) := by
  unfold shiftForm
  repeat' first
      | (with_reducible first | assumption | apply iForm_keeps | apply State.issuePlain_keeps | apply RunKeeps.done
                               | apply RunKeeps.fail | apply RunKeeps.stop | apply RunKeeps.clash | apply RunKeeps.moves
                               | apply RunKeeps.store | apply RunKeeps.halted)
      | split | (intro _) | dsimp only

theorem execAdd_keeps (k : Issue) (gd : BitVec 5) (ga : BitVec 5) (gb : BitVec 5) (s : State) (h_s : Keeps s0 s) :
    Answers s0 (execAdd k gd ga gb s) := by
  unfold execAdd
  repeat' first
      | (with_reducible first | assumption | apply rForm_keeps | apply Answers.next)
      | split | (intro _) | dsimp only

theorem execSub_keeps (k : Issue) (gd : BitVec 5) (ga : BitVec 5) (gb : BitVec 5) (s : State) (h_s : Keeps s0 s) :
    Answers s0 (execSub k gd ga gb s) := by
  unfold execSub
  repeat' first
      | (with_reducible first | assumption | apply rForm_keeps | apply Answers.next)
      | split | (intro _) | dsimp only

theorem execAnd_keeps (k : Issue) (gd : BitVec 5) (ga : BitVec 5) (gb : BitVec 5) (s : State) (h_s : Keeps s0 s) :
    Answers s0 (execAnd k gd ga gb s) := by
  unfold execAnd
  repeat' first
      | (with_reducible first | assumption | apply rForm_keeps | apply Answers.next)
      | split | (intro _) | dsimp only

theorem execOr_keeps (k : Issue) (gd : BitVec 5) (ga : BitVec 5) (gb : BitVec 5) (s : State) (h_s : Keeps s0 s) :
    Answers s0 (execOr k gd ga gb s) := by
  unfold execOr
  repeat' first
      | (with_reducible first | assumption | apply rForm_keeps | apply Answers.next)
      | split | (intro _) | dsimp only

theorem execXor_keeps (k : Issue) (gd : BitVec 5) (ga : BitVec 5) (gb : BitVec 5) (s : State) (h_s : Keeps s0 s) :
    Answers s0 (execXor k gd ga gb s) := by
  unfold execXor
  repeat' first
      | (with_reducible first | assumption | apply rForm_keeps | apply Answers.next)
      | split | (intro _) | dsimp only

theorem execSll_keeps (k : Issue) (gd : BitVec 5) (ga : BitVec 5) (gb : BitVec 5) (s : State) (h_s : Keeps s0 s) :
    Answers s0 (execSll k gd ga gb s) := by
  unfold execSll
  repeat' first
      | (with_reducible first | assumption | apply rForm_keeps | apply Answers.next)
      | split | (intro _) | dsimp only

theorem execSrl_keeps (k : Issue) (gd : BitVec 5) (ga : BitVec 5) (gb : BitVec 5) (s : State) (h_s : Keeps s0 s) :
    Answers s0 (execSrl k gd ga gb s) := by
  unfold execSrl
  repeat' first
      | (with_reducible first | assumption | apply rForm_keeps | apply Answers.next)
      | split | (intro _) | dsimp only

theorem execSra_keeps (k : Issue) (gd : BitVec 5) (ga : BitVec 5) (gb : BitVec 5) (s : State) (h_s : Keeps s0 s) :
    Answers s0 (execSra k gd ga gb s) := by
  unfold execSra
  repeat' first
      | (with_reducible first | assumption | apply rForm_keeps | apply Answers.next)
      | split | (intro _) | dsimp only

theorem execSlt_keeps (k : Issue) (gd : BitVec 5) (ga : BitVec 5) (gb : BitVec 5) (s : State) (h_s : Keeps s0 s) :
    Answers s0 (execSlt k gd ga gb s) := by
  unfold execSlt
  repeat' first
      | (with_reducible first | assumption | apply rForm_keeps | apply Answers.next)
      | split | (intro _) | dsimp only

theorem execSltu_keeps (k : Issue) (gd : BitVec 5) (ga : BitVec 5) (gb : BitVec 5) (s : State) (h_s : Keeps s0 s) :
    Answers s0 (execSltu k gd ga gb s) := by
  unfold execSltu
  repeat' first
      | (with_reducible first | assumption | apply rForm_keeps | apply Answers.next)
      | split | (intro _) | dsimp only

theorem execMul_keeps (k : Issue) (gd : BitVec 5) (ga : BitVec 5) (gb : BitVec 5) (s : State) (h_s : Keeps s0 s) :
    Answers s0 (execMul k gd ga gb s) := by
  unfold execMul
  repeat' first
      | (with_reducible first | assumption | apply rForm_keeps | apply Answers.next)
      | split | (intro _) | dsimp only

theorem execMulhu_keeps (k : Issue) (gd : BitVec 5) (ga : BitVec 5) (gb : BitVec 5) (s : State) (h_s : Keeps s0 s) :
    Answers s0 (execMulhu k gd ga gb s) := by
  unfold execMulhu
  repeat' first
      | (with_reducible first | assumption | apply rForm_keeps | apply Answers.next)
      | split | (intro _) | dsimp only

theorem execAddi_keeps (k : Issue) (gd : BitVec 5) (ga : BitVec 5) (imm : BitVec 24) (s : State) (h_s : Keeps s0 s) :
    Answers s0 (execAddi k gd ga imm s) := by
  unfold execAddi
  repeat' first
      | (with_reducible first | assumption | apply iForm_keeps | apply Answers.next)
      | split | (intro _) | dsimp only

theorem execAndi_keeps (k : Issue) (gd : BitVec 5) (ga : BitVec 5) (imm : BitVec 24) (s : State) (h_s : Keeps s0 s) :
    Answers s0 (execAndi k gd ga imm s) := by
  unfold execAndi
  repeat' first
      | (with_reducible first | assumption | apply iForm_keeps | apply Answers.next)
      | split | (intro _) | dsimp only

theorem execOri_keeps (k : Issue) (gd : BitVec 5) (ga : BitVec 5) (imm : BitVec 24) (s : State) (h_s : Keeps s0 s) :
    Answers s0 (execOri k gd ga imm s) := by
  unfold execOri
  repeat' first
      | (with_reducible first | assumption | apply iForm_keeps | apply Answers.next)
      | split | (intro _) | dsimp only

theorem execXori_keeps (k : Issue) (gd : BitVec 5) (ga : BitVec 5) (imm : BitVec 24) (s : State) (h_s : Keeps s0 s) :
    Answers s0 (execXori k gd ga imm s) := by
  unfold execXori
  repeat' first
      | (with_reducible first | assumption | apply iForm_keeps | apply Answers.next)
      | split | (intro _) | dsimp only

theorem execSlli_keeps (k : Issue) (gd : BitVec 5) (ga : BitVec 5) (imm : BitVec 24) (s : State) (h_s : Keeps s0 s) :
    Answers s0 (execSlli k gd ga imm s) := by
  unfold execSlli
  repeat' first
      | (with_reducible first | assumption | apply shiftForm_keeps | apply Answers.next)
      | split | (intro _) | dsimp only

theorem execSrli_keeps (k : Issue) (gd : BitVec 5) (ga : BitVec 5) (imm : BitVec 24) (s : State) (h_s : Keeps s0 s) :
    Answers s0 (execSrli k gd ga imm s) := by
  unfold execSrli
  repeat' first
      | (with_reducible first | assumption | apply shiftForm_keeps | apply Answers.next)
      | split | (intro _) | dsimp only

theorem execSrai_keeps (k : Issue) (gd : BitVec 5) (ga : BitVec 5) (imm : BitVec 24) (s : State) (h_s : Keeps s0 s) :
    Answers s0 (execSrai k gd ga imm s) := by
  unfold execSrai
  repeat' first
      | (with_reducible first | assumption | apply shiftForm_keeps | apply Answers.next)
      | split | (intro _) | dsimp only

theorem execLui_keeps (k : Issue) (gd : BitVec 5) (imm : BitVec 24) (s : State) (h_s : Keeps s0 s) :
    Answers s0 (execLui k gd imm s) := by
  unfold execLui
  repeat' first
      | (with_reducible first | assumption | apply iForm_keeps | apply Answers.next)
      | split | (intro _) | dsimp only

theorem execLw_keeps (k : Issue) (gd : BitVec 5) (ga : BitVec 5) (imm : BitVec 24) (s : State) (h_s : Keeps s0 s) :
    Answers s0 (execLw k gd ga imm s) := by
  unfold execLw
  repeat' first
      | (with_reducible first | assumption | apply State.issuePlain_keeps | apply State.engRead_keeps | apply Run.tile_keeps
                               | apply Answers.next | apply RunKeeps.done | apply RunKeeps.fail | apply RunKeeps.stop
                               | apply RunKeeps.clash | apply RunKeeps.moves | apply RunKeeps.store | apply RunKeeps.halted)
      | (refine Keeps.pair (o := _) ?_ (by assumption); with_reducible apply State.engRead_keeps)
      | split | (intro _) | dsimp only

theorem execSw_keeps (k : Issue) (gb : BitVec 5) (ga : BitVec 5) (imm : BitVec 24) (s : State) (h_s : Keeps s0 s) :
    Answers s0 (execSw k gb ga imm s) := by
  unfold execSw
  repeat' first
      | (with_reducible first | assumption | apply State.issuePlain_keeps | apply Answers.next | apply RunKeeps.done
                               | apply RunKeeps.fail | apply RunKeeps.stop | apply RunKeeps.clash | apply RunKeeps.moves
                               | apply RunKeeps.store | apply RunKeeps.halted)
      | split | (intro _) | dsimp only

theorem State.askNarrow_keeps (q : State) (t : Nat) (mem : Nat) (off : Nat) (h_q : Keeps s0 (q)) :
    Keeps s0 (State.askNarrow q t mem off) := by
  unfold State.askNarrow
  repeat' first
      | (with_reducible first | assumption | apply State.setTile_keeps)
      | split | (intro _) | dsimp only

theorem State.dropScalarReq_keeps (q : State) (t : Nat) (mem : Nat) (h_q : Keeps s0 (q)) :
    Keeps s0 (State.dropScalarReq q t mem) := by
  unfold State.dropScalarReq
  repeat' first
      | (with_reducible first | assumption | apply State.modTile_keeps)
      | split | (intro _) | dsimp only

theorem narrowHold_keeps (t : Nat) (mem : Nat) (a : Nat) (granted : Bool) (q : State) (h_q : Keeps s0 (q)) :
    OptKeeps2 s0 (narrowHold t mem a granted q) := by
  unfold narrowHold
  repeat' first
      | (with_reducible first | assumption | apply State.askNarrow_keeps | apply OptKeeps.none | apply OptKeeps.some
                               | apply OptKeeps2.none | apply OptKeeps2.some)
      | split | (intro _) | dsimp only

theorem State.lastIssue_keeps (s : State) (t : Nat) (f : State → State) (h_s : Keeps s0 s) (h_f : ∀ (y1 : State), Keeps s0 (y1) → Keeps s0
    (f y1)) :
    Keeps s0 (State.lastIssue s t f) := by
  unfold State.lastIssue
  repeat' first
      | (with_reducible first | assumption | apply h_f | apply State.setTile_keeps)
      | split | (intro _) | dsimp only

theorem execLwn_keeps (k : Issue) (gd : BitVec 5) (ga : BitVec 5) (mem : BitVec 2) (imm : BitVec 24) (granted : Bool) (s : State) (h_s :
    Keeps s0 s) :
    Answers s0 (execLwn k gd ga mem imm granted s) := by
  unfold execLwn
  repeat' first
      | (with_reducible first | assumption | apply State.lastIssue_keeps | apply State.issue_keeps | apply narrowHold_keeps
                               | apply State.engRead_keeps | apply State.dropScalarReq_keeps | apply Run.tile_keeps
                               | apply Answers.next | apply RunKeeps.done | apply RunKeeps.fail | apply RunKeeps.stop
                               | apply RunKeeps.clash | apply RunKeeps.moves | apply RunKeeps.store | apply RunKeeps.halted
                               | apply OptKeeps.none | apply OptKeeps.some | apply OptKeeps2.none | apply OptKeeps2.some)
      | (refine OptKeeps2.of (o := _) ?_ (by assumption); with_reducible apply narrowHold_keeps)
      | (refine Keeps.pair (o := _) ?_ (by assumption); with_reducible apply State.engRead_keeps)
      | split | (intro _) | dsimp only

theorem State.swnRead_keeps (q : State) (k : Issue) (mem : Nat) (p : Nat) (w : Word) (h_q : Keeps s0 (q)) :
    Keeps s0 (State.swnRead q k mem p w).1 := by
  unfold State.swnRead
  repeat' first
      | (with_reducible first | assumption | apply State.engRead_keeps)
      | (refine Keeps.pair (o := _) ?_ (by assumption); with_reducible apply State.engRead_keeps)
      | split | (intro _) | dsimp only

theorem swnHold_keeps (k : Issue) (mem : Nat) (a : Nat) (gb : BitVec 5) (granted : Bool) (q : State) (h_q : Keeps s0 (q)) :
    OptKeeps2 s0 (swnHold k mem a gb granted q) := by
  unfold swnHold
  repeat' first
      | (with_reducible first | assumption | apply State.askNarrow_keeps | apply State.swnRead_keeps | apply State.dropScalarReq_keeps
                               | apply State.halt_keeps | apply State.modTile_keeps | apply OptKeeps.none | apply OptKeeps.some
                               | apply OptKeeps2.none | apply OptKeeps2.some)
      | (refine Keeps.pair (o := _) ?_ (by assumption); with_reducible apply State.swnRead_keeps)
      | split | (intro _) | dsimp only

theorem execSwn_keeps (k : Issue) (gb : BitVec 5) (ga : BitVec 5) (mem : BitVec 2) (imm : BitVec 24) (granted : Bool) (s : State) (h_s :
    Keeps s0 s) :
    Answers s0 (execSwn k gb ga mem imm granted s) := by
  unfold execSwn
  repeat' first
      | (with_reducible first | assumption | apply State.lastIssue_keeps | apply State.issue_keeps | apply swnHold_keeps
                               | apply State.modTile_keeps | apply State.dropScalarReq_keeps | apply State.swnRead_keeps
                               | apply State.halt_keeps | apply Answers.next | apply RunKeeps.done | apply RunKeeps.fail
                               | apply RunKeeps.stop | apply RunKeeps.clash | apply RunKeeps.moves | apply RunKeeps.store
                               | apply RunKeeps.halted | apply OptKeeps.none | apply OptKeeps.some | apply OptKeeps2.none
                               | apply OptKeeps2.some)
      | (refine OptKeeps2.of (o := _) ?_ (by assumption); with_reducible apply swnHold_keeps)
      | (refine Keeps.pair (o := _) ?_ (by assumption); with_reducible apply State.swnRead_keeps)
      | split | (intro _) | dsimp only

theorem branch_keeps (c : BrCond) (k : Issue) (ga : BitVec 5) (gb : BitVec 5) (off : BitVec 24) (s : State) (h_s : Keeps s0 s) :
    Keeps s0 (branch c k ga gb off s) := by
  unfold branch
  repeat' first
      | (with_reducible first | assumption | apply State.issuePlain_keeps | apply RunKeeps.done | apply RunKeeps.fail
                               | apply RunKeeps.stop | apply RunKeeps.clash | apply RunKeeps.moves | apply RunKeeps.store
                               | apply RunKeeps.halted)
      | split | (intro _) | dsimp only

theorem execBeq_keeps (k : Issue) (ga : BitVec 5) (gb : BitVec 5) (off : BitVec 24) (s : State) (h_s : Keeps s0 s) :
    Answers s0 (execBeq k ga gb off s) := by
  unfold execBeq
  repeat' first
      | (with_reducible first | assumption | apply branch_keeps | apply Answers.next)
      | split | (intro _) | dsimp only

theorem execBne_keeps (k : Issue) (ga : BitVec 5) (gb : BitVec 5) (off : BitVec 24) (s : State) (h_s : Keeps s0 s) :
    Answers s0 (execBne k ga gb off s) := by
  unfold execBne
  repeat' first
      | (with_reducible first | assumption | apply branch_keeps | apply Answers.next)
      | split | (intro _) | dsimp only

theorem execBlt_keeps (k : Issue) (ga : BitVec 5) (gb : BitVec 5) (off : BitVec 24) (s : State) (h_s : Keeps s0 s) :
    Answers s0 (execBlt k ga gb off s) := by
  unfold execBlt
  repeat' first
      | (with_reducible first | assumption | apply branch_keeps | apply Answers.next)
      | split | (intro _) | dsimp only

theorem execBge_keeps (k : Issue) (ga : BitVec 5) (gb : BitVec 5) (off : BitVec 24) (s : State) (h_s : Keeps s0 s) :
    Answers s0 (execBge k ga gb off s) := by
  unfold execBge
  repeat' first
      | (with_reducible first | assumption | apply branch_keeps | apply Answers.next)
      | split | (intro _) | dsimp only

theorem execBltu_keeps (k : Issue) (ga : BitVec 5) (gb : BitVec 5) (off : BitVec 24) (s : State) (h_s : Keeps s0 s) :
    Answers s0 (execBltu k ga gb off s) := by
  unfold execBltu
  repeat' first
      | (with_reducible first | assumption | apply branch_keeps | apply Answers.next)
      | split | (intro _) | dsimp only

theorem execBgeu_keeps (k : Issue) (ga : BitVec 5) (gb : BitVec 5) (off : BitVec 24) (s : State) (h_s : Keeps s0 s) :
    Answers s0 (execBgeu k ga gb off s) := by
  unfold execBgeu
  repeat' first
      | (with_reducible first | assumption | apply branch_keeps | apply Answers.next)
      | split | (intro _) | dsimp only

theorem execJ_keeps (k : Issue) (off : BitVec 24) (s : State) (h_s : Keeps s0 s) :
    Answers s0 (execJ k off s) := by
  unfold execJ
  repeat' first
      | (with_reducible first | assumption | apply branch_keeps | apply Answers.next)
      | split | (intro _) | dsimp only

theorem execPget_keeps (k : Issue) (gd : BitVec 5) (p : BitVec 6) (s : State) (h_s : Keeps s0 s) :
    Answers s0 (execPget k gd p s) := by
  unfold execPget
  repeat' first
      | (with_reducible first | assumption | apply State.issuePlain_keeps | apply Run.tile_keeps | apply Answers.next
                               | apply RunKeeps.done | apply RunKeeps.fail | apply RunKeeps.stop | apply RunKeeps.clash
                               | apply RunKeeps.moves | apply RunKeeps.store | apply RunKeeps.halted)
      | split | (intro _) | dsimp only

theorem execPset_keeps (k : Issue) (ga : BitVec 5) (p : BitVec 6) (s : State) (h_s : Keeps s0 s) :
    Answers s0 (execPset k ga p s) := by
  unfold execPset
  repeat' first
      | (with_reducible first | assumption | apply State.issuePlain_keeps | apply Run.tile_keeps | apply Answers.next
                               | apply RunKeeps.done | apply RunKeeps.fail | apply RunKeeps.stop | apply RunKeeps.clash
                               | apply RunKeeps.moves | apply RunKeeps.store | apply RunKeeps.halted)
      | split | (intro _) | dsimp only

theorem execPcommit_keeps (k : Issue) (s : State) (h_s : Keeps s0 s) :
    Answers s0 (execPcommit k s) := by
  unfold execPcommit
  repeat' first
      | (with_reducible first | assumption | apply State.issuePlain_keeps | apply Run.tile_keeps | apply Answers.next
                               | apply RunKeeps.done | apply RunKeeps.fail | apply RunKeeps.stop | apply RunKeeps.clash
                               | apply RunKeeps.moves | apply RunKeeps.store | apply RunKeeps.halted)
      | split | (intro _) | dsimp only

theorem execCsend_keeps (k : Issue) (ga : BitVec 5) (s : State) (h_s : Keeps s0 s) :
    Answers s0 (execCsend k ga s) := by
  unfold execCsend
  repeat' first
      | (with_reducible first | assumption | apply State.issue_keeps | apply State.engRead_keeps | apply State.inject_keeps
                               | apply Answers.next | apply RunKeeps.done | apply RunKeeps.fail | apply RunKeeps.stop
                               | apply RunKeeps.clash | apply RunKeeps.moves | apply RunKeeps.store | apply RunKeeps.halted
                               | apply OptKeeps.none | apply OptKeeps.some | apply OptKeeps2.none | apply OptKeeps2.some)
      | (refine Keeps.pair (o := _) ?_ (by assumption); with_reducible apply State.engRead_keeps)
      | split | (intro _) | dsimp only

theorem execRdinfo_keeps (k : Issue) (gd : BitVec 5) (sel : BitVec 2) (s : State) (h_s : Keeps s0 s) :
    Answers s0 (execRdinfo k gd sel s) := by
  unfold execRdinfo
  repeat' first
      | (with_reducible first | assumption | apply State.issuePlain_keeps | apply Run.tile_keeps | apply Answers.next
                               | apply RunKeeps.done | apply RunKeeps.fail | apply RunKeeps.stop | apply RunKeeps.clash
                               | apply RunKeeps.moves | apply RunKeeps.store | apply RunKeeps.halted)
      | split | (intro _) | dsimp only

theorem State.mmaCounts_keeps (s : State) (t : Nat) (m : MmaAcc) (h_s : Keeps s0 s) :
    Keeps s0 (State.mmaCounts s t m) := by
  unfold State.mmaCounts
  repeat' first
      | (with_reducible first | assumption | apply State.bump_keeps | apply State.setReg_keeps | apply State.health_keeps
                               | apply Keeps.foldl | apply Keeps.foldl1)
      | split | (intro _) | dsimp only

theorem State.mmaRead_keeps (q : State × MmaAcc) (k : Issue) (mem off n : Nat) (h_q : Keeps s0 q.1) : Keeps s0 (State.mmaRead q k mem off n).1.1 := by
  unfold State.mmaRead
  split
  · exact h_q
  · exact State.engRead_keeps _ _ _ _ _ _ _ h_q

theorem State.mmaBlock_keeps (k : Issue) (cfg : TeCfg) (acc : Bool) (use : List Nat) (w a p : Nat) (q : State × MmaAcc) (kb : Nat)
    (h_q : Keeps s0 q.1) : Keeps s0 (State.mmaBlock k cfg acc use w a p q kb).1 := by
  unfold State.mmaBlock
  extract_lets x t phys pw rb eb ld panel pan acts pm m m1
  have h0 : Keeps s0 ld.1.1 := State.mmaRead_keeps _ _ _ _ _ _ h_q
  have h1 : Keeps s0 pan.1 := by unfold pan; split <;> exact h0
  have h2 : Keeps s0 acts.1.1 := by
    unfold acts
    generalize fromTo 0 cfg.mr = l
    generalize hz : ((pan, []) : (State × MmaAcc) × List ActBlock) = z
    have hk : Keeps s0 z.1.1 := by rw [← hz]; exact h1
    clear hz
    induction l generalizing z with
    | nil => exact hk
    | cons r l ih =>
      refine ih _ ?_
      dsimp only
      split
      · exact State.mmaRead_keeps _ _ _ _ _ _ hk
      · exact State.mmaRead_keeps _ _ _ _ _ _ (State.mmaRead_keeps _ _ _ _ _ _ hk)
  have h3 : Keeps s0 pm.1.1 := by
    unfold pm
    split
    · exact State.mmaRead_keeps _ _ _ _ _ _ h2
    · exact h2
  split <;> exact h3

theorem State.mmaRun_keeps (q : State) (k : Issue) (cfg : TeCfg) (acc : Bool) (w a p : Nat) (h_q : Keeps s0 q) :
    Keeps s0 (State.mmaRun q k cfg acc w a p).1 := by
  unfold State.mmaRun
  extract_lets t faulty r
  have h : Keeps s0 r.1 := Keeps.foldl1 (fun z kb h => State.mmaBlock_keeps s0 _ _ _ _ _ _ _ z kb h) h_q
  split <;> exact h

theorem execTcfg_keeps (k : Issue) (fw : BitVec 4) (fa : BitVec 4) (kb : BitVec 8) (mr : BitVec 7) (s : State) (h_s : Keeps s0 s) :
    Answers s0 (execTcfg k fw fa kb mr s) := by
  unfold execTcfg
  repeat' first
      | (with_reducible first | assumption | apply State.issuePlain_keeps | apply Run.tile_keeps | apply Answers.next
                               | apply RunKeeps.done | apply RunKeeps.fail | apply RunKeeps.stop | apply RunKeeps.clash
                               | apply RunKeeps.moves | apply RunKeeps.store | apply RunKeeps.halted)
      | split | (intro _) | dsimp only

theorem kettleHold_keeps (u : Nat) (q : State) (h_q : Keeps s0 (q)) :
    OptKeeps2 s0 (kettleHold u q) := by
  unfold kettleHold
  repeat' first
      | (with_reducible first | assumption | apply State.holdUnit_keeps | apply OptKeeps.none | apply OptKeeps.some
                               | apply OptKeeps2.none | apply OptKeeps2.some)
      | split | (intro _) | dsimp only

theorem execTmma_keeps (k : Issue) (acc : Bool) (wref : TRef) (aref : TRef) (pref : TRef) (clash : Option Clash) (s : State) (h_s : Keeps
    s0 s) :
    Answers s0 (execTmma k acc wref aref pref clash s) := by
  unfold execTmma
  repeat' first
      | (with_reducible first | assumption | apply State.issue_keeps | apply kettleHold_keeps | apply State.joinWindow_keeps
                               | apply State.mmaRun_keeps | apply State.mmaCounts_keeps | apply State.tmFree_keeps
                               | apply State.startUnit_keeps | apply Answers.next | apply RunKeeps.done | apply RunKeeps.fail
                               | apply RunKeeps.stop | apply RunKeeps.clash | apply RunKeeps.moves | apply RunKeeps.store
                               | apply RunKeeps.halted | apply OptKeeps.none | apply OptKeeps.some | apply OptKeeps2.none
                               | apply OptKeeps2.some)
      | (refine OptKeeps2.of (o := _) ?_ (by assumption); with_reducible apply kettleHold_keeps)
      | (refine Keeps.pair (o := _) ?_ (by assumption); with_reducible apply State.mmaRun_keeps)
      | split | (intro _) | dsimp only

theorem execTzero_keeps (k : Issue) (pref : TRef) (clash : Option Clash) (s : State) (h_s : Keeps s0 s) :
    Answers s0 (execTzero k pref clash s) := by
  unfold execTzero
  repeat' first
      | (with_reducible first | assumption | apply State.issuePlain_keeps | apply Answers.next | apply RunKeeps.done
                               | apply RunKeeps.fail | apply RunKeeps.stop | apply RunKeeps.clash | apply RunKeeps.moves
                               | apply RunKeeps.store | apply RunKeeps.halted)
      | split | (intro _) | dsimp only

theorem wideAccess_keeps (e : Engine) (k : Issue) (rs : EngineState → List (Nat × Nat × Nat)) (bad : Bool) (clash : Option Clash) (work :
    State → List (Nat × Nat) → Run) (s : State) (h_work : ∀ (y1 : State) (y2 : List (Nat × Nat)), Keeps s0 (y1) → RunKeeps s0 (work y1
    y2)) (h_s : Keeps s0 s) :
    Keeps s0 (wideAccess e k rs bad clash work s) := by
  unfold wideAccess
  repeat' first
      | (with_reducible first | assumption | apply h_work | apply State.issuePlain_keeps | apply RunKeeps.done | apply RunKeeps.fail
                               | apply RunKeeps.stop | apply RunKeeps.clash | apply RunKeeps.moves | apply RunKeeps.store
                               | apply RunKeeps.halted)
      | split | (intro _) | dsimp only

theorem execVld_keeps (k : Issue) (vd : BitVec 4) (fmt : BitVec 4) (m : MRef) (clash : Option Clash) (s : State) (h_s : Keeps s0 s) :
    Answers s0 (execVld k vd fmt m clash s) := by
  unfold execVld
  repeat' first
      | (with_reducible first | assumption | apply wideAccess_keeps | apply State.engRead_keeps | apply State.modTile_keeps
                               | apply Answers.next | apply RunKeeps.done | apply RunKeeps.fail | apply RunKeeps.stop
                               | apply RunKeeps.clash | apply RunKeeps.moves | apply RunKeeps.store | apply RunKeeps.halted)
      | (refine Keeps.pair (o := _) ?_ (by assumption); with_reducible apply State.engRead_keeps)
      | split | (intro _) | dsimp only

theorem execVst_keeps (k : Issue) (va : BitVec 4) (fmt : BitVec 4) (m : MRef) (clash : Option Clash) (s : State) (h_s : Keeps s0 s) :
    Answers s0 (execVst k va fmt m clash s) := by
  unfold execVst
  repeat' first
      | (with_reducible first | assumption | apply wideAccess_keeps | apply Answers.next | apply RunKeeps.done | apply RunKeeps.fail
                               | apply RunKeeps.stop | apply RunKeeps.clash | apply RunKeeps.moves | apply RunKeeps.store
                               | apply RunKeeps.halted)
      | split | (intro _) | dsimp only

theorem vOp_keeps (k : Issue) (vd : BitVec 4) (f : TileState → Vector Word 64) (s : State) (h_s : Keeps s0 s) :
    Keeps s0 (vOp k vd f s) := by
  unfold vOp
  repeat' first
      | (with_reducible first | assumption | apply State.issuePlain_keeps | apply Run.tile_keeps | apply RunKeeps.done
                               | apply RunKeeps.fail | apply RunKeeps.stop | apply RunKeeps.clash | apply RunKeeps.moves
                               | apply RunKeeps.store | apply RunKeeps.halted)
      | split | (intro _) | dsimp only

theorem execVadd_keeps (k : Issue) (vd : BitVec 4) (va : BitVec 4) (vb : BitVec 4) (pr : Bool) (s : State) (h_s : Keeps s0 s) :
    Answers s0 (execVadd k vd va vb pr s) := by
  unfold execVadd
  repeat' first
      | (with_reducible first | assumption | apply vOp_keeps | apply Answers.next)
      | split | (intro _) | dsimp only

theorem execVsub_keeps (k : Issue) (vd : BitVec 4) (va : BitVec 4) (vb : BitVec 4) (pr : Bool) (s : State) (h_s : Keeps s0 s) :
    Answers s0 (execVsub k vd va vb pr s) := by
  unfold execVsub
  repeat' first
      | (with_reducible first | assumption | apply vOp_keeps | apply Answers.next)
      | split | (intro _) | dsimp only

theorem execVmul_keeps (k : Issue) (vd : BitVec 4) (va : BitVec 4) (vb : BitVec 4) (pr : Bool) (s : State) (h_s : Keeps s0 s) :
    Answers s0 (execVmul k vd va vb pr s) := by
  unfold execVmul
  repeat' first
      | (with_reducible first | assumption | apply vOp_keeps | apply Answers.next)
      | split | (intro _) | dsimp only

theorem execVfma_keeps (k : Issue) (vd : BitVec 4) (va : BitVec 4) (vb : BitVec 4) (vc : BitVec 4) (pr : Bool) (s : State) (h_s : Keeps s0
    s) :
    Answers s0 (execVfma k vd va vb vc pr s) := by
  unfold execVfma
  repeat' first
      | (with_reducible first | assumption | apply vOp_keeps | apply Answers.next)
      | split | (intro _) | dsimp only

theorem execVmax_keeps (k : Issue) (vd : BitVec 4) (va : BitVec 4) (vb : BitVec 4) (pr : Bool) (s : State) (h_s : Keeps s0 s) :
    Answers s0 (execVmax k vd va vb pr s) := by
  unfold execVmax
  repeat' first
      | (with_reducible first | assumption | apply vOp_keeps | apply Answers.next)
      | split | (intro _) | dsimp only

theorem execVmin_keeps (k : Issue) (vd : BitVec 4) (va : BitVec 4) (vb : BitVec 4) (pr : Bool) (s : State) (h_s : Keeps s0 s) :
    Answers s0 (execVmin k vd va vb pr s) := by
  unfold execVmin
  repeat' first
      | (with_reducible first | assumption | apply vOp_keeps | apply Answers.next)
      | split | (intro _) | dsimp only

theorem execVsfn_keeps (k : Issue) (vd : BitVec 4) (va : BitVec 4) (fn : BitVec 4) (pr : Bool) (s : State) (h_s : Keeps s0 s) :
    Answers s0 (execVsfn k vd va fn pr s) := by
  unfold execVsfn
  repeat' first
      | (with_reducible first | assumption | apply vOp_keeps | apply State.issuePlain_keeps | apply Answers.next | apply RunKeeps.done
                               | apply RunKeeps.fail | apply RunKeeps.stop | apply RunKeeps.clash | apply RunKeeps.moves
                               | apply RunKeeps.store | apply RunKeeps.halted)
      | split | (intro _) | dsimp only

theorem execVreds_keeps (k : Issue) (vd : BitVec 4) (va : BitVec 4) (pr : Bool) (s : State) (h_s : Keeps s0 s) :
    Answers s0 (execVreds k vd va pr s) := by
  unfold execVreds
  repeat' first
      | (with_reducible first | assumption | apply vOp_keeps | apply Answers.next)
      | split | (intro _) | dsimp only

theorem execVredm_keeps (k : Issue) (vd : BitVec 4) (va : BitVec 4) (pr : Bool) (s : State) (h_s : Keeps s0 s) :
    Answers s0 (execVredm k vd va pr s) := by
  unfold execVredm
  repeat' first
      | (with_reducible first | assumption | apply vOp_keeps | apply Answers.next)
      | split | (intro _) | dsimp only

theorem execVbcst_keeps (k : Issue) (vd : BitVec 4) (va : BitVec 4) (lane : BitVec 6) (s : State) (h_s : Keeps s0 s) :
    Answers s0 (execVbcst k vd va lane s) := by
  unfold execVbcst
  repeat' first
      | (with_reducible first | assumption | apply vOp_keeps | apply Answers.next)
      | split | (intro _) | dsimp only

theorem execVmovi_keeps (k : Issue) (vd : BitVec 4) (pat : Word) (s : State) (h_s : Keeps s0 s) :
    Answers s0 (execVmovi k vd pat s) := by
  unfold execVmovi
  repeat' first
      | (with_reducible first | assumption | apply vOp_keeps | apply Answers.next)
      | split | (intro _) | dsimp only

theorem execVqst_keeps (k : Issue) (va : BitVec 4) (fmt : BitVec 4) (m : MRef) (clash : Option Clash) (s : State) (h_s : Keeps s0 s) :
    Answers s0 (execVqst k va fmt m clash s) := by
  unfold execVqst
  repeat' first
      | (with_reducible first | assumption | apply wideAccess_keeps | apply State.bump_keeps | apply Answers.next | apply RunKeeps.done
                               | apply RunKeeps.fail | apply RunKeeps.stop | apply RunKeeps.clash | apply RunKeeps.moves
                               | apply RunKeeps.store | apply RunKeeps.halted)
      | split | (intro _) | dsimp only

theorem whiskMove_keeps (k : Issue) (dst : MRef) (src : MRef) (dn : Nat) (sn : Nat) (bad : Bool) (clash : Option Clash) (f : List Byte →
    List Byte) (s : State) (h_s : Keeps s0 s) :
    Keeps s0 (whiskMove k dst src dn sn bad clash f s) := by
  unfold whiskMove
  repeat' first
      | (with_reducible first | assumption | apply wideAccess_keeps | apply State.engRead_keeps | apply State.tmFree_keeps
                               | apply RunKeeps.done | apply RunKeeps.fail | apply RunKeeps.stop | apply RunKeeps.clash
                               | apply RunKeeps.moves | apply RunKeeps.store | apply RunKeeps.halted
                               | (fail_if_no_progress apply Keeps.mk))
      | (refine Keeps.pair (o := _) ?_ (by assumption); with_reducible apply State.engRead_keeps)
      | split | (intro _) | dsimp only

theorem execWcopy_keeps (k : Issue) (dst : MRef) (src : MRef) (len : BitVec 8) (clash : Option Clash) (s : State) (h_s : Keeps s0 s) :
    Answers s0 (execWcopy k dst src len clash s) := by
  unfold execWcopy
  repeat' first
      | (with_reducible first | assumption | apply whiskMove_keeps | apply Answers.next)
      | split | (intro _) | dsimp only

theorem execWfill_keeps (k : Issue) (dst : MRef) (pat : BitVec 16) (len : BitVec 8) (clash : Option Clash) (s : State) (h_s : Keeps s0 s) :
    Answers s0 (execWfill k dst pat len clash s) := by
  unfold execWfill
  repeat' first
      | (with_reducible first | assumption | apply wideAccess_keeps | apply Answers.next | apply RunKeeps.done | apply RunKeeps.fail
                               | apply RunKeeps.stop | apply RunKeeps.clash | apply RunKeeps.moves | apply RunKeeps.store
                               | apply RunKeeps.halted)
      | split | (intro _) | dsimp only

theorem execWtrn_keeps (k : Issue) (dst : MRef) (src : MRef) (ew : BitVec 2) (clash : Option Clash) (s : State) (h_s : Keeps s0 s) :
    Answers s0 (execWtrn k dst src ew clash s) := by
  unfold execWtrn
  repeat' first
      | (with_reducible first | assumption | apply whiskMove_keeps | apply Answers.next)
      | split | (intro _) | dsimp only

theorem execNsend_keeps (k : Issue) (fd : BitVec 6) (last : Bool) (len : BitVec 5) (dareg : BitVec 3) (src : MRef) (clash : Option Clash)
    (s : State) (h_s : Keeps s0 s) :
    Answers s0 (execNsend k fd last len dareg src clash s) := by
  unfold execNsend
  repeat' first
      | (with_reducible first | assumption | apply State.issue_keeps | apply State.eccRead_keeps | apply State.engRead_keeps
                               | apply State.inject_keeps | apply Answers.next | apply RunKeeps.done | apply RunKeeps.fail
                               | apply RunKeeps.stop | apply RunKeeps.clash | apply RunKeeps.moves | apply RunKeeps.store
                               | apply RunKeeps.halted | apply OptKeeps.none | apply OptKeeps.some | apply OptKeeps2.none
                               | apply OptKeeps2.some)
      | (refine Keeps.pair (o := _) ?_ (by assumption); with_reducible apply State.eccRead_keeps)
      | (refine Keeps.pair (o := _) ?_ (by assumption); with_reducible apply State.engRead_keeps)
      | split | (intro _) | dsimp only

theorem execNtally_keeps (k : Issue) (dtile : TileId) (tally : BitVec 5) (inc : BitVec 8) (s : State) (h_s : Keeps s0 s) :
    Answers s0 (execNtally k dtile tally inc s) := by
  unfold execNtally
  repeat' first
      | (with_reducible first | assumption | apply State.issue_keeps | apply State.inject_keeps | apply Answers.next
                               | apply RunKeeps.done | apply RunKeeps.fail | apply RunKeeps.stop | apply RunKeeps.clash
                               | apply RunKeeps.moves | apply RunKeeps.store | apply RunKeeps.halted | apply OptKeeps.none
                               | apply OptKeeps.some | apply OptKeeps2.none | apply OptKeeps2.some)
      | split | (intro _) | dsimp only

theorem execInstructionComplete_keeps (tid : TileId) (e : Engine) (i : Nat) (s : State) (h_s : Keeps s0 s) :
    Answers s0 (execInstructionComplete tid e i s) := by
  unfold execInstructionComplete
  repeat' first
      | (with_reducible first | assumption | apply State.setTile_keeps | apply State.stopUnit_keeps | apply State.addTally_keeps
                               | apply State.modTile_keeps | apply Answers.next)
      | split | (intro _) | dsimp only

theorem execWaitTimeout_keeps (tid : TileId) (e : Engine) (s : State) (h_s : Keeps s0 s) :
    Answers s0 (execWaitTimeout tid e s) := by
  unfold execWaitTimeout
  repeat' first
      | (with_reducible first | assumption | apply State.halt_keeps | apply Answers.next)
      | split | (intro _) | dsimp only

theorem State.takeStart_keeps (s : State) (t : Nat) (slot : BitVec 3) (seg : BitVec 16) (count : BitVec 64) (h_s : Keeps s0 s) :
    Keeps s0 (State.takeStart s t slot seg count) := by
  unfold State.takeStart
  repeat' first
      | (with_reducible first | assumption | apply State.setReg_keeps | apply State.setTile_keeps | apply State.haltAll_keeps)
      | split | (intro _) | dsimp only

theorem execReplayStart_keeps (tid : TileId) (slot : BitVec 3) (count : BitVec 64) (s : State) (h_s : Keeps s0 s) :
    Answers s0 (execReplayStart tid slot count s) := by
  unfold execReplayStart
  repeat' first
      | (with_reducible first | assumption | apply State.fixGates_keeps | apply State.setRun_keeps | apply State.takeStart_keeps
                               | apply State.setTile_keeps | apply Answers.next)
      | split | (intro _) | dsimp only

theorem State.clusterEnd_keeps (s : State) (c : Nat) (t : Nat) (seg : BitVec 16) (count : BitVec 64) (h_s : Keeps s0 s) :
    Keeps s0 (State.clusterEnd s c t seg count) := by
  unfold State.clusterEnd
  repeat' first
      | (with_reducible first | assumption | apply State.setStarted_keeps | apply State.noteReplayLate_keeps | apply State.setFld_keeps)
      | split | (intro _) | dsimp only

theorem execReplayDone_keeps (tid : TileId) (s : State) (h_s : Keeps s0 s) :
    Answers s0 (execReplayDone tid s) := by
  unfold execReplayDone
  repeat' first
      | (with_reducible first | assumption | apply State.clusterEnd_keeps | apply State.setTile_keeps | apply State.modLive_keeps
                               | apply State.complete_keeps | apply State.settleReplay_keeps | apply State.takeStart_keeps
                               | apply Answers.next)
      | split | (intro _) | dsimp only

theorem State.bundleIndex_keeps (s : State) (t : Nat) (seg : BitVec 16) (h : HaltRec) (h_s : Keeps s0 s) :
    Keeps s0 (State.bundleIndex s t seg h).1 := by
  unfold State.bundleIndex
  repeat' first
      | (with_reducible first | assumption | apply State.devCheck_keeps | apply State.awaitBanks_keeps)
      | (refine Keeps.pair (o := _) ?_ (by assumption); with_reducible apply State.devCheck_keeps)
      | split | (intro _) | dsimp only

theorem State.stopRuns_keeps (s : State) (t : Nat) (h_s : Keeps s0 s) :
    Keeps s0 (State.stopRuns s t) := by
  unfold State.stopRuns
  repeat' first
      | (with_reducible first | assumption | apply State.setRun_keeps | apply State.setTile_keeps | apply State.complete_keeps
                               | apply Keeps.foldl | apply Keeps.foldl1)
      | split | (intro _) | dsimp only

theorem execTileHaltReport_keeps (tid : TileId) (s : State) (h_s : Keeps s0 s) :
    Answers s0 (execTileHaltReport tid s) := by
  unfold execTileHaltReport
  repeat' first
      | (with_reducible first | assumption | apply State.bundleIndex_keeps | apply State.setTile_keeps | apply State.modCluster_keeps
                               | apply State.queueEvent_keeps | apply State.serveHalted_keeps | apply State.stopRuns_keeps
                               | apply Answers.next | (fail_if_no_progress apply Keeps.mk))
      | (refine Keeps.pair (o := _) ?_ (by assumption); with_reducible apply State.bundleIndex_keeps)
      | split | (intro _) | dsimp only

theorem State.writeFlit_keeps (s : State) (t : Nat) (flow : Nat) (mem : Nat) (off : Nat) (d : FlitWord × Bool) (h_s : Keeps s0 s) :
    Keeps s0 (State.writeFlit s t flow mem off d) := by
  unfold State.writeFlit
  repeat' first
      | (with_reducible first | assumption | apply State.modTile_keeps | apply State.tmStore_keeps | apply State.tmPoison_keeps)
      | split | (intro _) | dsimp only

theorem State.headerSignal_keeps (s : State) (t : Nat) (h : FlitWord) (h_s : Keeps s0 s) :
    Keeps s0 (State.headerSignal s t h) := by
  unfold State.headerSignal
  repeat' first
      | (with_reducible first | assumption | apply State.answerLadle_keeps | apply State.addTally_keeps | apply State.modTile_keeps)
      | split | (intro _) | dsimp only

theorem State.scrubRead_keeps (s : State) (t : Nat) (h_s : Keeps s0 s) :
    Keeps s0 (State.scrubRead s t) := by
  unfold State.scrubRead
  repeat' first
      | (with_reducible first | assumption | apply State.eccRead_keeps | apply State.setTile_keeps | apply State.halt_keeps)
      | (refine Keeps.pair (o := _) ?_ (by assumption); with_reducible apply State.eccRead_keeps)
      | split | (intro _) | dsimp only

theorem State.serveNarrow_keeps (s : State) (t : Nat) (r : NarrowReq) (h_s : Keeps s0 s) :
    Keeps s0 (State.serveNarrow s t r) := by
  unfold State.serveNarrow
  repeat' first
      | (with_reducible first | assumption | apply State.setTile_keeps | apply State.writeFlit_keeps | apply State.headerSignal_keeps
                               | apply State.scrubRead_keeps | (fail_if_no_progress apply Keeps.mk))
      | split | (intro _) | dsimp only

theorem execNarrowAccess_keeps (tid : TileId) (mem : BitVec 4) (busy : List (Nat × Option Engine)) (s : State) (h_s : Keeps s0 s) :
    Answers s0 (execNarrowAccess tid mem busy s) := by
  unfold execNarrowAccess
  repeat' first
      | (with_reducible first | assumption | apply State.cutOff_keeps | apply State.halt_keeps | apply State.modTile_keeps
                               | apply State.serveNarrow_keeps | apply Answers.next)
      | (refine Keeps.pair (o := _) ?_ (by assumption); with_reducible apply State.cutOff_keeps)
      | split | (intro _) | dsimp only

theorem execNarrowStarve_keeps (tid : TileId) (mem : BitVec 4) (s : State) (h_s : Keeps s0 s) :
    Answers s0 (execNarrowStarve tid mem s) := by
  unfold execNarrowStarve
  repeat' first
      | (with_reducible first | assumption | apply State.bumpF_keeps | apply State.setTile_keeps | apply Answers.next)
      | split | (intro _) | dsimp only

theorem execCorrectionWriteback_keeps (tid : TileId) (s : State) (h_s : Keeps s0 s) :
    Answers s0 (execCorrectionWriteback tid s) := by
  unfold execCorrectionWriteback
  repeat' first
      | (with_reducible first | assumption | apply State.serveNarrow_keeps | apply Answers.next)
      | split | (intro _) | dsimp only

theorem execTileScrubRead_keeps (tid : TileId) (busy : Bool) (s : State) (h_s : Keeps s0 s) :
    Answers s0 (execTileScrubRead tid busy s) := by
  unfold execTileScrubRead
  repeat' first
      | (with_reducible first | assumption | apply State.scrubRead_keeps | apply State.setTile_keeps | apply Answers.next)
      | split | (intro _) | dsimp only

theorem execZeroFill_keeps (tid : TileId) (s : State) (h_s : Keeps s0 s) :
    Answers s0 (execZeroFill tid s) := by
  unfold execZeroFill
  repeat' first
      | (with_reducible first | assumption | apply State.setTile_keeps | apply Answers.next)
      | split | (intro _) | dsimp only

theorem execZeroFillComplete_keeps (tid : TileId) (s : State) (h_s : Keeps s0 s) : Answers s0 (execZeroFillComplete tid s) := by
  unfold execZeroFillComplete
  repeat' first
   | with_reducible assumption
   | with_reducible exact Keeps.rfl' _
   | with_reducible apply State.modRouter_keeps
   | with_reducible apply State.setTile_keeps
   | with_reducible apply Keeps.clear
   | with_reducible apply Answers.next
   | (fail_if_no_progress (with_reducible apply Keeps.mk))
   | split
   | intro _
   | dsimp only

theorem State.clearTile_keeps (s : State) (t : Nat) (h_s : Keeps s0 s) :
    Keeps s0 (State.clearTile s t) := by
  unfold State.clearTile
  repeat' first
      | (with_reducible first | assumption | apply State.setTile_keeps | apply State.modCluster_keeps | apply State.stopUnit_keeps)
      | split | (intro _) | dsimp only

theorem execTileClear_keeps (tid : TileId) (s : State) (h_s : Keeps s0 s) :
    Answers s0 (execTileClear tid s) := by
  unfold execTileClear
  repeat' first
      | (with_reducible first | assumption | apply State.clearTile_keeps | apply Answers.next)
      | split | (intro _) | dsimp only

theorem State.writeTask_keeps (s : State) (t : Nat) (task : Nat) (isB : Bool) (value : Word) (h_s : Keeps s0 s) :
    Keeps s0 (State.writeTask s t task isB value) := by
  unfold State.writeTask
  repeat' first
      | (with_reducible first | assumption | apply State.setReg_keeps | apply State.setBit_keeps)
      | split | (intro _) | dsimp only

theorem execTaskRegisterWrite_keeps (tid : TileId) (task : BitVec 2) (isB : Bool) (value : Word) (s : State) (h_s : Keeps s0 s) :
    Answers s0 (execTaskRegisterWrite tid task isB value s) := by
  unfold execTaskRegisterWrite
  repeat' first
      | (with_reducible first | assumption | apply State.writeTask_keeps | apply Answers.next)
      | split | (intro _) | dsimp only

end Sys2Proof.Machine
end

