-- ==== Sys2Proof/Laws/KeepsMemory.lean ====
section
/-!
SUPPORT. Each operation and command of the memories, the Skillets, the routers and the Ladles leaves the queue and keeps the memories' canonical form.
-/

set_option linter.all false
set_option Elab.async false

namespace Sys2Proof.Machine

open Sys2Proof

variable (s0 : State)

theorem State.serveMem_keeps (s : State) (r : MemReq) (scrub : Bool) (h_s : Keeps s0 s) :
    Keeps s0 (State.serveMem s r scrub) := by
  unfold State.serveMem
  repeat' first
      | (with_reducible first | assumption | apply State.devCheck_keeps | apply State.out_keeps | apply State.devStore_keeps)
      | (refine Keeps.pair (o := _) ?_ (by assumption); with_reducible apply State.devCheck_keeps)
      | split | (intro _) | dsimp only

theorem State.serveBanks_keeps (s : State) (a : Nat) (n : Nat) (code : Nat) (h_s : Keeps s0 s) :
    Keeps s0 (State.serveBanks s a n code) := by
  unfold State.serveBanks
  repeat' first
      | (with_reducible first | assumption | apply State.modVault_keeps | apply Keeps.foldl | apply Keeps.foldl1)
      | split | (intro _) | dsimp only

theorem execVaultRequest_keeps (v : BitVec 6) (ch : BitVec 1) (bank : BitVec 6) (waiting : List (VaultReq × MemReq)) (s : State) (h_s :
    Keeps s0 s) :
    Answers s0 (execVaultRequest v ch bank waiting s) := by
  unfold execVaultRequest
  repeat' first
      | (with_reducible first | assumption | apply State.out_keeps | apply State.refStall_keeps | apply State.setVault_keeps
                               | apply State.bump_keeps | apply State.serveMem_keeps | apply Answers.next)
      | split | (intro _) | dsimp only

theorem execVaultRefresh_keeps (v : BitVec 6) (ch : BitVec 1) (bank : BitVec 6) (s : State) (h_s : Keeps s0 s) :
    Answers s0 (execVaultRefresh v ch bank s) := by
  unfold execVaultRefresh
  repeat' first
      | (with_reducible first | assumption | apply State.setVault_keeps | apply Answers.next)
      | split | (intro _) | dsimp only

theorem execHotrefChange_keeps (v : BitVec 6) (temp : BitVec 8) (s : State) (h_s : Keeps s0 s) :
    Answers s0 (execHotrefChange v temp s) := by
  unfold execHotrefChange
  repeat' first
      | (with_reducible first | assumption | apply State.setVault_keeps | apply Answers.next)
      | split | (intro _) | dsimp only

theorem execVaultScrubRead_keeps (v : BitVec 6) (s : State) (h_s : Keeps s0 s) :
    Answers s0 (execVaultScrubRead v s) := by
  unfold execVaultScrubRead
  repeat' first
      | (with_reducible first | assumption | apply State.refStall_keeps | apply State.devCheck_keeps | apply State.setVault_keeps
                               | apply Answers.next)
      | (refine Keeps.pair (o := _) ?_ (by assumption); with_reducible apply State.devCheck_keeps)
      | split | (intro _) | dsimp only

theorem State.readEntry_keeps (s : State) (v : Nat) (c : SklCmd) (i : Nat) (h_s : Keeps s0 s) :
    Keeps s0 (State.readEntry s v c i).1 := by
  unfold State.readEntry
  repeat' first
      | (with_reducible first | assumption | apply State.devCheck_keeps | apply State.serveBanks_keeps)
      | (refine Keeps.pair (o := _) ?_ (by assumption); with_reducible apply State.devCheck_keeps)
      | split | (intro _) | dsimp only

theorem State.readParts_keeps (s : State) (c : SklCmd) (a : Nat) (n : Nat) (attend : Bool) (h_s : Keeps s0 s) :
    Keeps s0 (State.readParts s c a n attend).1 := by
  unfold State.readParts
  repeat' first
      | (with_reducible first | assumption | apply State.devCheck_keeps | apply State.serveBanks_keeps | apply Keeps.foldl
                               | apply Keeps.foldl1)
      | (refine Keeps.pair (o := _) ?_ (by assumption); with_reducible apply State.devCheck_keeps)
      | split | (intro _) | dsimp only

theorem State.readEntryPage_keeps (s : State) (v : Nat) (c : SklCmd) (i : Nat) (e : Nat) (attend : Bool) (h_s : Keeps s0 s) :
    Keeps s0 (State.readEntryPage s v c i e attend).1 := by
  unfold State.readEntryPage
  repeat' first
      | (with_reducible first | assumption | apply State.readParts_keeps | apply State.bump_keeps)
      | (refine Keeps.pair (o := _) ?_ (by assumption); with_reducible apply State.readParts_keeps)
      | split | (intro _) | dsimp only

theorem readPage_of (v : Nat) (c : SklCmd) (i : Nat) (attend : Bool) (r : State × List Nat) (e : Nat) (h1 : Keeps s0 r.1) :
    Keeps1 s0
      (if r.2 ≠ [] then (r.1, ({ i := i, flags := 4, page := KvPage.empty } : PageRead))
       else if e / 2 ^ 31 = 0 ∨ e / 2 ^ 24 % 128 ≠ 0 then (r.1, { i := i, flags := 1, page := KvPage.empty })
       else if c.pageOutside e then (r.1, { i := i, flags := 2, page := KvPage.empty })
       else r.1.readEntryPage v c i e attend) :=
  Keeps1.ite (Keeps1.mk h1 _) (Keeps1.ite (Keeps1.mk h1 _) (Keeps1.ite (Keeps1.mk h1 _)
    (State.readEntryPage_keeps s0 r.1 v c i e attend h1)))

theorem State.readPage_keeps (s : State) (v : Nat) (c : SklCmd) (i : Nat) (attend : Bool) (h_s : Keeps s0 s) :
    Keeps s0 (State.readPage s v c i attend).1 :=
  readPage_of s0 v c i attend _ _ (State.readEntry_keeps s0 s v c i h_s)

theorem State.refill_keeps (s0 s : State) (v n : Nat) (h_s : Keeps s0 s) : Keeps s0 (s.refill v n) := by
  induction n generalizing s with
  | zero => exact h_s
  | succ n ih =>
    unfold State.refill
    repeat' first
     | with_reducible assumption
     | with_reducible exact Keeps.rfl' _
     | with_reducible apply ih
     | with_reducible apply State.stopUnit_keeps
     | with_reducible apply State.enterMesh_keeps
     | with_reducible apply State.setSkillet_keeps
     | with_reducible apply Answers.next
     | (fail_if_no_progress (with_reducible apply Keeps.mk))
     | split
     | intro _
     | dsimp only

theorem State.refuseItem_keeps (s : State) (v : Nat) (reason : Nat) (p : Packet) (h_s : Keeps s0 s) :
    Keeps s0 (State.refuseItem s v reason p) := by
  unfold State.refuseItem
  repeat' first
      | (with_reducible first | assumption | apply State.bump_keeps | apply State.setReg_keeps | apply State.setBit_keeps
                               | apply State.raise_keeps | apply State.noteBudget_keeps)
      | split | (intro _) | dsimp only

theorem State.readPages_keeps (s : State) (v : Nat) (c : SklCmd) (attend : Bool) (h_s : Keeps s0 s) :
    Keeps s0 (State.readPages s v c attend).1 := by
  unfold State.readPages
  exact Keeps.foldl1 (fun q i h => Keeps.fst (State.readPage_keeps s0 q.1 v c i attend h) _) h_s

theorem State.takeItem_keeps (s : State) (v : Nat) (n : Nat) (h_s : Keeps s0 s) :
    Keeps s0 (State.takeItem s v n) := by
  unfold State.takeItem
  repeat' first
      | (with_reducible first | assumption | (fail_if_no_progress apply Keeps.mk))
      | split | (intro _) | dsimp only

theorem State.runSkillet_keeps (s : State) (v : Nat) (op : Nat) (h_s : Keeps s0 s) :
    Keeps s0 (State.runSkillet s v op) := by
  unfold State.runSkillet
  repeat' first
      | (with_reducible first | assumption | apply State.refuseItem_keeps | apply State.takeItem_keeps | apply State.holdUnit_keeps
                               | apply State.refStall_keeps | apply State.readPages_keeps | apply State.startUnit_keeps
                               | apply State.bump_keeps | apply State.refill_keeps | apply State.setSkillet_keeps)
      | (refine Keeps.pair (o := _) ?_ (by assumption); with_reducible apply State.readPages_keeps)
      | split | (intro _) | dsimp only

theorem execScore_keeps (v : BitVec 6) (s : State) (h_s : Keeps s0 s) :
    Answers s0 (execScore v s) := by
  unfold execScore
  repeat' first
      | (with_reducible first | assumption | apply State.runSkillet_keeps | apply Answers.next)
      | split | (intro _) | dsimp only

theorem execAttend_keeps (v : BitVec 6) (s : State) (h_s : Keeps s0 s) :
    Answers s0 (execAttend v s) := by
  unfold execAttend
  repeat' first
      | (with_reducible first | assumption | apply State.runSkillet_keeps | apply Answers.next)
      | split | (intro _) | dsimp only

theorem execOwnershipPass_keeps (p : OwnPort) (s : State) (h_s : Keeps s0 s) :
    Answers s0 (execOwnershipPass p s) := by
  unfold execOwnershipPass
  repeat' first
      | (with_reducible first | assumption | apply State.passOwnership_keeps | apply Answers.next)
      | split | (intro _) | dsimp only

theorem execReplayOrderAtPort_keeps (p : OwnPort) (seg : BitVec 16) (count : BitVec 64) (s : State) (h_s : Keeps s0 s) :
    Answers s0 (execReplayOrderAtPort p seg count s) := by
  unfold execReplayOrderAtPort
  repeat' first
      | (with_reducible first | assumption | apply State.orderAtPort_keeps | apply State.setRun_keeps | apply Answers.next)
      | split | (intro _) | dsimp only

theorem State.takeFlit_keeps (s : State) (t : Nat) (out : RPort) (inp : RPort) (cls : Nat) (link : LinkErr) (came : LinkErr) (h_s : Keeps
    s0 s) :
    Keeps s0 (State.takeFlit s t out inp cls link came) := by
  unfold State.takeFlit
  repeat' first
      | (with_reducible first | assumption | apply State.checkInput_keeps | apply State.moveFlit_keeps)
      | (refine Keeps.pair (o := _) ?_ (by assumption); with_reducible apply State.checkInput_keeps)
      | split | (intro _) | dsimp only

theorem execPlanPacketAtPort_keeps (tid : TileId) (inp : RPort) (out : RPort) (link : LinkErr) (came : LinkErr) (s : State) (h_s : Keeps
    s0 s) :
    Answers s0 (execPlanPacketAtPort tid inp out link came s) := by
  unfold execPlanPacketAtPort
  repeat' first
      | (with_reducible first | assumption | apply State.routeConflict_keeps | apply State.takeFlit_keeps | apply Answers.next)
      | split | (intro _) | dsimp only

theorem execFlitForward_keeps (tid : TileId) (out : RPort) (link : LinkErr) (came : LinkErr) (s : State) (h_s : Keeps s0 s) :
    Answers s0 (execFlitForward tid out link came s) := by
  unfold execFlitForward
  repeat' first
      | (with_reducible first | assumption | apply State.routeConflict_keeps | apply State.refill_keeps | apply State.takeFlit_keeps
                               | apply State.modRouter_keeps | apply Answers.next)
      | split | (intro _) | dsimp only

theorem execCreditReturn_keeps (tid : TileId) (site : CreditSite) (cls : MClass) (s : State) (h_s : Keeps s0 s) :
    Answers s0 (execCreditReturn tid site cls s) := by
  unfold execCreditReturn
  repeat' first
      | (with_reducible first | assumption | apply State.halt_keeps | apply State.modRouter_keeps | apply State.modTile_keeps
                               | apply Answers.next)
      | split | (intro _) | dsimp only

theorem State.countDrop_keeps (s : State) (t : Nat) (h_s : Keeps s0 s) :
    Keeps s0 (State.countDrop s t) := by
  unfold State.countDrop
  repeat' first
      | (with_reducible first | assumption | apply State.modTile_keeps)
      | split | (intro _) | dsimp only

theorem State.refuseCtrl_keeps (s : State) (t : Nat) (h : FlitWord) (h_s : Keeps s0 s) :
    Keeps s0 (State.refuseCtrl s t h) := by
  unfold State.refuseCtrl
  repeat' first
      | (with_reducible first | assumption | apply State.halt_keeps | apply State.countDrop_keeps)
      | split | (intro _) | dsimp only

theorem State.deliverPlan_keeps (s : State) (t : Nat) (p : Packet) (busy : Bool) (h_s : Keeps s0 s) :
    Keeps s0 (State.deliverPlan s t p busy) := by
  unfold State.deliverPlan
  repeat' first
      | (with_reducible first | assumption | apply State.halt_keeps | apply State.countDrop_keeps | apply State.headerSignal_keeps
                               | apply State.writeFlit_keeps | apply State.setTile_keeps | apply Keeps.foldl | apply Keeps.foldl1)
      | split | (intro _) | dsimp only

theorem execPacketDelivery_keeps (tid : TileId) (busy : Bool) (s : State) (h_s : Keeps s0 s) :
    Answers s0 (execPacketDelivery tid busy s) := by
  unfold execPacketDelivery
  repeat' first
      | (with_reducible first | assumption | apply State.setTile_keeps | apply State.bump_keeps | apply State.deliverPlan_keeps
                               | apply State.refuseCtrl_keeps | apply State.countDrop_keeps | apply Answers.next)
      | split | (intro _) | dsimp only

theorem execTallyPacketArrival_keeps (tid : TileId) (s : State) (h_s : Keeps s0 s) :
    Answers s0 (execTallyPacketArrival tid s) := by
  unfold execTallyPacketArrival
  repeat' first
      | (with_reducible first | assumption | apply State.setTile_keeps | apply State.bump_keeps | apply State.addTally_keeps
                               | apply State.modTile_keeps | apply Answers.next)
      | split | (intro _) | dsimp only

theorem State.ifDelivered_keeps (s : State) (t : Nat) (rest : TileState) (done : TileState) (h_s : Keeps s0 s) :
    Keeps s0 (State.ifDelivered s t rest done) := by
  unfold State.ifDelivered
  repeat' first
      | (with_reducible first | assumption | apply State.bump_keeps | apply State.setTile_keeps)
      | split | (intro _) | dsimp only

theorem execParamWrite_keeps (tid : TileId) (s : State) (h_s : Keeps s0 s) :
    Answers s0 (execParamWrite tid s) := by
  unfold execParamWrite
  repeat' first
      | (with_reducible first | assumption | apply State.ifDelivered_keeps | apply Answers.next)
      | split | (intro _) | dsimp only

theorem execParamCommit_keeps (tid : TileId) (s : State) (h_s : Keeps s0 s) :
    Answers s0 (execParamCommit tid s) := by
  unfold execParamCommit
  repeat' first
      | (with_reducible first | assumption | apply State.ifDelivered_keeps | apply Answers.next)
      | split | (intro _) | dsimp only

theorem State.orderRefused_keeps (s : State) (t : Nat) (h_s : Keeps s0 s) :
    Keeps s0 (State.orderRefused s t) := by
  unfold State.orderRefused
  repeat' first
      | (with_reducible first | assumption | apply State.modCluster_keeps)
      | split | (intro _) | dsimp only

theorem State.doOrder_keeps (s : State) (t : Nat) (order : LoaderOrder) (h_s : Keeps s0 s) :
    Keeps s0 (State.doOrder s t order) := by
  unfold State.doOrder
  repeat' first
      | (with_reducible first | assumption | apply State.orderRefused_keeps | apply State.setTile_keeps | apply State.writeTask_keeps
                               | apply State.tmStore_keeps)
      | split | (intro _) | dsimp only

theorem execLoaderOrder_keeps (tid : TileId) (via : OrderVia) (order : LoaderOrder) (s : State) (h_s : Keeps s0 s) :
    Answers s0 (execLoaderOrder tid via order s) := by
  unfold execLoaderOrder
  repeat' first
      | (with_reducible first | assumption | apply State.bump_keeps | apply State.refuseCtrl_keeps | apply State.doOrder_keeps
                               | apply State.setTile_keeps | apply Answers.next)
      | split | (intro _) | dsimp only

theorem State.closeColander_keeps (s : State) (t : Nat) (h_s : Keeps s0 s) :
    Keeps s0 (State.closeColander s t) := by
  unfold State.closeColander
  repeat' first
      | (with_reducible first | assumption | apply State.setRouter_keeps | apply State.setTile_keeps | apply State.bump_keeps
                               | (fail_if_no_progress apply Keeps.mk))
      | split | (intro _) | dsimp only

theorem State.failReinstate_keeps (s : State) (t : Nat) (h_s : Keeps s0 s) :
    Keeps s0 (State.failReinstate s t) := by
  unfold State.failReinstate
  repeat' first
      | (with_reducible first | assumption | apply State.complete_keeps | (fail_if_no_progress apply Keeps.mk))
      | split | (intro _) | dsimp only

theorem execFenceTakesEffect_keeps (tid : TileId) (s : State) (h_s : Keeps s0 s) :
    Answers s0 (execFenceTakesEffect tid s) := by
  unfold execFenceTakesEffect
  repeat' first
      | (with_reducible first | assumption | apply State.failReinstate_keeps | apply State.complete_keeps
                               | apply State.closeColander_keeps | apply Answers.next | (fail_if_no_progress apply Keeps.mk))
      | split | (intro _) | dsimp only

theorem execReinstateAtBeat_keeps (tid : TileId) (s : State) (h_s : Keeps s0 s) :
    Answers s0 (execReinstateAtBeat tid s) := by
  unfold execReinstateAtBeat
  repeat' first
      | (with_reducible first | assumption | apply State.complete_keeps | apply State.setRouter_keeps | apply State.raise_keeps
                               | apply Answers.next | (fail_if_no_progress apply Keeps.mk))
      | split | (intro _) | dsimp only

theorem State.drainRouter_keeps (s : State) (t : Nat) (b : Nat) (h_s : Keeps s0 s) :
    Keeps s0 (State.drainRouter s t b) := by
  unfold State.drainRouter
  repeat' first
      | (with_reducible first | assumption | apply State.setRouter_keeps)
      | split | (intro _) | dsimp only

theorem State.writeRtrEpoch_keeps (s : State) (t : Nat) (v : Nat) (h_s : Keeps s0 s) :
    Keeps s0 (State.writeRtrEpoch s t v) := by
  unfold State.writeRtrEpoch
  repeat' first
      | (with_reducible first | assumption | apply State.setRouter_keeps | apply State.setBit_keeps | apply Keeps.foldl
                               | apply Keeps.foldl1)
      | split | (intro _) | dsimp only

theorem State.writeRtrTable_keeps (s : State) (t : Nat) (b : Nat) (k : Nat) (v : Nat) (h_s : Keeps s0 s) :
    Keeps s0 (State.writeRtrTable s t b k v) := by
  unfold State.writeRtrTable
  repeat' first
      | (with_reducible first | assumption | apply State.setRouter_keeps | apply State.setBit_keeps)
      | split | (intro _) | dsimp only

theorem State.writeRtr_keeps (s : State) (t : Nat) (off : Nat) (v : Nat) (h_s : Keeps s0 s) :
    Keeps s0 (State.writeRtr s t off v) := by
  unfold State.writeRtr
  repeat' first
      | (with_reducible first | assumption | apply State.writeRtrEpoch_keeps | apply State.writeRtrTable_keeps)
      | split | (intro _) | dsimp only

theorem execRouteTableWrite_keeps (tid : TileId) (off : BitVec 8) (value : Word) (s : State) (h_s : Keeps s0 s) :
    Answers s0 (execRouteTableWrite tid off value s) := by
  unfold execRouteTableWrite
  repeat' first
      | (with_reducible first | assumption | apply State.writeRtr_keeps | apply Answers.next)
      | split | (intro _) | dsimp only

theorem State.dropCmd_keeps (s : State) (seq : Nat) (h_s : Keeps s0 s) :
    Keeps s0 (State.dropCmd s seq) := by
  unfold State.dropCmd
  repeat' first
      | (with_reducible first | assumption | (fail_if_no_progress apply Keeps.mk))
      | split | (intro _) | dsimp only

theorem State.endCmd_keeps (s : State) (c : Option Nat) (status : Nat) (h_s : Keeps s0 s) :
    Keeps s0 (State.endCmd s c status) := by
  unfold State.endCmd
  repeat' first
      | (with_reducible first | assumption | apply State.dropCmd_keeps | apply State.complete_keeps)
      | split | (intro _) | dsimp only

theorem State.cmdPart_keeps (s : State) (c : Option Nat) (h_s : Keeps s0 s) :
    Keeps s0 (State.cmdPart s c) := by
  unfold State.cmdPart
  repeat' first
      | (with_reducible first | assumption | apply State.complete_keeps | apply State.started_keeps)
      | split | (intro _) | dsimp only

theorem State.ladleFault_keeps (s : State) (l : Nat) (k : Nat) (reason : Nat) (flow : Nat) (status : Nat) (h_s : Keeps s0 s) :
    Keeps s0 (State.ladleFault s l k reason flow status) := by
  unfold State.ladleFault
  repeat' first
      | (with_reducible first | assumption | apply State.setLadle_keeps | apply State.noteSlots_keeps | apply State.setLchan_keeps
                               | apply State.setReg_keeps | apply State.raise_keeps | apply State.endCmd_keeps | apply Keeps.foldl
                               | apply Keeps.foldl1)
      | split | (intro _) | dsimp only

theorem State.ladleStart_keeps (s : State) (l : Nat) (k : Nat) (d : LDesc) (cmd : Option Nat) (h_s : Keeps s0 s) :
    Keeps s0 (State.ladleStart s l k d cmd).1 := by
  unfold State.ladleStart
  repeat' first
      | (with_reducible first | assumption | apply State.setLchan_keeps | apply State.endCmd_keeps | apply State.ladleFault_keeps)
      | split | (intro _) | dsimp only

theorem State.transferStart_keeps (s : State) (l : Nat) (k : Nat) (h_s : Keeps s0 s) :
    Keeps s0 (State.transferStart s l k) := by
  unfold State.transferStart
  repeat' first
      | (with_reducible first | assumption | apply State.ladleFault_keeps | apply State.setLadle_keeps | apply State.setReg_keeps
                               | apply State.setLchan_keeps)
      | split | (intro _) | dsimp only

theorem execLadleTransferStart_keeps (l : BitVec 7) (k : BitVec 4) (order : Option (List Byte)) (s : State) (h_s : Keeps s0 s) :
    Answers s0 (execLadleTransferStart l k order s) := by
  unfold execLadleTransferStart
  repeat' first
      | (with_reducible first | assumption | apply State.ladleStart_keeps | apply State.transferStart_keeps | apply Answers.next)
      | (refine Keeps.pair (o := _) ?_ (by assumption); with_reducible apply State.ladleStart_keeps)
      | split | (intro _) | dsimp only

theorem execLstart_keeps (k : Issue) (ga : BitVec 5) (ch : BitVec 3) (s : State) (h_s : Keeps s0 s) :
    Answers s0 (execLstart k ga ch s) := by
  unfold execLstart
  repeat' first
      | (with_reducible first | assumption | apply State.issue_keeps | apply State.engRead_keeps | apply State.ladleStart_keeps
                               | apply Answers.next | apply RunKeeps.done | apply RunKeeps.fail | apply RunKeeps.stop
                               | apply RunKeeps.clash | apply RunKeeps.moves | apply RunKeeps.store | apply RunKeeps.halted
                               | apply OptKeeps.none | apply OptKeeps.some | apply OptKeeps2.none | apply OptKeeps2.some)
      | (refine Keeps.pair (o := _) ?_ (by assumption); with_reducible apply State.engRead_keeps)
      | (refine Keeps.pair (o := _) ?_ (by assumption); with_reducible apply State.ladleStart_keeps)
      | split | (intro _) | dsimp only

theorem State.stageFlit_keeps (s : State) (l : Nat) (k : Nat) (tr : Transfer) (h_s : Keeps s0 s) :
    Keeps s0 (State.stageFlit s l k tr) := by
  unfold State.stageFlit
  repeat' first
      | (with_reducible first | assumption | apply State.setLchan_keeps | apply State.setLadle_keeps | apply State.devCheck_keeps
                               | apply State.serveBanks_keeps)
      | (refine Keeps.pair (o := _) ?_ (by assumption); with_reducible apply State.devCheck_keeps)
      | split | (intro _) | dsimp only

theorem State.ladleFill_keeps (s : State) (l : Nat) (h_s : Keeps s0 s) :
    Keeps s0 (State.ladleFill s l) := by
  unfold State.ladleFill
  repeat' first
      | (with_reducible first | assumption | apply State.refStall_keeps | apply State.stageFlit_keeps)
      | split | (intro _) | dsimp only

theorem State.ladleAsk_keeps (s : State) (l : Nat) (h_s : Keeps s0 s) :
    Keeps s0 (State.ladleAsk s l) := by
  unfold State.ladleAsk
  repeat' first
      | (with_reducible first | assumption | apply State.setLadle_keeps | apply State.setLchan_keeps | apply State.enterMesh_keeps
                               | (fail_if_no_progress apply Keeps.mk))
      | split | (intro _) | dsimp only

theorem State.ladleLeft_keeps (s : State) (l : Nat) (k : Nat) (n : Nat) (h_s : Keeps s0 s) :
    Keeps s0 (State.ladleLeft s l k n) := by
  unfold State.ladleLeft
  repeat' first
      | (with_reducible first | assumption | apply State.setReg_keeps | apply State.setLchan_keeps)
      | split | (intro _) | dsimp only

theorem State.takeStage_keeps (s : State) (l : Nat) (k : Nat) (h_s : Keeps s0 s) :
    Keeps s0 (State.takeStage s l k).1 := by
  unfold State.takeStage
  repeat' first
      | (with_reducible first | assumption | apply State.setLchan_keeps | apply State.setBit_keeps)
      | split | (intro _) | dsimp only

theorem State.lpWake_keeps (s : State) (c : Nat) (h_s : Keeps s0 s) :
    Keeps s0 (State.lpWake s c) := by
  unfold State.lpWake
  repeat' first
      | (with_reducible first | assumption | apply State.startUnit_keeps | apply State.setLpch_keeps)
      | split | (intro _) | dsimp only

theorem State.lpWriteUnits_keeps (s : State) (a : Nat) (us : List (List Byte × Bool)) (h_s : Keeps s0 s) :
    Keeps s0 (State.lpWriteUnits s a us).1 := by
  unfold State.lpWriteUnits
  repeat' first
      | (with_reducible first | assumption | apply State.lpWake_keeps | apply State.devStoreUnit_keeps | apply Keeps.foldl
                               | apply Keeps.foldl1)
      | split | (intro _) | dsimp only

theorem State.pathUnit_keeps (s : State) (l : Nat) (k : Nat) (tr : Transfer) (u : Nat) (d : List Byte × Bool) (h_s : Keeps s0 s) :
    Keeps s0 (State.pathUnit s l k tr u d) := by
  unfold State.pathUnit
  repeat' first
      | (with_reducible first | assumption | apply State.setReg_keeps | apply State.onward_keeps | apply State.devStoreUnit_keeps
                               | apply State.serveBanks_keeps | apply State.hostFree_keeps | apply State.hostWrite_keeps
                               | apply State.lpWriteUnits_keeps | apply State.ladleFault_keeps)
      | (refine Keeps.pair (o := _) ?_ (by assumption); with_reducible apply State.lpWriteUnits_keeps)
      | split | (intro _) | dsimp only

theorem State.pathEnd_keeps (s : State) (l : Nat) (k : Nat) (tr : Transfer) (h_s : Keeps s0 s) :
    Keeps s0 (State.pathEnd s l k tr) := by
  unfold State.pathEnd
  repeat' first
      | (with_reducible first | assumption | apply State.takeStage_keeps | apply State.putIntake_keeps | apply State.placeWindow_keeps
                               | apply State.ladleLeft_keeps | apply State.onward_keeps | apply State.endPacketLeft_keeps
                               | apply State.setLchan_keeps | apply State.setLadle_keeps)
      | (refine Keeps.pair (o := _) ?_ (by assumption); with_reducible apply State.takeStage_keeps)
      | split | (intro _) | dsimp only

theorem State.pathConflict_keeps (s : State) (l : Nat) (k : Nat) (tr : Transfer) (h_s : Keeps s0 s) :
    Keeps s0 (State.pathConflict s l k tr) := by
  unfold State.pathConflict
  repeat' first
      | (with_reducible first | assumption | apply State.ladleLeft_keeps | apply State.halt_keeps | apply State.takeStage_keeps)
      | (refine Keeps.pair (o := _) ?_ (by assumption); with_reducible apply State.takeStage_keeps)
      | split | (intro _) | dsimp only

theorem State.pathSend_keeps (s : State) (l : Nat) (k : Nat) (tr : Transfer) (h_s : Keeps s0 s) :
    Keeps s0 (State.pathSend s l k tr) := by
  unfold State.pathSend
  extract_lets c s1 s2
  have h1 : Keeps s0 s1 := State.setLchan_keeps s0 _ _ _ _ h_s
  have h2 : Keeps s0 s2 := by
    unfold s2; split
    · exact State.pathUnit_keeps s0 _ _ _ _ _ _ h1
    · exact h1
  split
  · exact State.pathConflict_keeps s0 _ _ _ _ h_s
  · split
    · exact State.pathEnd_keeps s0 _ _ _ _ h2
    · exact h2

theorem State.ladleBeside_keeps (s : State) (l : Nat) (p : Nat) (h_s : Keeps s0 s) :
    Keeps s0 (State.ladleBeside s l p) := by
  unfold State.ladleBeside
  repeat' first
      | (with_reducible first | assumption | apply State.refStall_keeps | apply State.holdUnit_keeps | apply State.pathSend_keeps)
      | split | (intro _) | dsimp only

theorem State.beginSend_keeps (s : State) (l : Nat) (k : Nat) (tr : Transfer) (h_s : Keeps s0 s) :
    Keeps s0 (State.beginSend s l k tr) := by
  unfold State.beginSend
  repeat' first
      | (with_reducible first | assumption | apply State.takeStage_keeps | apply State.arriveIn_keeps | apply State.setLadle_keeps
                               | apply State.setLchan_keeps | (fail_if_no_progress apply Keeps.mk))
      | (refine Keeps.pair (o := _) ?_ (by assumption); with_reducible apply State.takeStage_keeps)
      | split | (intro _) | dsimp only

theorem State.ladlePush_keeps (s : State) (l : Nat) (h_s : Keeps s0 s) :
    Keeps s0 (State.ladlePush s l) := by
  unfold State.ladlePush
  repeat' first
      | (with_reducible first | assumption | apply State.setLadle_keeps | apply State.arriveIn_keeps | apply State.ladleLeft_keeps
                               | apply State.beginSend_keeps)
      | split | (intro _) | dsimp only

theorem State.wrapperAnswers_keeps (s : State) (l : Nat) (h_s : Keeps s0 s) :
    Keeps s0 (State.wrapperAnswers s l) := by
  unfold State.wrapperAnswers
  repeat' first
      | (with_reducible first | assumption | apply State.ladleFault_keeps)
      | split | (intro _) | dsimp only

theorem State.ladleCycle_keeps (s : State) (l : Nat) (h_s : Keeps s0 s) :
    Keeps s0 (State.ladleCycle s l) := by
  unfold State.ladleCycle
  repeat' first
      | (with_reducible first | assumption | apply State.ladlePush_keeps | apply State.ladleAsk_keeps | apply State.ladleFill_keeps
                               | apply State.wrapperAnswers_keeps | apply State.ladleBeside_keeps)
      | split | (intro _) | dsimp only

theorem State.ladleCycles_keeps (s0 s : State) (l n : Nat) (h_s : Keeps s0 s) : Keeps s0 (s.ladleCycles l n) := by
  induction n generalizing s with
  | zero => exact h_s
  | succ n ih =>
    unfold State.ladleCycles
    exact ih _ (State.ladleCycle_keeps _ _ _ h_s)

theorem execLadlePacketSend_keeps (l : BitVec 7) (cycles : BitVec 8) (s : State) (h_s : Keeps s0 s) :
    Answers s0 (execLadlePacketSend l cycles s) := by
  unfold execLadlePacketSend
  repeat' first
      | (with_reducible first | assumption | apply State.ladleCycles_keeps | apply Answers.next)
      | split | (intro _) | dsimp only

theorem State.popIntake_keeps (s : State) (p : OwnPort) (pk : Packet) (h_s : Keeps s0 s) :
    Keeps s0 (State.popIntake s p pk) := by
  unfold State.popIntake
  repeat' first
      | (with_reducible first | assumption | (fail_if_no_progress apply Keeps.mk))
      | split | (intro _) | dsimp only

theorem State.takeAtLadle_keeps (s : State) (l : Nat) (p : OwnPort) (pk : Packet) (h_s : Keeps s0 s) :
    Keeps s0 (State.takeAtLadle s l p pk) := by
  unfold State.takeAtLadle
  repeat' first
      | (with_reducible first | assumption | apply State.popIntake_keeps | apply State.setLadle_keeps)
      | split | (intro _) | dsimp only

theorem State.takeAtLpx_keeps (s : State) (p : OwnPort) (half : Nat) (pk : Packet) (h_s : Keeps s0 s) :
    Keeps s0 (State.takeAtLpx s p half pk) := by
  unfold State.takeAtLpx
  repeat' first
      | (with_reducible first | assumption | apply State.popIntake_keeps | apply State.holdUnit_keeps | apply State.lpWriteUnits_keeps
                               | apply State.enterMesh_keeps | (fail_if_no_progress apply Keeps.mk))
      | (refine Keeps.pair (o := _) ?_ (by assumption); with_reducible apply State.lpWriteUnits_keeps)
      | split | (intro _) | dsimp only

theorem State.takeResponse_keeps (s : State) (l : Nat) (h : FlitWord) (h_s : Keeps s0 s) :
    Keeps s0 (State.takeResponse s l h) := by
  unfold State.takeResponse
  repeat' first
      | (with_reducible first | assumption | apply State.onward_keeps | apply State.setLchan_keeps | apply State.ladleFault_keeps)
      | split | (intro _) | dsimp only

theorem State.refusePacket_keeps (s : State) (h : FlitWord) (h_s : Keeps s0 s) :
    Keeps s0 (State.refusePacket s h) := by
  unfold State.refusePacket
  repeat' first
      | (with_reducible first | assumption | apply State.ladleFault_keeps)
      | split | (intro _) | dsimp only

theorem execIntakePacket_keeps (p : OwnPort) (s : State) (h_s : Keeps s0 s) :
    Answers s0 (execIntakePacket p s) := by
  unfold execIntakePacket
  repeat' first
      | (with_reducible first | assumption | apply State.refusePacket_keeps | apply State.popIntake_keeps
                               | apply State.takeResponse_keeps | apply State.takeAtLadle_keeps | apply State.takeAtLpx_keeps
                               | apply Answers.next | (fail_if_no_progress apply Keeps.mk))
      | split | (intro _) | dsimp only

theorem State.ladlePulse_keeps (s : State) (l : Nat) (d : LDesc) (h_s : Keeps s0 s) :
    Keeps s0 (State.ladlePulse s l d) := by
  unfold State.ladlePulse
  repeat' first
      | (with_reducible first | assumption | apply State.enterMesh_keeps | (fail_if_no_progress apply Keeps.mk))
      | split | (intro _) | dsimp only

theorem State.ladleDone_keeps (s : State) (l : Nat) (k : Nat) (tr : Transfer) (h_s : Keeps s0 s) :
    Keeps s0 (State.ladleDone s l k tr) := by
  unfold State.ladleDone
  repeat' first
      | (with_reducible first | assumption | apply State.noteSlots_keeps | apply State.setLchan_keeps | apply State.bump_keeps
                               | apply State.cmdPart_keeps | apply State.ladlePulse_keeps)
      | split | (intro _) | dsimp only

theorem execLadleLastUnit_keeps (l : BitVec 7) (k : BitVec 4) (s : State) (h_s : Keeps s0 s) :
    Answers s0 (execLadleLastUnit l k s) := by
  unfold execLadleLastUnit
  repeat' first
      | (with_reducible first | assumption | apply State.setLchan_keeps | apply State.ladleDone_keeps | apply Answers.next)
      | split | (intro _) | dsimp only

theorem execLadleResponseComplete_keeps (l : BitVec 7) (k : BitVec 4) (s : State) (h_s : Keeps s0 s) :
    Answers s0 (execLadleResponseComplete l k s) := by
  unfold execLadleResponseComplete
  repeat' first
      | (with_reducible first | assumption | apply State.ladleDone_keeps | apply Answers.next)
      | split | (intro _) | dsimp only

theorem execRespTimeout_keeps (l : BitVec 7) (k : BitVec 4) (s : State) (h_s : Keeps s0 s) :
    Answers s0 (execRespTimeout l k s) := by
  unfold execRespTimeout
  repeat' first
      | (with_reducible first | assumption | apply State.ladleFault_keeps | apply Answers.next)
      | split | (intro _) | dsimp only

theorem execRespError_keeps (l : BitVec 7) (k : BitVec 4) (src : ErrFrom) (s : State) (h_s : Keeps s0 s) :
    Answers s0 (execRespError l k src s) := by
  unfold execRespError
  repeat' first
      | (with_reducible first | assumption | apply State.ladleFault_keeps | apply Answers.next)
      | split | (intro _) | dsimp only

theorem State.freeTransfer_keeps (s : State) (d : LDesc) (h_s : Keeps s0 s) :
    Keeps s0 (State.freeTransfer s d) := by
  unfold State.freeTransfer
  repeat' first
      | (with_reducible first | assumption | apply State.devFree_keeps | apply State.hostFree_keeps | apply State.tmFree_keeps)
      | split | (intro _) | dsimp only

theorem State.dropIntake_keeps (s : State) (p : OwnPort) (h_s : Keeps s0 s) :
    Keeps s0 (State.dropIntake s p) := by
  unfold State.dropIntake
  repeat' first
      | (with_reducible first | assumption | (fail_if_no_progress apply Keeps.mk))
      | split | (intro _) | dsimp only

theorem State.ladleDisable_keeps (s : State) (l : Nat) (h_s : Keeps s0 s) :
    Keeps s0 (State.ladleDisable s l) := by
  unfold State.ladleDisable
  repeat' first
      | (with_reducible first | assumption | apply State.dropIntake_keeps | apply State.setBit_keeps | apply State.setLadle_keeps
                               | apply State.freeTransfer_keeps | apply State.setReg_keeps | apply State.noteSlots_keeps
                               | apply State.setLchan_keeps | apply State.endCmd_keeps | apply Keeps.foldl | apply Keeps.foldl1
                               | (fail_if_no_progress apply Keeps.mk))
      | split | (intro _) | dsimp only

theorem execLadleDisable_keeps (l : BitVec 7) (s : State) (h_s : Keeps s0 s) :
    Answers s0 (execLadleDisable l s) := by
  unfold execLadleDisable
  repeat' first
      | (with_reducible first | assumption | apply State.ladleDisable_keeps | apply Answers.next)
      | split | (intro _) | dsimp only

theorem State.ladleClr_keeps (s : State) (l : Nat) (k : Nat) (h_s : Keeps s0 s) :
    Keeps s0 (State.ladleClr s l k) := by
  unfold State.ladleClr
  repeat' first
      | (with_reducible first | assumption | apply State.setLchan_keeps)
      | split | (intro _) | dsimp only

theorem execLadleClr_keeps (l : BitVec 7) (k : BitVec 4) (s : State) (h_s : Keeps s0 s) :
    Answers s0 (execLadleClr l k s) := by
  unfold execLadleClr
  repeat' first
      | (with_reducible first | assumption | apply State.ladleClr_keeps | apply Answers.next)
      | split | (intro _) | dsimp only

theorem execLpTraining_keeps (c : BitVec 5) (passes : List (BitVec 2)) (s : State) (h_s : Keeps s0 s) :
    Answers s0 (execLpTraining c passes s) := by
  unfold execLpTraining
  repeat' first
      | (with_reducible first | assumption | apply State.setLpch_keeps | apply State.health_keeps | apply State.raise_keeps
                               | apply State.stopUnit_keeps | apply Answers.next)
      | split | (intro _) | dsimp only

theorem execLpDriftCheck_keeps (c : BitVec 5) (drift : Bool) (s : State) (h_s : Keeps s0 s) :
    Answers s0 (execLpDriftCheck c drift s) := by
  unfold execLpDriftCheck
  repeat' first
      | (with_reducible first | assumption | apply State.health_keeps | apply State.bump_keeps | apply Answers.next)
      | split | (intro _) | dsimp only

theorem execLpRefresh_keeps (c : BitVec 5) (bank : BitVec 6) (s : State) (h_s : Keeps s0 s) :
    Answers s0 (execLpRefresh c bank s) := by
  unfold execLpRefresh
  repeat' first
      | (with_reducible first | assumption | apply State.setLpch_keeps | apply Answers.next)
      | split | (intro _) | dsimp only

theorem execLpPowerDown_keeps (c : BitVec 5) (park : Bool) (s : State) (h_s : Keeps s0 s) :
    Answers s0 (execLpPowerDown c park s) := by
  unfold execLpPowerDown
  repeat' first
      | (with_reducible first | assumption | apply State.setLpch_keeps | apply State.stopUnit_keeps | apply Answers.next)
      | split | (intro _) | dsimp only

theorem State.dropAsk_keeps (s : State) (l : Nat) (a : LpAsk) (h_s : Keeps s0 s) :
    Keeps s0 (State.dropAsk s l a) := by
  unfold State.dropAsk
  repeat' first
      | (with_reducible first | assumption | apply State.setLadle_keeps | (fail_if_no_progress apply Keeps.mk))
      | split | (intro _) | dsimp only

theorem State.lpLadleRead_keeps (s : State) (l : Nat) (a : LpAsk) (h_s : Keeps s0 s) :
    Keeps s0 (State.lpLadleRead s l a) := by
  unfold State.lpLadleRead
  repeat' first
      | (with_reducible first | assumption | apply State.dropAsk_keeps | apply State.devCheck_keeps | apply State.setLadle_keeps
                               | apply State.enterMesh_keeps)
      | (refine Keeps.pair (o := _) ?_ (by assumption); with_reducible apply State.devCheck_keeps)
      | split | (intro _) | dsimp only

theorem execLpRequest_keeps (c : BitVec 5) (req : LpReq) (s : State) (h_s : Keeps s0 s) :
    Answers s0 (execLpRequest c req s) := by
  unfold execLpRequest
  repeat' first
      | (with_reducible first | assumption | apply State.out_keeps | apply State.holdUnit_keeps | apply State.serveMem_keeps
                               | apply State.lpWake_keeps | apply State.ladleFault_keeps | apply State.dropAsk_keeps
                               | apply State.lpLadleRead_keeps | apply Answers.next)
      | split | (intro _) | dsimp only

theorem execLpScrubRead_keeps (c : BitVec 5) (s : State) (h_s : Keeps s0 s) :
    Answers s0 (execLpScrubRead c s) := by
  unfold execLpScrubRead
  repeat' first
      | (with_reducible first | assumption | apply State.holdUnit_keeps | apply State.lpWake_keeps | apply State.devCheck_keeps
                               | apply State.setLpch_keeps | apply Answers.next)
      | (refine Keeps.pair (o := _) ?_ (by assumption); with_reducible apply State.devCheck_keeps)
      | split | (intro _) | dsimp only

theorem execRefreshMultiplierChange_keeps (c : BitVec 5) (mult : BitVec 8) (temp : BitVec 8) (s : State) (h_s : Keeps s0 s) :
    Answers s0 (execRefreshMultiplierChange c mult temp s) := by
  unfold execRefreshMultiplierChange
  repeat' first
      | (with_reducible first | assumption | apply State.setLpch_keeps | apply State.raise_keeps | apply Answers.next)
      | split | (intro _) | dsimp only

theorem State.setRegion_keeps (s : State) (r : Nat) (x : Region) (h_s : Keeps s0 s) :
    Keeps s0 (State.setRegion s r x) := by
  unfold State.setRegion
  repeat' first
      | (with_reducible first | assumption | (fail_if_no_progress apply Keeps.mk))
      | split | (intro _) | dsimp only

theorem State.kettleBeat_keeps (s : State) (n : Nat) (last : Nat) (h_s : Keeps s0 s) :
    Keeps s0 (State.kettleBeat s n last) := by
  unfold State.kettleBeat
  repeat' first
      | (with_reducible first | assumption | apply State.bump_keeps | apply State.rebalance_keeps | (fail_if_no_progress apply Keeps.mk))
      | split | (intro _) | dsimp only

theorem execHeldStartGrant_keeps (s : State) (h_s : Keeps s0 s) :
    Answers s0 (execHeldStartGrant s) := by
  unfold execHeldStartGrant
  repeat' first
      | (with_reducible first | assumption | apply State.rebalance_keeps | apply Answers.next | (fail_if_no_progress apply Keeps.mk))
      | split | (intro _) | dsimp only

theorem execKettleCapCheck_keeps (avg : BitVec 16) (stage : BitVec 8) (stack : BitVec 8) (vin : BitVec 16) (s : State) (h_s : Keeps s0 s) :
    Answers s0 (execKettleCapCheck avg stage stack vin s) := by
  unfold execKettleCapCheck
  repeat' first
      | (with_reducible first | assumption | apply State.bump_keeps | apply State.raise_keeps | apply State.rise_keeps
                               | apply Answers.next | (fail_if_no_progress apply Keeps.mk))
      | split | (intro _) | dsimp only

theorem State.setPoint_keeps (s : State) (r : Nat) (p : Nat) (h_s : Keeps s0 s) :
    Keeps s0 (State.setPoint s r p) := by
  unfold State.setPoint
  repeat' first
      | (with_reducible first | assumption | apply State.rebalance_keeps | (fail_if_no_progress apply Keeps.mk))
      | split | (intro _) | dsimp only

theorem State.cancelUp_keeps (s : State) (r : Nat) (h_s : Keeps s0 s) :
    Keeps s0 (State.cancelUp s r) := by
  unfold State.cancelUp
  repeat' first
      | (with_reducible first | assumption | apply State.setRegion_keeps | (fail_if_no_progress apply Keeps.mk))
      | split | (intro _) | dsimp only

theorem State.ladder_keeps (s : State) (n : Nat) (h_s : Keeps s0 s) :
    Keeps s0 (State.ladder s n) := by
  unfold State.ladder
  repeat' first
      | (with_reducible first | assumption | apply State.setRegion_keeps | apply State.setPoint_keeps | apply State.bumpF_keeps
                               | apply State.cancelUp_keeps | (fail_if_no_progress apply Keeps.mk))
      | split | (intro _) | dsimp only

theorem execLadderStep_keeps (r : BitVec 7) (slack : Bool) (temp : BitVec 8) (s : State) (h_s : Keeps s0 s) :
    Answers s0 (execLadderStep r slack temp s) := by
  unfold execLadderStep
  repeat' first
      | (with_reducible first | assumption | apply State.ladder_keeps | apply State.setRegion_keeps | apply Answers.next)
      | split | (intro _) | dsimp only

theorem execUpDwellExpiry_keeps (r : BitVec 7) (temp : BitVec 8) (s : State) (h_s : Keeps s0 s) :
    Answers s0 (execUpDwellExpiry r temp s) := by
  unfold execUpDwellExpiry
  repeat' first
      | (with_reducible first | assumption | apply State.setRegion_keeps | apply Answers.next)
      | split | (intro _) | dsimp only

theorem execThermalStep_keeps (r : BitVec 7) (temp : BitVec 8) (s : State) (h_s : Keeps s0 s) :
    Answers s0 (execThermalStep r temp s) := by
  unfold execThermalStep
  repeat' first
      | (with_reducible first | assumption | apply State.setRegion_keeps | apply Answers.next)
      | split | (intro _) | dsimp only

theorem execDroopTrip_keeps (r : BitVec 7) (s : State) (h_s : Keeps s0 s) :
    Answers s0 (execDroopTrip r s) := by
  unfold execDroopTrip
  repeat' first
      | (with_reducible first | assumption | apply State.bump_keeps | apply State.setRegion_keeps | apply Answers.next)
      | split | (intro _) | dsimp only

theorem execDroopClear_keeps (r : BitVec 7) (s : State) (h_s : Keeps s0 s) :
    Answers s0 (execDroopClear r s) := by
  unfold execDroopClear
  repeat' first
      | (with_reducible first | assumption | apply State.setRegion_keeps | apply Answers.next)
      | split | (intro _) | dsimp only

theorem execDroopLong_keeps (r : BitVec 7) (s : State) (h_s : Keeps s0 s) :
    Answers s0 (execDroopLong r s) := by
  unfold execDroopLong
  repeat' first
      | (with_reducible first | assumption | apply State.health_keeps | apply State.setRegion_keeps | apply Answers.next)
      | split | (intro _) | dsimp only

theorem State.setFault_keeps (s : State) (low : Bool) (h_s : Keeps s0 s) :
    Keeps s0 (State.setFault s low) := by
  unfold State.setFault
  repeat' first
      | (with_reducible first | assumption | apply State.out_keeps | (fail_if_no_progress apply Keeps.mk))
      | split | (intro _) | dsimp only

theorem execRefLoss_keeps (s : State) (h_s : Keeps s0 s) :
    Answers s0 (execRefLoss s) := by
  unfold execRefLoss
  repeat' first
      | (with_reducible first | assumption | apply State.setFault_keeps | apply State.setBit_keeps | apply Answers.next
                               | (fail_if_no_progress apply Keeps.mk))
      | split | (intro _) | dsimp only

end Sys2Proof.Machine
end

