-- ==== Sys2Proof/Laws/KeepsLink.lean ====
section
/-!
SUPPORT. Each operation and command of power, time, the ports and the fleet leaves the queue and keeps the memories' canonical form.
-/

set_option linter.all false
set_option Elab.async false

namespace Sys2Proof.Machine

open Sys2Proof

variable (s0 : State)

theorem State.beginBeats_keeps (s : State) (n : Nat) (b : Nat) (last : Nat) (h_s : Keeps s0 s) :
    Keeps s0 (State.beginBeats s n b last) := by
  unfold State.beginBeats
  repeat' first
      | (with_reducible first | assumption | apply State.kettleBeat_keeps | (fail_if_no_progress apply Keeps.mk))
      | split | (intro _) | dsimp only

theorem execBeatBoundary_keeps (last : BitVec 16) (late : List (BitVec 6)) (s : State) (h_s : Keeps s0 s) :
    Answers s0 (execBeatBoundary last late s) := by
  unfold execBeatBoundary
  repeat' first
      | (with_reducible first | assumption | apply State.beginBeats_keeps | apply Answers.next | (fail_if_no_progress apply Keeps.mk))
      | split | (intro _) | dsimp only

theorem State.newOrigin_keeps (s : State) (ns : Nat) (h_s : Keeps s0 s) :
    Keeps s0 (State.newOrigin s ns) := by
  unfold State.newOrigin
  repeat' first
      | (with_reducible first | assumption | (fail_if_no_progress apply Keeps.mk))
      | split | (intro _) | dsimp only

theorem State.setPulse_keeps (s : State) (k : Nat) (p : Pulse) (h_s : Keeps s0 s) :
    Keeps s0 (State.setPulse s k p) := by
  unfold State.setPulse
  repeat' first
      | (with_reducible first | assumption | (fail_if_no_progress apply Keeps.mk))
      | split | (intro _) | dsimp only

theorem State.firePulse_keeps (s : State) (k : Nat) (j : Nat) (late : Nat) (h_s : Keeps s0 s) :
    Keeps s0 (State.firePulse s k j late) := by
  unfold State.firePulse
  repeat' first
      | (with_reducible first | assumption | apply State.setPulse_keeps | apply State.out_keeps | apply State.bumpF_keeps
                               | apply State.setBit_keeps)
      | split | (intro _) | dsimp only

theorem State.endPulse_keeps (s : State) (k : Nat) (h_s : Keeps s0 s) :
    Keeps s0 (State.endPulse s k) := by
  unfold State.endPulse
  repeat' first
      | (with_reducible first | assumption | apply State.setPulse_keeps | apply State.out_keeps | apply State.setFld_keeps)
      | split | (intro _) | dsimp only

theorem State.skipPulses_keeps (s : State) (t : Nat) (h_s : Keeps s0 s) :
    Keeps s0 (State.skipPulses s t) := by
  unfold State.skipPulses
  repeat' first
      | (with_reducible first | assumption | apply State.rise_keeps | apply State.firePulse_keeps | apply Keeps.foldl | apply Keeps.foldl1)
      | split | (intro _) | dsimp only

theorem State.pulseNext_keeps (s : State) (k : Nat) (h_s : Keeps s0 s) :
    OptKeeps s0 (State.pulseNext s k) := by
  unfold State.pulseNext
  repeat' first
      | (with_reducible first | assumption | apply State.endPulse_keeps | apply State.firePulse_keeps | apply OptKeeps.none
                               | apply OptKeeps.some | apply OptKeeps2.none | apply OptKeeps2.some)
      | split | (intro _) | dsimp only

theorem execTimePulse_keeps (k : BitVec 2) (s : State) (h_s : Keeps s0 s) :
    Answers s0 (execTimePulse k s) := by
  unfold execTimePulse
  repeat' first
      | (with_reducible first | assumption | apply State.pulseNext_keeps | apply Answers.next | apply OptKeeps.getD)
      | (refine OptKeeps.of (o := _) ?_ (by assumption); with_reducible apply State.pulseNext_keeps)
      | split | (intro _) | dsimp only

theorem State.runPulse_keeps (s0 : State) (k n : Nat) (s : State) (h_s : Keeps s0 s) : Keeps s0 (State.runPulse k n s) := by
  induction n generalizing s with
  | zero => exact h_s
  | succ n ih =>
    unfold State.runPulse
    split
    · exact ih _ (OptKeeps.of (State.pulseNext_keeps _ _ _ h_s) (by assumption))
    · exact h_s

theorem State.runPulses_keeps (s : State) (h_s : Keeps s0 s) :
    Keeps s0 (State.runPulses s) := by
  unfold State.runPulses
  repeat' first
      | (with_reducible first | assumption | apply State.runPulse_keeps | apply Keeps.foldl | apply Keeps.foldl1)
      | split | (intro _) | dsimp only

theorem State.pulseEnable_keeps (s : State) (k : Nat) (en : Bool) (h_s : Keeps s0 s) :
    Keeps s0 (State.pulseEnable s k en) := by
  unfold State.pulseEnable
  repeat' first
      | (with_reducible first | assumption | apply State.setFld_keeps | apply State.setPulse_keeps | apply State.rise_keeps
                               | apply State.setBit_keeps)
      | split | (intro _) | dsimp only

theorem execTimePulseEnable_keeps (k : BitVec 2) (en : Bool) (s : State) (h_s : Keeps s0 s) :
    Answers s0 (execTimePulseEnable k en s) := by
  unfold execTimePulseEnable
  repeat' first
      | (with_reducible first | assumption | apply State.pulseEnable_keeps | apply Answers.next)
      | split | (intro _) | dsimp only

theorem State.stepTime_keeps (s : State) (theta2 : Int) (h_s : Keeps s0 s) :
    Keeps s0 (State.stepTime s theta2) := by
  unfold State.stepTime
  repeat' first
      | (with_reducible first | assumption | apply State.skipPulses_keeps | apply State.beginBeats_keeps
                               | (fail_if_no_progress apply Keeps.mk))
      | split | (intro _) | dsimp only

theorem State.servo_keeps (s : State) (theta2 : Int) (ival : Nat) (h_s : Keeps s0 s) :
    Keeps s0 (State.servo s theta2 ival) := by
  unfold State.servo
  repeat' first
      | (with_reducible first | assumption | (fail_if_no_progress apply Keeps.mk))
      | split | (intro _) | dsimp only

theorem State.accepted_keeps (s : State) (h_s : Keeps s0 s) :
    Keeps s0 (State.accepted s) := by
  unfold State.accepted
  repeat' first
      | (with_reducible first | assumption | apply State.bump_keeps | (fail_if_no_progress apply Keeps.mk))
      | split | (intro _) | dsimp only

theorem State.measure_keeps (s : State) (theta2 : Int) (depth : Nat) (h_s : Keeps s0 s) :
    Keeps s0 (State.measure s theta2 depth) := by
  unfold State.measure
  repeat' first
      | (with_reducible first | assumption | apply State.setReg_keeps | apply State.accepted_keeps | apply State.stepTime_keeps
                               | apply State.servo_keeps | apply State.raise_keeps | apply State.bump_keeps | apply State.rise_keeps
                               | (fail_if_no_progress apply Keeps.mk))
      | split | (intro _) | dsimp only

theorem State.setNport_keeps (s : State) (n : Nat) (x : NPort) (h_s : Keeps s0 s) :
    Keeps s0 (State.setNport s n x) := by
  unfold State.setNport
  repeat' first
      | (with_reducible first | assumption | (fail_if_no_progress apply Keeps.mk))
      | split | (intro _) | dsimp only

theorem State.modNport_keeps (s : State) (n : Nat) (f : NPort → NPort) (h_s : Keeps s0 s) :
    Keeps s0 (State.modNport s n f) := by
  unfold State.modNport
  repeat' first
      | (with_reducible first | assumption | apply State.setNport_keeps)
      | split | (intro _) | dsimp only

theorem State.dropReq_keeps (s : State) (q : BeaconReq) (h_s : Keeps s0 s) :
    Keeps s0 (State.dropReq s q) := by
  unfold State.dropReq
  repeat' first
      | (with_reducible first | assumption | apply State.bump_keeps | apply State.modNport_keeps | (fail_if_no_progress apply Keeps.mk))
      | split | (intro _) | dsimp only

theorem State.dropReqs_keeps (s : State) (h_s : Keeps s0 s) :
    Keeps s0 (State.dropReqs s) := by
  unfold State.dropReqs
  repeat' first
      | (with_reducible first | assumption | apply State.dropReq_keeps | apply Keeps.foldl | apply Keeps.foldl1)
      | split | (intro _) | dsimp only

theorem State.lostInterval_keeps (s : State) (h_s : Keeps s0 s) : Keeps s0 (State.lostInterval s) := by
  unfold State.lostInterval
  extract_lets n t0 q up2 usable
  have hq : Keeps s0 q := Keeps.mk h_s ..
  clear_value q
  repeat' first
   | with_reducible assumption
   | with_reducible apply State.raise_keeps
   | with_reducible exact State.dropReqs_keeps s0 _ hq
   | (fail_if_no_progress (with_reducible apply Keeps.mk))
   | split
   | (intro _)

theorem execBeaconReq_keeps (s : State) (h_s : Keeps s0 s) :
    Answers s0 (execBeaconReq s) := by
  unfold execBeaconReq
  repeat' first
      | (with_reducible first | assumption | apply State.bump_keeps | apply State.modNport_keeps | apply Answers.next
                               | (fail_if_no_progress apply Keeps.mk))
      | split | (intro _) | dsimp only

theorem execBeaconReqReceive_keeps (n : BitVec 5) (sub : BitVec 8) (s : State) (h_s : Keeps s0 s) :
    Answers s0 (execBeaconReqReceive n sub s) := by
  unfold execBeaconReqReceive
  repeat' first
      | (with_reducible first | assumption | apply State.modNport_keeps | apply Answers.next)
      | split | (intro _) | dsimp only

theorem execBeaconRespReceive_keeps (n : BitVec 5) (sub : BitVec 8) (s : State) (h_s : Keeps s0 s) :
    Answers s0 (execBeaconRespReceive n sub s) := by
  unfold execBeaconRespReceive
  repeat' first
      | (with_reducible first | assumption | apply State.modNport_keeps | apply State.bump_keeps | apply State.lostInterval_keeps
                               | apply State.setReg_keeps | apply State.measure_keeps | apply Answers.next
                               | (fail_if_no_progress apply Keeps.mk))
      | split | (intro _) | dsimp only

theorem execBeaconTimeout_keeps (s : State) (h_s : Keeps s0 s) :
    Answers s0 (execBeaconTimeout s) := by
  unfold execBeaconTimeout
  repeat' first
      | (with_reducible first | assumption | apply State.lostInterval_keeps | apply State.dropReq_keeps | apply Answers.next
                               | apply Keeps.foldl | apply Keeps.foldl1)
      | split | (intro _) | dsimp only

theorem execPpsEdge_keeps (sub : BitVec 8) (s : State) (h_s : Keeps s0 s) :
    Answers s0 (execPpsEdge sub s) := by
  unfold execPpsEdge
  repeat' first
      | (with_reducible first | assumption | apply State.setReg_keeps | apply State.measure_keeps | apply Answers.next)
      | split | (intro _) | dsimp only

theorem execPpsLossInterval_keeps (s : State) (h_s : Keeps s0 s) :
    Answers s0 (execPpsLossInterval s) := by
  unfold execPpsLossInterval
  repeat' first
      | (with_reducible first | assumption | apply State.lostInterval_keeps | apply Answers.next)
      | split | (intro _) | dsimp only

theorem State.ptmAnswer_keeps (s : State) (h : Dword) (t : Nat) (h_s : Keeps s0 s) :
    Keeps s0 (State.ptmAnswer s h t) := by
  unfold State.ptmAnswer
  repeat' first
      | (with_reducible first | assumption | apply State.setReg_keeps | apply State.measure_keeps)
      | split | (intro _) | dsimp only

theorem execPtmDialog_keeps (host : Option Dword) (sub : BitVec 8) (s : State) (h_s : Keeps s0 s) :
    Answers s0 (execPtmDialog host sub s) := by
  unfold execPtmDialog
  repeat' first
      | (with_reducible first | assumption | apply State.lostInterval_keeps | apply State.ptmAnswer_keeps | apply Answers.next
                               | (fail_if_no_progress apply Keeps.mk))
      | split | (intro _) | dsimp only

theorem State.sourceChange_keeps (s : State) (src : Nat) (h_s : Keeps s0 s) :
    Keeps s0 (State.sourceChange s src) := by
  unfold State.sourceChange
  repeat' first
      | (with_reducible first | assumption | apply State.setFld_keeps | apply State.dropReqs_keeps | (fail_if_no_progress apply Keeps.mk))
      | split | (intro _) | dsimp only

theorem execSourceChange_keeps (src : BitVec 2) (s : State) (h_s : Keeps s0 s) :
    Answers s0 (execSourceChange src s) := by
  unfold execSourceChange
  repeat' first
      | (with_reducible first | assumption | apply State.sourceChange_keeps | apply Answers.next)
      | split | (intro _) | dsimp only

theorem execTimeRestep_keeps (s : State) (h_s : Keeps s0 s) :
    Answers s0 (execTimeRestep s) := by
  unfold execTimeRestep
  repeat' first
      | (with_reducible first | assumption | apply Answers.next | (fail_if_no_progress apply Keeps.mk))
      | split | (intro _) | dsimp only

theorem State.snap_keeps (s : State) (h_s : Keeps s0 s) :
    Keeps s0 (State.snap s) := by
  unfold State.snap
  repeat' first
      | (with_reducible first | assumption | apply State.setReg_keeps | apply State.setFld_keeps)
      | split | (intro _) | dsimp only

theorem execSnap_keeps (s : State) (h_s : Keeps s0 s) :
    Answers s0 (execSnap s) := by
  unfold execSnap
  repeat' first
      | (with_reducible first | assumption | apply State.snap_keeps | apply Answers.next)
      | split | (intro _) | dsimp only

theorem State.lcwErr_keeps (s : State) (n : Nat) (h_s : Keeps s0 s) :
    Keeps s0 (State.lcwErr s n) := by
  unfold State.lcwErr
  repeat' first
      | (with_reducible first | assumption | apply State.health_keeps | apply State.bump_keeps)
      | split | (intro _) | dsimp only

theorem State.countReplay_keeps (s : State) (n : Nat) (h_s : Keeps s0 s) :
    Keeps s0 (State.countReplay s n) := by
  unfold State.countReplay
  repeat' first
      | (with_reducible first | assumption | apply State.health_keeps | apply State.bump_keeps)
      | split | (intro _) | dsimp only

theorem State.ackWord_keeps (s : State) (n : Nat) (w : Nat) (h_s : Keeps s0 s) :
    Keeps s0 (State.ackWord s n w) := by
  unfold State.ackWord
  repeat' first
      | (with_reducible first | assumption | apply State.lcwErr_keeps | apply State.setNport_keeps)
      | split | (intro _) | dsimp only

theorem State.nakWord_keeps (s : State) (n : Nat) (w : Nat) (h_s : Keeps s0 s) :
    Keeps s0 (State.nakWord s n w) := by
  unfold State.nakWord
  repeat' first
      | (with_reducible first | assumption | apply State.lcwErr_keeps | apply State.setNport_keeps | apply State.countReplay_keeps)
      | split | (intro _) | dsimp only

theorem State.sendAck_keeps (s : State) (n : Nat) (kind : Nat) (h_s : Keeps s0 s) :
    Keeps s0 (State.sendAck s n kind) := by
  unfold State.sendAck
  repeat' first
      | (with_reducible first | assumption | apply State.setNport_keeps | apply State.modNport_keeps | apply State.ackWord_keeps
                               | apply State.nakWord_keeps | apply State.out_keeps)
      | split | (intro _) | dsimp only

theorem State.sendNak_keeps (s : State) (n : Nat) (h_s : Keeps s0 s) :
    Keeps s0 (State.sendNak s n) := by
  unfold State.sendNak
  repeat' first
      | (with_reducible first | assumption | apply State.sendAck_keeps | apply State.bump_keeps | apply State.setNport_keeps)
      | split | (intro _) | dsimp only

theorem State.freePkt_keeps (s : State) (n : Nat) (p : NPkt) (h_s : Keeps s0 s) :
    Keeps s0 (State.freePkt s n p) := by
  unfold State.freePkt
  repeat' first
      | (with_reducible first | assumption | apply State.modNport_keeps)
      | split | (intro _) | dsimp only

theorem State.restartProbation_keeps (s : State) (n : Nat) (h_s : Keeps s0 s) :
    Keeps s0 (State.restartProbation s n) := by
  unfold State.restartProbation
  repeat' first
      | (with_reducible first | assumption | apply State.modNport_keeps)
      | split | (intro _) | dsimp only

theorem State.unformPlan_keeps (s : State) (n : Nat) (h_s : Keeps s0 s) :
    Keeps s0 (State.unformPlan s n) := by
  unfold State.unformPlan
  repeat' first
      | (with_reducible first | assumption | apply State.modNport_keeps | (fail_if_no_progress apply Keeps.mk))
      | split | (intro _) | dsimp only

theorem State.adopt_keeps (s : State) (b : Nat) (n : Nat) (h_s : Keeps s0 s) :
    Keeps s0 (State.adopt s b n) := by
  unfold State.adopt
  repeat' first
      | (with_reducible first | assumption | apply State.modNport_keeps)
      | split | (intro _) | dsimp only

theorem State.declareDown_keeps (s : State) (n : Nat) (cause : Nat) (next : NSt) (h_s : Keeps s0 s) :
    Keeps s0 (State.declareDown s n cause next) := by
  unfold State.declareDown
  repeat' first
      | (with_reducible first | assumption | apply State.modNport_keeps | apply State.unformPlan_keeps | apply State.raise_keeps
                               | apply State.health_keeps | apply State.bump_keeps | apply State.adopt_keeps)
      | split | (intro _) | dsimp only

theorem State.resumeFailed_keeps (s : State) (n : Nat) (h_s : Keeps s0 s) :
    Keeps s0 (State.resumeFailed s n) := by
  unfold State.resumeFailed
  repeat' first
      | (with_reducible first | assumption | apply State.setNport_keeps | (fail_if_no_progress apply Keeps.mk))
      | split | (intro _) | dsimp only

theorem execPortTraining_keeps (n : BitVec 5) (result : Option Bool) (s : State) (h_s : Keeps s0 s) :
    Answers s0 (execPortTraining n result s) := by
  unfold execPortTraining
  repeat' first
      | (with_reducible first | assumption | apply State.setNport_keeps | apply State.setFld_keeps | apply State.out_keeps
                               | apply State.health_keeps | apply Answers.next)
      | split | (intro _) | dsimp only

theorem State.startTraining_keeps (s : State) (n : Nat) (h_s : Keeps s0 s) :
    Keeps s0 (State.startTraining s n) := by
  unfold State.startTraining
  repeat' first
      | (with_reducible first | assumption | apply State.modNport_keeps)
      | split | (intro _) | dsimp only

theorem execPortRetry_keeps (n : BitVec 5) (s : State) (h_s : Keeps s0 s) :
    Answers s0 (execPortRetry n s) := by
  unfold execPortRetry
  repeat' first
      | (with_reducible first | assumption | apply State.startTraining_keeps | apply Answers.next)
      | split | (intro _) | dsimp only

theorem execRetrain_keeps (n : BitVec 5) (s : State) (h_s : Keeps s0 s) :
    Answers s0 (execRetrain n s) := by
  unfold execRetrain
  repeat' first
      | (with_reducible first | assumption | apply State.startTraining_keeps | apply Answers.next)
      | split | (intro _) | dsimp only

theorem State.lbgCheck_keeps (s : State) (n : Nat) (p : NPkt) (h_s : Keeps s0 s) :
    Keeps s0 (State.lbgCheck s n p) := by
  unfold State.lbgCheck
  repeat' first
      | (with_reducible first | assumption | apply State.bump_keeps | (fail_if_no_progress apply Keeps.mk))
      | split | (intro _) | dsimp only

theorem State.acceptPkt_keeps (s : State) (n : Nat) (p : NPkt) (h_s : Keeps s0 s) :
    Keeps s0 (State.acceptPkt s n p) := by
  unfold State.acceptPkt
  repeat' first
      | (with_reducible first | assumption | apply State.bump_keeps | apply State.setNport_keeps | apply State.freePkt_keeps
                               | apply State.modNport_keeps | apply State.lbgCheck_keeps)
      | split | (intro _) | dsimp only

theorem State.receivePkt_keeps (s : State) (n : Nat) (p : NPkt) (h_s : Keeps s0 s) :
    Keeps s0 (State.receivePkt s n p) := by
  unfold State.receivePkt
  repeat' first
      | (with_reducible first | assumption | apply State.bump_keeps | apply State.setNport_keeps | apply State.acceptPkt_keeps
                               | apply State.sendNak_keeps)
      | split | (intro _) | dsimp only

theorem State.frameErr_keeps (s : State) (n : Nat) (h_s : Keeps s0 s) :
    Keeps s0 (State.frameErr s n) := by
  unfold State.frameErr
  repeat' first
      | (with_reducible first | assumption | apply State.bump_keeps | apply State.modNport_keeps)
      | split | (intro _) | dsimp only

theorem execReplayTimer_keeps (n : BitVec 5) (s : State) (h_s : Keeps s0 s) :
    Answers s0 (execReplayTimer n s) := by
  unfold execReplayTimer
  repeat' first
      | (with_reducible first | assumption | apply State.declareDown_keeps | apply State.setNport_keeps | apply State.countReplay_keeps
                               | apply Answers.next)
      | split | (intro _) | dsimp only

theorem execAckDue_keeps (n : BitVec 5) (s : State) (h_s : Keeps s0 s) :
    Answers s0 (execAckDue n s) := by
  unfold execAckDue
  repeat' first
      | (with_reducible first | assumption | apply State.sendAck_keeps | apply Answers.next)
      | split | (intro _) | dsimp only

theorem execLcwDue_keeps (n : BitVec 5) (s : State) (h_s : Keeps s0 s) :
    Answers s0 (execLcwDue n s) := by
  unfold execLcwDue
  repeat' first
      | (with_reducible first | assumption | apply State.sendAck_keeps | apply Answers.next)
      | split | (intro _) | dsimp only

theorem State.mismatch_keeps (s : State) (n : Nat) (id : Nat) (h_s : Keeps s0 s) :
    Keeps s0 (State.mismatch s n id) := by
  unfold State.mismatch
  repeat' first
      | (with_reducible first | assumption | apply State.raise_keeps | apply State.setBit_keeps)
      | split | (intro _) | dsimp only

theorem State.identWord_keeps (s : State) (n : Nat) (w : Nat) (h_s : Keeps s0 s) :
    Keeps s0 (State.identWord s n w) := by
  unfold State.identWord
  repeat' first
      | (with_reducible first | assumption | apply State.setReg_keeps | apply State.mismatch_keeps)
      | split | (intro _) | dsimp only

theorem State.poolWord_keeps (s : State) (n : Nat) (w : Nat) (h_s : Keeps s0 s) :
    Keeps s0 (State.poolWord s n w) := by
  unfold State.poolWord
  repeat' first
      | (with_reducible first | assumption | apply State.modNport_keeps)
      | split | (intro _) | dsimp only

theorem State.handOver_keeps (s : State) (n : Nat) (b : Nat) (a : Nat) (h_s : Keeps s0 s) :
    Keeps s0 (State.handOver s n b a) := by
  unfold State.handOver
  repeat' first
      | (with_reducible first | assumption | apply State.lcwErr_keeps | apply State.resumeFailed_keeps | apply State.modNport_keeps
                               | apply OptKeeps.getD)
      | split | (intro _) | dsimp only

theorem State.takeover_keeps (s : State) (n : Nat) (w : Nat) (h_s : Keeps s0 s) :
    Keeps s0 (State.takeover s n w) := by
  unfold State.takeover
  repeat' first
      | (with_reducible first | assumption | apply State.declareDown_keeps | apply State.handOver_keeps | apply State.out_keeps
                               | apply State.modNport_keeps)
      | split | (intro _) | dsimp only

theorem execTakeoverSend_keeps (n : BitVec 5) (s : State) (h_s : Keeps s0 s) :
    Answers s0 (execTakeoverSend n s) := by
  unfold execTakeoverSend
  repeat' first
      | (with_reducible first | assumption | apply State.out_keeps | apply State.modNport_keeps | apply Answers.next)
      | split | (intro _) | dsimp only

theorem State.lcwIn_keeps (s : State) (n : Nat) (w : Dword) (h_s : Keeps s0 s) :
    Keeps s0 (State.lcwIn s n w) := by
  unfold State.lcwIn
  repeat' first
      | (with_reducible first | assumption | apply State.modNport_keeps | apply State.ackWord_keeps | apply State.nakWord_keeps
                               | apply State.takeover_keeps | apply State.identWord_keeps | apply State.poolWord_keeps
                               | apply State.lcwErr_keeps | apply State.restartProbation_keeps)
      | split | (intro _) | dsimp only

theorem State.takeWords_keeps (s : State) (n : Nat) (poison : List Nat) (b4 : List Dword) (h_s : Keeps s0 s) :
    Keeps s0 (State.takeWords s n poison b4) := by
  induction b4 generalizing s with
  | nil => exact h_s
  | cons w r ih =>
    unfold State.takeWords
    split
    · exact ih _ (State.lcwIn_keeps s0 _ _ _ h_s)
    · split
      · exact ih _ h_s
      · split
        · exact ih _ (State.frameErr_keeps s0 _ _ h_s)
        · split
          · exact State.receivePkt_keeps s0 _ _ _ h_s
          · have h1 := State.restartProbation_keeps s0 _ n
              (State.health_keeps s0 _ (partPort n) 0 (State.bump_keeps s0 s (nbpCnt n 2) 1 h_s))
            extract_lets s1
            split
            · exact h1
            · exact State.sendNak_keeps s0 _ _ h1

theorem execNovboPacketReceive_keeps (n : BitVec 5) (corr : BitVec 8) (rx : NovboRx) (s : State) (h_s : Keeps s0 s) :
    Answers s0 (execNovboPacketReceive n corr rx s) := by
  unfold execNovboPacketReceive
  repeat' first
      | (with_reducible first | assumption | apply State.out_keeps | apply State.bump_keeps | apply State.frameErr_keeps
                               | apply State.restartProbation_keeps | apply State.health_keeps | apply State.takeWords_keeps
                               | apply Answers.next)
      | split | (intro _) | dsimp only

theorem State.takeLcw_keeps (s : State) (n : Nat) (w : Dword) (kind : Nat) (h_s : Keeps s0 s) :
    Answers s0 (State.takeLcw s n w kind) := by
  unfold State.takeLcw
  repeat' first
      | (with_reducible first | assumption | apply State.out_keeps | apply State.lcwIn_keeps | apply State.frameErr_keeps
                               | apply Answers.next)
      | split | (intro _) | dsimp only

theorem execNovboAck_keeps (n : BitVec 5) (w : Dword) (s : State) (h_s : Keeps s0 s) :
    Answers s0 (execNovboAck n w s) := by
  unfold execNovboAck
  repeat' first
      | (with_reducible first | assumption | apply State.takeLcw_keeps | apply Answers.next)
      | split | (intro _) | dsimp only

theorem execNovboNak_keeps (n : BitVec 5) (w : Dword) (s : State) (h_s : Keeps s0 s) :
    Answers s0 (execNovboNak n w s) := by
  unfold execNovboNak
  repeat' first
      | (with_reducible first | assumption | apply State.takeLcw_keeps | apply Answers.next)
      | split | (intro _) | dsimp only

theorem execTakeover_keeps (n : BitVec 5) (w : Dword) (s : State) (h_s : Keeps s0 s) :
    Answers s0 (execTakeover n w s) := by
  unfold execTakeover
  repeat' first
      | (with_reducible first | assumption | apply State.takeLcw_keeps | apply Answers.next)
      | split | (intro _) | dsimp only

theorem execIdent_keeps (n : BitVec 5) (w : Dword) (s : State) (h_s : Keeps s0 s) :
    Answers s0 (execIdent n w s) := by
  unfold execIdent
  repeat' first
      | (with_reducible first | assumption | apply State.takeLcw_keeps | apply Answers.next)
      | split | (intro _) | dsimp only

theorem execPool_keeps (n : BitVec 5) (w : Dword) (s : State) (h_s : Keeps s0 s) :
    Answers s0 (execPool n w s) := by
  unfold execPool
  repeat' first
      | (with_reducible first | assumption | apply State.takeLcw_keeps | apply Answers.next)
      | split | (intro _) | dsimp only

theorem State.emit_keeps (s : State) (n : Nat) (p : NPkt) (h_s : Keeps s0 s) :
    Keeps s0 (State.emit s n p) := by
  unfold State.emit
  repeat' first
      | (with_reducible first | assumption | apply State.receivePkt_keeps | apply State.out_keeps)
      | split | (intro _) | dsimp only

theorem State.sendNew_keeps (s : State) (n : Nat) (p : NPkt) (h_s : Keeps s0 s) :
    Keeps s0 (State.sendNew s n p) := by
  unfold State.sendNew
  repeat' first
      | (with_reducible first | assumption | apply State.emit_keeps | apply State.bump_keeps | apply State.setNport_keeps)
      | split | (intro _) | dsimp only

theorem State.sendTime_keeps (s : State) (n : Nat) (p : NPkt) (t : Nat) (h_s : Keeps s0 s) :
    Keeps s0 (State.sendTime s n p t) := by
  unfold State.sendTime
  repeat' first
      | (with_reducible first | assumption | apply State.out_keeps | apply State.bump_keeps | (fail_if_no_progress apply Keeps.mk))
      | split | (intro _) | dsimp only

theorem State.lbgSent_keeps (s : State) (n : Nat) (h_s : Keeps s0 s) :
    Keeps s0 (State.lbgSent s n) := by
  unfold State.lbgSent
  repeat' first
      | (with_reducible first | assumption | apply State.bump_keeps | apply State.modNport_keeps | (fail_if_no_progress apply Keeps.mk))
      | split | (intro _) | dsimp only

theorem State.sendCtl_keeps (s : State) (n : Nat) (p : NPkt) (t : Nat) (h_s : Keeps s0 s) :
    Keeps s0 (State.sendCtl s n p t) := by
  unfold State.sendCtl
  repeat' first
      | (with_reducible first | assumption | apply State.modNport_keeps | apply State.sendTime_keeps | apply State.lbgSent_keeps
                               | apply State.sendNew_keeps | (fail_if_no_progress apply Keeps.mk))
      | split | (intro _) | dsimp only

theorem State.sendAgain_keeps (s : State) (n : Nat) (p : NPkt) (h_s : Keeps s0 s) :
    Keeps s0 (State.sendAgain s n p) := by
  unfold State.sendAgain
  repeat' first
      | (with_reducible first | assumption | apply State.out_keeps | apply State.bump_keeps | apply State.setNport_keeps
                               | apply State.sendNew_keeps)
      | split | (intro _) | dsimp only

theorem State.sendPlan_keeps (s : State) (n : Nat) (p : NPkt) (h_s : Keeps s0 s) :
    Keeps s0 (State.sendPlan s n p) := by
  unfold State.sendPlan
  repeat' first
      | (with_reducible first | assumption | apply State.sendNew_keeps | apply State.setNport_keeps | apply State.endPacketLeft_keeps)
      | split | (intro _) | dsimp only

theorem State.planStall_keeps (s : State) (n : Nat) (h_s : Keeps s0 s) :
    Keeps s0 (State.planStall s n) := by
  unfold State.planStall
  repeat' first
      | (with_reducible first | assumption | apply State.bump_keeps)
      | split | (intro _) | dsimp only

theorem execTransmitSlot_keeps (n : BitVec 5) (sub : BitVec 8) (s : State) (h_s : Keeps s0 s) :
    Answers s0 (execTransmitSlot n sub s) := by
  unfold execTransmitSlot
  repeat' first
      | (with_reducible first | assumption | apply State.emit_keeps | apply State.bump_keeps | apply State.setNport_keeps
                               | apply State.sendAgain_keeps | apply State.planStall_keeps | apply State.modNport_keeps
                               | apply State.sendCtl_keeps | apply State.sendPlan_keeps | apply Answers.next)
      | split | (intro _) | dsimp only

theorem execLockLoss_keeps (n : BitVec 5) (lane : BitVec 2) (s : State) (h_s : Keeps s0 s) :
    Answers s0 (execLockLoss n lane s) := by
  unfold execLockLoss
  repeat' first
      | (with_reducible first | assumption | apply State.setNport_keeps | apply Answers.next)
      | split | (intro _) | dsimp only

theorem execLockRegained_keeps (n : BitVec 5) (lane : BitVec 2) (s : State) (h_s : Keeps s0 s) :
    Answers s0 (execLockRegained n lane s) := by
  unfold execLockRegained
  repeat' first
      | (with_reducible first | assumption | apply State.setNport_keeps | apply Answers.next)
      | split | (intro _) | dsimp only

theorem execPortDown_keeps (n : BitVec 5) (s : State) (h_s : Keeps s0 s) :
    Answers s0 (execPortDown n s) := by
  unfold execPortDown
  repeat' first
      | (with_reducible first | assumption | apply State.declareDown_keeps | apply Answers.next)
      | split | (intro _) | dsimp only

theorem State.portEnable_keeps (s : State) (n : Nat) (en : Bool) (h_s : Keeps s0 s) :
    Keeps s0 (State.portEnable s n en) := by
  unfold State.portEnable
  repeat' first
      | (with_reducible first | assumption | apply State.setFld_keeps | apply State.modNport_keeps | apply State.declareDown_keeps)
      | split | (intro _) | dsimp only

theorem execPortEnableWrite_keeps (n : BitVec 5) (en : Bool) (s : State) (h_s : Keeps s0 s) :
    Answers s0 (execPortEnableWrite n en s) := by
  unfold execPortEnableWrite
  repeat' first
      | (with_reducible first | assumption | apply State.portEnable_keeps | apply Answers.next)
      | split | (intro _) | dsimp only

theorem State.portLoop_keeps (s : State) (n : Nat) (depth : Nat) (h_s : Keeps s0 s) :
    Keeps s0 (State.portLoop s n depth) := by
  unfold State.portLoop
  repeat' first
      | (with_reducible first | assumption | apply State.setFld_keeps | apply State.modNport_keeps | apply State.declareDown_keeps)
      | split | (intro _) | dsimp only

theorem execLoopWrite_keeps (n : BitVec 5) (depth : BitVec 3) (s : State) (h_s : Keeps s0 s) :
    Answers s0 (execLoopWrite n depth s) := by
  unfold execLoopWrite
  repeat' first
      | (with_reducible first | assumption | apply State.portLoop_keeps | apply Answers.next)
      | split | (intro _) | dsimp only

theorem execProbationEnd_keeps (n : BitVec 5) (s : State) (h_s : Keeps s0 s) :
    Answers s0 (execProbationEnd n s) := by
  unfold execProbationEnd
  repeat' first
      | (with_reducible first | assumption | apply State.setNport_keeps | apply State.resumeFailed_keeps | apply State.adopt_keeps
                               | apply Answers.next)
      | split | (intro _) | dsimp only

theorem execHandback_keeps (n : BitVec 5) (s : State) (h_s : Keeps s0 s) :
    Answers s0 (execHandback n s) := by
  unfold execHandback
  repeat' first
      | (with_reducible first | assumption | apply State.setNport_keeps | apply Answers.next)
      | split | (intro _) | dsimp only

theorem execOpticsPoll_keeps (n : BitVec 5) (present : Bool) (alarm : Bool) (temp : BitVec 8) (rx : BitVec 16) (s : State) (h_s : Keeps s0
    s) :
    Answers s0 (execOpticsPoll n present alarm temp rx s) := by
  unfold execOpticsPoll
  repeat' first
      | (with_reducible first | assumption | apply State.setReg_keeps | apply State.out_keeps | apply Answers.next)
      | split | (intro _) | dsimp only

theorem State.writeOptics_keeps (s : State) (n : Nat) (v : Word) (h_s : Keeps s0 s) :
    Keeps s0 (State.writeOptics s n v) := by
  unfold State.writeOptics
  repeat' first
      | (with_reducible first | assumption | apply State.setReg_keeps)
      | split | (intro _) | dsimp only

theorem State.opticsAnswer_keeps (s : State) (n : Nat) (b : Option (BitVec 8)) (h_s : Keeps s0 s) :
    Keeps s0 (State.opticsAnswer s n b) := by
  unfold State.opticsAnswer
  repeat' first
      | (with_reducible first | assumption | apply State.out_keeps | apply State.setReg_keeps)
      | split | (intro _) | dsimp only

theorem execOpticsAccess_keeps (n : BitVec 5) (x : OpticsStep) (s : State) (h_s : Keeps s0 s) :
    Answers s0 (execOpticsAccess n x s) := by
  unfold execOpticsAccess
  repeat' first
      | (with_reducible first | assumption | apply State.writeOptics_keeps | apply State.opticsAnswer_keeps | apply Answers.next)
      | split | (intro _) | dsimp only

theorem State.setRankWord_keeps (s : State) (b : Nat) (i : Nat) (w : Word) (h_s : Keeps s0 s) :
    Keeps s0 (State.setRankWord s b i w) := by
  unfold State.setRankWord
  repeat' first
      | (with_reducible first | assumption | (fail_if_no_progress apply Keeps.mk))
      | split | (intro _) | dsimp only

theorem State.noteRankUse_keeps (s : State) (e : Nat) (h_s : Keeps s0 s) :
    Keeps s0 (State.noteRankUse s e) := by
  unfold State.noteRankUse
  repeat' first
      | (with_reducible first | assumption | (fail_if_no_progress apply Keeps.mk))
      | split | (intro _) | dsimp only

theorem State.drainRanks_keeps (s : State) (b : Nat) (h_s : Keeps s0 s) :
    Keeps s0 (State.drainRanks s b) := by
  unfold State.drainRanks
  repeat' first
      | (with_reducible first | assumption | (fail_if_no_progress apply Keeps.mk))
      | split | (intro _) | dsimp only

theorem execDrainIntervalExpiry_keeps (site : DrainSite) (s : State) (h_s : Keeps s0 s) :
    Answers s0 (execDrainIntervalExpiry site s) := by
  unfold execDrainIntervalExpiry
  repeat' first
      | (with_reducible first | assumption | apply State.drainRouter_keeps | apply State.drainRanks_keeps | apply Answers.next)
      | split | (intro _) | dsimp only

theorem State.writeFltEpoch_keeps (s : State) (v : Nat) (h_s : Keeps s0 s) :
    Keeps s0 (State.writeFltEpoch s v) := by
  unfold State.writeFltEpoch
  repeat' first
      | (with_reducible first | assumption | apply Keeps.foldl | apply Keeps.foldl1 | (fail_if_no_progress apply Keeps.mk))
      | split | (intro _) | dsimp only

theorem State.rankAccess_keeps (s : State) (requester : Nat) (value : Option Word) (be : optParam (BitVec 4) 15) (h_s : Keeps s0 s) :
    Keeps s0 (State.rankAccess s requester value be) := by
  unfold State.rankAccess
  repeat' first
      | (with_reducible first | assumption | apply State.setRankWord_keeps | apply State.out_keeps | apply State.setFld_keeps)
      | split | (intro _) | dsimp only

theorem State.queueCtl_keeps (s : State) (n : Nat) (p : NPkt) (h_s : Keeps s0 s) :
    Keeps s0 (State.queueCtl s n p) := by
  unfold State.queueCtl
  repeat' first
      | (with_reducible first | assumption | apply State.modNport_keeps)
      | split | (intro _) | dsimp only

theorem State.countDropped_keeps (s : State) (h_s : Keeps s0 s) :
    Keeps s0 (State.countDropped s) := by
  unfold State.countDropped
  repeat' first
      | (with_reducible first | assumption | apply State.bump_keeps)
      | split | (intro _) | dsimp only

theorem State.sendRank_keeps (s : State) (cls : Nat) (r : Nat) (job : Nat) (flow : Nat) (off : Nat) (data : List (FlitWord × Bool)) (h_s :
    Keeps s0 s) :
    Keeps s0 (State.sendRank s cls r job flow off data) := by
  unfold State.sendRank
  repeat' first
      | (with_reducible first | assumption | apply State.countDropped_keeps | apply State.noteRankUse_keeps | apply State.queueCtl_keeps)
      | split | (intro _) | dsimp only

theorem State.relay_keeps (s : State) (p : NPkt) (h_s : Keeps s0 s) :
    Keeps s0 (State.relay s p) := by
  unfold State.relay
  repeat' first
      | (with_reducible first | assumption | apply State.countDropped_keeps | apply State.bump_keeps | apply State.noteRankUse_keeps
                               | apply State.queueCtl_keeps)
      | split | (intro _) | dsimp only

theorem State.portHalt_keeps (s : State) (n : Nat) (ingress : Bool) (flow : Nat) (h_s : Keeps s0 s) :
    Keeps s0 (State.portHalt s n ingress flow) := by
  unfold State.portHalt
  repeat' first
      | (with_reducible first | assumption | apply State.setReg_keeps | apply State.raise_keeps | apply State.modNport_keeps)
      | split | (intro _) | dsimp only

theorem State.dropEgress_keeps (s : State) (src : Nat) (pk : Packet) (h_s : Keeps s0 s) :
    Keeps s0 (State.dropEgress s src pk) := by
  unfold State.dropEgress
  repeat' first
      | (with_reducible first | assumption | apply State.endPacketLeft_keeps | (fail_if_no_progress apply Keeps.mk))
      | split | (intro _) | dsimp only

theorem State.discardEgress_keeps (s : State) (src : Nat) (h_s : Keeps s0 s) :
    Keeps s0 (State.discardEgress s src) := by
  unfold State.discardEgress
  repeat' first
      | (with_reducible first | assumption | (fail_if_no_progress apply Keeps.mk))
      | split | (intro _) | dsimp only

theorem execEgressPlan_keeps (n : BitVec 5) (src : BitVec 5) (s : State) (h_s : Keeps s0 s) :
    Answers s0 (execEgressPlan n src s) := by
  unfold execEgressPlan
  repeat' first
      | (with_reducible first | assumption | apply State.discardEgress_keeps | apply State.portHalt_keeps
                               | apply State.dropEgress_keeps | apply State.bump_keeps | apply State.noteRankUse_keeps
                               | apply State.setNport_keeps | apply Answers.next)
      | split | (intro _) | dsimp only

theorem State.injectIngress_keeps (s : State) (n : Nat) (e : IngressEntry) (p : NPkt) (h_s : Keeps s0 s) :
    Keeps s0 (State.injectIngress s n e p) := by
  unfold State.injectIngress
  repeat' first
      | (with_reducible first | assumption | apply State.enterMesh_keeps | apply State.freePkt_keeps)
      | split | (intro _) | dsimp only

theorem execIngressPlan_keeps (n : BitVec 5) (s : State) (h_s : Keeps s0 s) :
    Answers s0 (execIngressPlan n s) := by
  unfold execIngressPlan
  repeat' first
      | (with_reducible first | assumption | apply State.freePkt_keeps | apply State.portHalt_keeps | apply State.injectIngress_keeps
                               | apply Answers.next | apply OptKeeps.getD)
      | split | (intro _) | dsimp only

theorem State.portHaltClear_keeps (s : State) (n : Nat) (h_s : Keeps s0 s) :
    Keeps s0 (State.portHaltClear s n) := by
  unfold State.portHaltClear
  repeat' first
      | (with_reducible first | assumption | apply State.freePkt_keeps | apply State.modNport_keeps | apply State.setReg_keeps
                               | apply Keeps.foldl | apply Keeps.foldl1 | (fail_if_no_progress apply Keeps.mk))
      | split | (intro _) | dsimp only

theorem execPortHaltClear_keeps (n : BitVec 5) (s : State) (h_s : Keeps s0 s) :
    Answers s0 (execPortHaltClear n s) := by
  unfold execPortHaltClear
  repeat' first
      | (with_reducible first | assumption | apply State.portHaltClear_keeps | apply Answers.next)
      | split | (intro _) | dsimp only

theorem execSyncMgmtBulkIngress_keeps (n : BitVec 5) (s : State) (h_s : Keeps s0 s) :
    Answers s0 (execSyncMgmtBulkIngress n s) := by
  unfold execSyncMgmtBulkIngress
  repeat' first
      | (with_reducible first | assumption | apply State.freePkt_keeps | apply State.countDropped_keeps | apply State.relay_keeps
                               | apply Answers.next | (fail_if_no_progress apply Keeps.mk))
      | split | (intro _) | dsimp only

theorem execHandbackMarkerReceive_keeps (n : BitVec 5) (s : State) (h_s : Keeps s0 s) :
    Answers s0 (execHandbackMarkerReceive n s) := by
  unfold execHandbackMarkerReceive
  repeat' first
      | (with_reducible first | assumption | apply State.modNport_keeps | apply State.freePkt_keeps | apply Answers.next)
      | split | (intro _) | dsimp only

theorem State.setJob_keeps (s : State) (st : JobSt) (reason : Nat) (orank : Nat) (h_s : Keeps s0 s) :
    Keeps s0 (State.setJob s st reason orank) := by
  unfold State.setJob
  repeat' first
      | (with_reducible first | assumption | apply State.setFld_keeps | apply State.raise_keeps | (fail_if_no_progress apply Keeps.mk))
      | split | (intro _) | dsimp only

theorem State.clearJob_keeps (s : State) (h_s : Keeps s0 s) :
    Keeps s0 (State.clearJob s) := by
  unfold State.clearJob
  repeat' first
      | (with_reducible first | assumption | apply State.setReg_keeps | (fail_if_no_progress apply Keeps.mk))
      | split | (intro _) | dsimp only

theorem State.sendSync_keeps (s : State) (tos : List Nat) (m : SyncMsg) (h_s : Keeps s0 s) :
    Keeps s0 (State.sendSync s tos m) := by
  unfold State.sendSync
  repeat' first
      | (with_reducible first | assumption | apply State.sendRank_keeps | apply Keeps.foldl | apply Keeps.foldl1)
      | split | (intro _) | dsimp only

theorem State.countDup_keeps (s : State) (h_s : Keeps s0 s) :
    Keeps s0 (State.countDup s) := by
  unfold State.countDup
  repeat' first
      | (with_reducible first | assumption | apply State.bump_keeps)
      | split | (intro _) | dsimp only

theorem State.takeSync_keeps (s : State) (op : Nat) (h_s : Keeps s0 s) :
    OptKeeps2 s0 (State.takeSync s op) := by
  unfold State.takeSync
  repeat' first
      | (with_reducible first | assumption | apply OptKeeps.none | apply OptKeeps.some | apply OptKeeps2.none | apply OptKeeps2.some
                               | (fail_if_no_progress apply Keeps.mk))
      | split | (intro _) | dsimp only

theorem State.completeStart_keeps (s : State) (status : Nat) (result : Nat) (h_s : Keeps s0 s) :
    Keeps s0 (State.completeStart s status result) := by
  unfold State.completeStart
  repeat' first
      | (with_reducible first | assumption | apply State.complete_keeps)
      | split | (intro _) | dsimp only

theorem State.abortJob_keeps (s : State) (reason : Nat) (orank : Nat) (tell : Bool) (h_s : Keeps s0 s) :
    Keeps s0 (State.abortJob s reason orank tell) := by
  unfold State.abortJob
  repeat' first
      | (with_reducible first | assumption | apply State.sendSync_keeps | apply State.completeStart_keeps | apply State.setJob_keeps)
      | split | (intro _) | dsimp only

theorem State.commitJob_keeps (s : State) (h_s : Keeps s0 s) :
    Keeps s0 (State.commitJob s) := by
  unfold State.commitJob
  repeat' first
      | (with_reducible first | assumption | apply State.sendSync_keeps | apply State.completeStart_keeps | apply State.setJob_keeps)
      | split | (intro _) | dsimp only

theorem execPrepare_keeps (s : State) (h_s : Keeps s0 s) :
    Answers s0 (execPrepare s) := by
  unfold execPrepare
  repeat' first
      | (with_reducible first | assumption | apply State.takeSync_keeps | apply State.countDup_keeps | apply State.setJob_keeps
                               | apply State.sendSync_keeps | apply Answers.next | (fail_if_no_progress apply Keeps.mk))
      | (refine OptKeeps2.of (o := _) ?_ (by assumption); with_reducible apply State.takeSync_keeps)
      | split | (intro _) | dsimp only

theorem execStartAck_keeps (s : State) (h_s : Keeps s0 s) :
    Answers s0 (execStartAck s) := by
  unfold execStartAck
  repeat' first
      | (with_reducible first | assumption | apply State.takeSync_keeps | apply State.countDup_keeps | apply State.commitJob_keeps
                               | apply State.abortJob_keeps | apply State.setJob_keeps | apply State.sendSync_keeps
                               | apply Answers.next | (fail_if_no_progress apply Keeps.mk))
      | (refine OptKeeps2.of (o := _) ?_ (by assumption); with_reducible apply State.takeSync_keeps)
      | split | (intro _) | dsimp only

theorem execStartNack_keeps (s : State) (h_s : Keeps s0 s) :
    Answers s0 (execStartNack s) := by
  unfold execStartNack
  repeat' first
      | (with_reducible first | assumption | apply State.takeSync_keeps | apply State.countDup_keeps | apply State.abortJob_keeps
                               | apply State.setJob_keeps | apply State.sendSync_keeps | apply Answers.next)
      | (refine OptKeeps2.of (o := _) ?_ (by assumption); with_reducible apply State.takeSync_keeps)
      | split | (intro _) | dsimp only

theorem execCommit_keeps (s : State) (h_s : Keeps s0 s) :
    Answers s0 (execCommit s) := by
  unfold execCommit
  repeat' first
      | (with_reducible first | assumption | apply State.takeSync_keeps | apply State.countDup_keeps | apply State.abortJob_keeps
                               | apply State.commitJob_keeps | apply Answers.next)
      | (refine OptKeeps2.of (o := _) ?_ (by assumption); with_reducible apply State.takeSync_keeps)
      | split | (intro _) | dsimp only

theorem execAbort_keeps (s : State) (h_s : Keeps s0 s) :
    Answers s0 (execAbort s) := by
  unfold execAbort
  repeat' first
      | (with_reducible first | assumption | apply State.takeSync_keeps | apply State.countDup_keeps | apply State.abortJob_keeps
                               | apply Answers.next)
      | (refine OptKeeps2.of (o := _) ?_ (by assumption); with_reducible apply State.takeSync_keeps)
      | split | (intro _) | dsimp only

theorem execNoAck_keeps (s : State) (h_s : Keeps s0 s) :
    Answers s0 (execNoAck s) := by
  unfold execNoAck
  repeat' first
      | (with_reducible first | assumption | apply State.abortJob_keeps | apply Answers.next)
      | split | (intro _) | dsimp only

theorem execAbortedNoCommit_keeps (s : State) (h_s : Keeps s0 s) :
    Answers s0 (execAbortedNoCommit s) := by
  unfold execAbortedNoCommit
  repeat' first
      | (with_reducible first | assumption | apply State.abortJob_keeps | apply Answers.next)
      | split | (intro _) | dsimp only

theorem State.postAction_keeps (s : State) (accepted : Nat) (a : Action) (h_s : Keeps s0 s) :
    Keeps s0 (State.postAction s accepted a) := by
  unfold State.postAction
  repeat' first
      | (with_reducible first | assumption | apply State.raise_keeps | apply State.bumpF_keeps | apply State.complete_keeps
                               | (fail_if_no_progress apply Keeps.mk))
      | split | (intro _) | dsimp only

theorem State.takeAction_keeps (s : State) (kind : Nat) (f : Action → State → State) (h_s : Keeps s0 s) (h_f : ∀ (y1 : Action) (y2 :
    State), Keeps s0 (y2) → Keeps s0 (f y1 y2)) :
    Answers s0 (State.takeAction s kind f) := by
  unfold State.takeAction
  repeat' first
      | (with_reducible first | assumption | apply h_f | apply State.complete_keeps | apply Answers.next
                               | (fail_if_no_progress apply Keeps.mk))
      | split | (intro _) | dsimp only

theorem State.switchEpoch_keeps (s : State) (a : Action) (h_s : Keeps s0 s) :
    Keeps s0 (State.switchEpoch s a) := by
  unfold State.switchEpoch
  repeat' first
      | (with_reducible first | assumption | apply State.modCluster_keeps | apply Keeps.foldl | apply Keeps.foldl1
                               | (fail_if_no_progress apply Keeps.mk))
      | split | (intro _) | dsimp only

theorem execEpochSwitch_keeps (s : State) (h_s : Keeps s0 s) :
    Answers s0 (execEpochSwitch s) := by
  unfold execEpochSwitch
  repeat' first
      | (with_reducible first | assumption | apply State.takeAction_keeps | apply State.switchEpoch_keeps | apply Answers.next)
      | split | (intro _) | dsimp only

theorem State.recallPlan_keeps (s : State) (h_s : Keeps s0 s) :
    Keeps s0 (State.recallPlan s) := by
  unfold State.recallPlan
  repeat' first
      | (with_reducible first | assumption | apply State.unformPlan_keeps | apply Keeps.foldl | apply Keeps.foldl1)
      | split | (intro _) | dsimp only

theorem State.markRank_keeps (s : State) (r : Nat) (fenced : Bool) (h_s : Keeps s0 s) :
    Keeps s0 (State.markRank s r fenced) := by
  unfold State.markRank
  repeat' first
      | (with_reducible first | assumption | apply State.setRankWord_keeps | apply Keeps.foldl | apply Keeps.foldl1)
      | split | (intro _) | dsimp only

theorem State.dropQueued_keeps (s : State) (r : Nat) (h_s : Keeps s0 s) :
    Keeps s0 (State.dropQueued s r) := by
  unfold State.dropQueued
  repeat' first
      | (with_reducible first | assumption | apply State.bump_keeps | apply State.modNport_keeps | apply Keeps.foldl | apply Keeps.foldl1)
      | split | (intro _) | dsimp only

theorem execFenceRank_keeps (s : State) (h_s : Keeps s0 s) :
    Answers s0 (execFenceRank s) := by
  unfold execFenceRank
  repeat' first
      | (with_reducible first | assumption | apply State.takeAction_keeps | apply State.dropQueued_keeps | apply State.markRank_keeps
                               | apply State.recallPlan_keeps | apply State.setJob_keeps | apply Answers.next)
      | split | (intro _) | dsimp only

theorem execUnfenceRank_keeps (s : State) (h_s : Keeps s0 s) :
    Answers s0 (execUnfenceRank s) := by
  unfold execUnfenceRank
  repeat' first
      | (with_reducible first | assumption | apply State.takeAction_keeps | apply State.markRank_keeps | apply State.setJob_keeps
                               | apply Answers.next)
      | split | (intro _) | dsimp only

theorem execJobEnd_keeps (s : State) (h_s : Keeps s0 s) :
    Answers s0 (execJobEnd s) := by
  unfold execJobEnd
  repeat' first
      | (with_reducible first | assumption | apply State.takeAction_keeps | apply State.clearJob_keeps | apply Answers.next)
      | split | (intro _) | dsimp only

end Sys2Proof.Machine
end

