-- ==== Sys2Proof/Laws/KeepsHost.lean ====
section
/-!
SUPPORT. Each operation and command of the host interface and its commands leaves the queue and keeps the memories' canonical form.
-/

set_option linter.all false
set_option Elab.async false

namespace Sys2Proof.Machine

open Sys2Proof

variable (s0 : State)

theorem State.runCmd_keeps (s : State) (seq : Dword) (opcode : Nat) (f : Cmd → State) (h_s : Keeps s0 s) (h_f : ∀ (y1 : Cmd), Keeps s0 (f
    y1)) :
    Answers s0 (State.runCmd s seq opcode f) := by
  unfold State.runCmd
  repeat' first
      | (with_reducible first | assumption | apply h_f | apply Answers.next)
      | split | (intro _) | dsimp only

theorem State.setSq_keeps (s : State) (b : Nat) (x : SqState) (h_s : Keeps s0 s) :
    Keeps s0 (State.setSq s b x) := by
  unfold State.setSq
  repeat' first
      | (with_reducible first | assumption | (fail_if_no_progress apply Keeps.mk))
      | split | (intro _) | dsimp only

theorem State.logUnsupported_keeps (s : State) (r : LoggedReq) (h_s : Keeps s0 s) :
    Keeps s0 (State.logUnsupported s r) := by
  unfold State.logUnsupported
  repeat' first
      | (with_reducible first | assumption | (fail_if_no_progress apply Keeps.mk))
      | split | (intro _) | dsimp only

theorem State.hostWrites_keeps (s : State) (o : Nat) (f : State) (h_s : Keeps s0 s) (h_f : Keeps s0 (f)) :
    Keeps s0 (State.hostWrites s o f) := by
  unfold State.hostWrites
  repeat' first
      | (with_reducible first | assumption | apply State.logUnsupported_keeps)
      | split | (intro _) | dsimp only

theorem State.doorbellError_keeps (s : State) (h_s : Keeps s0 s) :
    Keeps s0 (State.doorbellError s) := by
  unfold State.doorbellError
  repeat' first
      | (with_reducible first | assumption | apply State.setBit_keeps)
      | split | (intro _) | dsimp only

theorem execSubmissionDoorbell_keeps (b : BitVec 6) (value : Word) (s : State) (h_s : Keeps s0 s) :
    Answers s0 (execSubmissionDoorbell b value s) := by
  unfold execSubmissionDoorbell
  repeat' first
      | (with_reducible first | assumption | apply State.hostWrites_keeps | apply State.doorbellError_keeps | apply State.setSq_keeps
                               | apply Answers.next)
      | split | (intro _) | dsimp only

theorem execCompletionDoorbell_keeps (value : Word) (s : State) (h_s : Keeps s0 s) :
    Answers s0 (execCompletionDoorbell value s) := by
  unfold execCompletionDoorbell
  repeat' first
      | (with_reducible first | assumption | apply State.hostWrites_keeps | apply State.doorbellError_keeps | apply Answers.next
                               | (fail_if_no_progress apply Keeps.mk))
      | split | (intro _) | dsimp only

theorem execEventDoorbell_keeps (value : Word) (s : State) (h_s : Keeps s0 s) :
    Answers s0 (execEventDoorbell value s) := by
  unfold execEventDoorbell
  repeat' first
      | (with_reducible first | assumption | apply State.hostWrites_keeps | apply State.doorbellError_keeps | apply Answers.next
                               | (fail_if_no_progress apply Keeps.mk))
      | split | (intro _) | dsimp only

theorem State.writeRing_keeps (s : State) (ring : Nat) (v : Nat) (h_s : Keeps s0 s) :
    Keeps s0 (State.writeRing s ring v) := by
  unfold State.writeRing
  repeat' first
      | (with_reducible first | assumption | apply State.setReg_keeps | apply State.setSq_keeps | (fail_if_no_progress apply Keeps.mk))
      | split | (intro _) | dsimp only

theorem execRingEnableWrite_keeps (ring : BitVec 7) (value : Word) (s : State) (h_s : Keeps s0 s) :
    Answers s0 (execRingEnableWrite ring value s) := by
  unfold execRingEnableWrite
  repeat' first
      | (with_reducible first | assumption | apply State.writeRing_keeps | apply Answers.next)
      | split | (intro _) | dsimp only

theorem State.accept_keeps (s : State) (ring : Nat) (dseq : Nat) (desc : List Byte) (readErr : Bool) (h_s : Keeps s0 s) :
    Keeps s0 (State.accept s ring dseq desc readErr) := by
  unfold State.accept
  repeat' first
      | (with_reducible first | assumption | apply State.journalWrite_keeps | apply State.complete_keeps
                               | (fail_if_no_progress apply Keeps.mk))
      | split | (intro _) | dsimp only

theorem State.acceptNth_keeps (s : State) (n : Nat) (ring : Nat) (dseq : Nat) (desc : List Byte) (readErr : Bool) (mirrorFail : Option
    Nat) (h_s : Keeps s0 s) :
    Keeps s0 (State.acceptNth s n ring dseq desc readErr mirrorFail) := by
  unfold State.acceptNth
  repeat' first
      | (with_reducible first | assumption | apply State.accept_keeps | apply State.mirrorFault_keeps)
      | split | (intro _) | dsimp only

theorem State.roundPass_keeps (s : State) (order : List Nat) (n : Nat) (readErr : List Nat) (mirrorFail : Option Nat) (h_s : Keeps s0 s) :
    Keeps s0 (State.roundPass s order n readErr mirrorFail).1 := by
  unfold State.roundPass
  repeat' first
      | (with_reducible first | assumption | apply State.setSq_keeps | apply State.acceptNth_keeps | apply Keeps.foldl
                               | apply Keeps.foldl1 | (fail_if_no_progress apply Keeps.mk))
      | split | (intro _) | dsimp only

theorem State.roundPasses_keeps (s0 : State) (order readErr : List Nat) (mirrorFail : Option Nat) (n : Nat) (a : State × Nat)
    (h_a : Keeps s0 a.1) : Keeps s0 (State.roundPasses order readErr mirrorFail n a).1 := by
  induction n generalizing a with
  | zero => exact h_a
  | succ n ih =>
    unfold State.roundPasses
    dsimp only
    split
    · exact State.roundPass_keeps _ _ _ _ _ _ h_a
    · exact ih _ (State.roundPass_keeps _ _ _ _ _ _ h_a)

theorem State.postFleet_keeps (s : State) (seq : Nat) (h_s : Keeps s0 s) :
    Keeps s0 (State.postFleet s seq) := by
  unfold State.postFleet
  repeat' first
      | (with_reducible first | assumption | apply State.postAction_keeps | apply State.started_keeps)
      | split | (intro _) | dsimp only

theorem State.roundOrders_keeps (s : State) (mirrorFail : Option Nat) (h_s : Keeps s0 s) :
    Keeps s0 (State.roundOrders s mirrorFail).1 := by
  unfold State.roundOrders
  repeat' first
      | (with_reducible first | assumption | apply State.postFleet_keeps | apply State.acceptNth_keeps | apply Keeps.foldl
                               | apply Keeps.foldl1 | (fail_if_no_progress apply Keeps.mk))
      | split | (intro _) | dsimp only

theorem execAcceptanceRound_keeps (readErr : List (BitVec 8)) (mirrorFail : Option (BitVec 8)) (s : State) (h_s : Keeps s0 s) :
    Answers s0 (execAcceptanceRound readErr mirrorFail s) := by
  unfold execAcceptanceRound
  repeat' first
      | (with_reducible first | assumption | apply State.roundOrders_keeps | apply State.roundPasses_keeps | apply Answers.next
                               | (fail_if_no_progress apply Keeps.mk))
      | (refine Keeps.pair (o := _) ?_ (by assumption); with_reducible apply State.roundOrders_keeps)
      | (refine Keeps.pair (o := _) ?_ (by assumption); with_reducible apply State.roundPasses_keeps)
      | split | (intro _) | dsimp only

theorem execCompletionWrite_keeps (s : State) (h_s : Keeps s0 s) :
    Answers s0 (execCompletionWrite s) := by
  unfold execCompletionWrite
  repeat' first
      | (with_reducible first | assumption | apply State.hostWrite_keeps | apply Answers.next | (fail_if_no_progress apply Keeps.mk))
      | split | (intro _) | dsimp only

theorem State.forwardEvents_keeps (s : State) (h_s : Keeps s0 s) :
    Keeps s0 (State.forwardEvents s) := by
  unfold State.forwardEvents
  repeat' first
      | (with_reducible first | assumption | apply State.sendRank_keeps | apply Keeps.foldl | apply Keeps.foldl1
                               | (fail_if_no_progress apply Keeps.mk))
      | split | (intro _) | dsimp only

theorem execEventWrite_keeps (st : State) (h_st : Keeps s0 (st)) :
    Answers s0 (execEventWrite st) := by
  unfold execEventWrite
  repeat' first
      | (with_reducible first | assumption | apply State.forwardEvents_keeps | apply State.hostWrite_keeps | apply Answers.next
                               | (fail_if_no_progress apply Keeps.mk))
      | split | (intro _) | dsimp only

theorem execForwardedEventReceive_keeps (s : State) (h_s : Keeps s0 s) :
    Answers s0 (execForwardedEventReceive s) := by
  unfold execForwardedEventReceive
  repeat' first
      | (with_reducible first | assumption | apply State.queueEvent_keeps | apply Answers.next | (fail_if_no_progress apply Keeps.mk))
      | split | (intro _) | dsimp only

theorem State.sendVector_keeps (s : State) (v : Nat) (h_s : Keeps s0 s) :
    Keeps s0 (State.sendVector s v) := by
  unfold State.sendVector
  repeat' first
      | (with_reducible first | assumption | apply State.out_keeps | (fail_if_no_progress apply Keeps.mk))
      | split | (intro _) | dsimp only

theorem execMsixMessage_keeps (vector : BitVec 11) (s : State) (h_s : Keeps s0 s) :
    Answers s0 (execMsixMessage vector s) := by
  unfold execMsixMessage
  repeat' first
      | (with_reducible first | assumption | apply State.out_keeps | apply State.sendVector_keeps | apply Answers.next
                               | (fail_if_no_progress apply Keeps.mk))
      | split | (intro _) | dsimp only

theorem execMctpOrder_keeps (desc : List Byte) (s : State) (h_s : Keeps s0 s) :
    Answers s0 (execMctpOrder desc s) := by
  unfold execMctpOrder
  repeat' first
      | (with_reducible first | assumption | apply Answers.next | (fail_if_no_progress apply Keeps.mk))
      | split | (intro _) | dsimp only

theorem execSyncAction_keeps (s : State) (h_s : Keeps s0 s) :
    Answers s0 (execSyncAction s) := by
  unfold execSyncAction
  split
  · exact Answers.next h_s
  · rename_i m c s1 e
    have h1 : Keeps s0 s1 := OptKeeps2.of (a := (m, c)) (State.takeSync_keeps s0 s 6 h_s) e
    extract_lets once q1 q2 s2
    split
    · exact Answers.next (State.countDup_keeps s0 _ h1)
    · have h2 : Keeps s0 s2 := Keeps.mk h1 ..
      clear_value s2
      split
      · exact Answers.next (State.sendSync_keeps s0 _ _ _ h2)
      · exact Answers.next h2

theorem execNop_keeps (seq : Dword) (s : State) (h_s : Keeps s0 s) :
    Answers s0 (execNop seq s) := by
  unfold execNop
  repeat' first
      | (with_reducible first | assumption | apply State.runCmd_keeps | apply State.complete_keeps | apply Answers.next)
      | split | (intro _) | dsimp only

theorem State.withLp_keeps (s : State) (cs : List Nat) (f : State → State) (h_s : Keeps s0 s) (h_f : ∀ (y1 : State), Keeps s0 (y1) → Keeps
    s0 (f y1)) :
    Keeps s0 (State.withLp s cs f) := by
  unfold State.withLp
  repeat' first
      | (with_reducible first | assumption | apply h_f | apply State.holdUnit_keeps | apply State.lpWake_keeps | apply Keeps.foldl
                               | apply Keeps.foldl1)
      | split | (intro _) | dsimp only

theorem State.devReady_keeps (s : State) (a : Nat) (n : Nat) (h_s : Keeps s0 s) :
    Keeps s0 (State.devReady s a n) := by
  unfold State.devReady
  repeat' first
      | (with_reducible first | assumption | apply State.lpWake_keeps | apply State.holdUnit_keeps | apply State.awaitBanks_keeps
                               | apply Keeps.foldl | apply Keeps.foldl1)
      | split | (intro _) | dsimp only

theorem State.ermCheck_keeps (s : State) (a : Nat) (n : Nat) (h_s : Keeps s0 s) :
    Keeps s0 (State.ermCheck s a n).1 := by
  unfold State.ermCheck
  repeat' first
      | (with_reducible first | assumption | apply State.devCheck_keeps | apply State.devReady_keeps)
      | (refine Keeps.pair (o := _) ?_ (by assumption); with_reducible apply State.devCheck_keeps)
      | split | (intro _) | dsimp only

theorem State.ermStore_keeps (s : State) (a : Nat) (bs : List Byte) (h_s : Keeps s0 s) :
    Keeps s0 (State.ermStore s a bs) := by
  unfold State.ermStore
  repeat' first
      | (with_reducible first | assumption | apply State.devStore_keeps | apply State.devReady_keeps)
      | split | (intro _) | dsimp only

theorem State.copyPoison_keeps (s : State) (src : Nat) (dst : Nat) (cws : List Nat) (h_s : Keeps s0 s) :
    Keeps s0 (State.copyPoison s src dst cws) := by
  unfold State.copyPoison
  repeat' first
      | (with_reducible first | assumption | apply State.markCw_keeps | apply Keeps.foldl | apply Keeps.foldl1)
      | split | (intro _) | dsimp only

theorem execCopy_keeps (seq : Dword) (s : State) (h_s : Keeps s0 s) :
    Answers s0 (execCopy seq s) := by
  unfold execCopy
  repeat' first
      | (with_reducible first | assumption | apply State.runCmd_keeps | apply State.complete_keeps | apply State.ladleStart_keeps
                               | apply State.started_keeps | apply Answers.next | apply Keeps.foldl | apply Keeps.foldl1)
      | (refine Keeps.pair (o := _) ?_ (by assumption); with_reducible apply State.ladleStart_keeps)
      | split | (intro _) | dsimp only

theorem State.commitTile_keeps (s : State) (t : Nat) (h_s : Keeps s0 s) :
    Keeps s0 (State.commitTile s t) := by
  unfold State.commitTile
  repeat' first
      | (with_reducible first | assumption | apply State.bump_keeps | apply State.modTile_keeps)
      | split | (intro _) | dsimp only

theorem State.patchShadow_keeps (s : State) (g : Segment) (x : Patch) (h_s : Keeps s0 s) :
    Keeps s0 (State.patchShadow s g x) := by
  unfold State.patchShadow
  repeat' first
      | (with_reducible first | assumption | apply State.modCluster_keeps | apply State.bump_keeps | apply State.modTile_keeps
                               | apply Keeps.foldl | apply Keeps.foldl1)
      | split | (intro _) | dsimp only

theorem State.patch_keeps (s : State) (g : Segment) (xs : List Patch) (h_s : Keeps s0 s) :
    Keeps s0 (State.patch s g xs) := by
  unfold State.patch
  repeat' first
      | (with_reducible first | assumption | apply State.patchShadow_keeps | apply State.commitTile_keeps
                               | apply State.modCluster_keeps | apply Keeps.foldl | apply Keeps.foldl1)
      | split | (intro _) | dsimp only

theorem State.giveBase_keeps (s : State) (g : Segment) (base : Nat) (h_s : Keeps s0 s) :
    Keeps s0 (State.giveBase s g base) := by
  unfold State.giveBase
  repeat' first
      | (with_reducible first | assumption | apply State.modCluster_keeps | apply Keeps.foldl | apply Keeps.foldl1)
      | split | (intro _) | dsimp only

theorem State.release_keeps (s : State) (g : Segment) (n : Nat) (base : Nat) (period : Nat) (cmd : Option Nat) (h_s : Keeps s0 s) :
    Keeps s0 (State.release s g n base period cmd) := by
  unfold State.release
  repeat' first
      | (with_reducible first | assumption | apply State.giveBase_keeps | (fail_if_no_progress apply Keeps.mk))
      | split | (intro _) | dsimp only

theorem execReplay_keeps (seq : Dword) (hostErr : Bool) (s : State) (h_s : Keeps s0 s) :
    Answers s0 (execReplay seq hostErr s) := by
  unfold execReplay
  repeat' first
      | (with_reducible first | assumption | apply State.runCmd_keeps | apply State.complete_keeps | apply State.started_keeps
                               | apply State.release_keeps | apply State.patch_keeps | apply Answers.next)
      | split | (intro _) | dsimp only

theorem State.storeSetup_keeps (s : State) (r : List Byte) (h_s : Keeps s0 s) :
    Keeps s0 (State.storeSetup s r) := by
  unfold State.storeSetup
  repeat' first
      | (with_reducible first | assumption | apply State.setReg_keeps | apply State.newOrigin_keeps | apply State.setJob_keeps
                               | (fail_if_no_progress apply Keeps.mk))
      | split | (intro _) | dsimp only

theorem execJobSetup_keeps (seq : Dword) (hostErr : Bool) (s : State) (h_s : Keeps s0 s) :
    Answers s0 (execJobSetup seq hostErr s) := by
  unfold execJobSetup
  repeat' first
      | (with_reducible first | assumption | apply State.runCmd_keeps | apply State.complete_keeps | apply State.storeSetup_keeps
                               | apply Answers.next)
      | split | (intro _) | dsimp only

theorem execStartJob_keeps (seq : Dword) (s : State) (h_s : Keeps s0 s) :
    Answers s0 (execStartJob seq s) := by
  unfold execStartJob
  repeat' first
      | (with_reducible first | assumption | apply State.runCmd_keeps | apply State.complete_keeps | apply State.started_keeps
                               | apply State.abortJob_keeps | apply State.commitJob_keeps | apply State.sendSync_keeps
                               | apply State.setJob_keeps | apply Answers.next | (fail_if_no_progress apply Keeps.mk))
      | split | (intro _) | dsimp only

theorem execJobClear_keeps (seq : Dword) (s : State) (h_s : Keeps s0 s) :
    Answers s0 (execJobClear seq s) := by
  unfold execJobClear
  repeat' first
      | (with_reducible first | assumption | apply State.runCmd_keeps | apply State.complete_keeps | apply State.clearJob_keeps
                               | apply Answers.next)
      | split | (intro _) | dsimp only

theorem execJobRun_keeps (s : State) (h_s : Keeps s0 s) :
    Answers s0 (execJobRun s) := by
  unfold execJobRun
  repeat' first
      | (with_reducible first | assumption | apply State.setJob_keeps | apply State.release_keeps | apply Answers.next)
      | split | (intro _) | dsimp only

theorem execAction_keeps (seq : Dword) (s : State) (h_s : Keeps s0 s) :
    Answers s0 (execAction seq s) := by
  unfold execAction
  repeat' first
      | (with_reducible first | assumption | apply State.runCmd_keeps | apply State.postAction_keeps | apply State.started_keeps
                               | apply State.sendSync_keeps | apply Answers.next)
      | split | (intro _) | dsimp only

theorem execFenceTile_keeps (seq : Dword) (s : State) (h_s : Keeps s0 s) :
    Answers s0 (execFenceTile seq s) := by
  unfold execFenceTile
  repeat' first
      | (with_reducible first | assumption | apply State.runCmd_keeps | apply State.complete_keeps | apply State.started_keeps
                               | apply Answers.next | (fail_if_no_progress apply Keeps.mk))
      | split | (intro _) | dsimp only

theorem execReinstateTile_keeps (seq : Dword) (s : State) (h_s : Keeps s0 s) :
    Answers s0 (execReinstateTile seq s) := by
  unfold execReinstateTile
  repeat' first
      | (with_reducible first | assumption | apply State.runCmd_keeps | apply State.complete_keeps | apply State.setRouter_keeps
                               | apply State.started_keeps | apply Answers.next | (fail_if_no_progress apply Keeps.mk))
      | split | (intro _) | dsimp only

theorem execPowerCap_keeps (seq : Dword) (s : State) (h_s : Keeps s0 s) :
    Answers s0 (execPowerCap seq s) := by
  unfold execPowerCap
  repeat' first
      | (with_reducible first | assumption | apply State.runCmd_keeps | apply State.complete_keeps | apply State.setReg_keeps
                               | apply Answers.next)
      | split | (intro _) | dsimp only

theorem State.dropSegment_keeps (s : State) (g : Segment) (h_s : Keeps s0 s) :
    Keeps s0 (State.dropSegment s g) := by
  unfold State.dropSegment
  repeat' first
      | (with_reducible first | assumption | apply State.modTile_keeps | apply State.startNext_keeps | apply Keeps.foldl
                               | apply Keeps.foldl1 | (fail_if_no_progress apply Keeps.mk))
      | split | (intro _) | dsimp only

theorem State.loadTile_keeps (s : State) (i : Image) (r : TileRec) (h_s : Keeps s0 s) :
    Keeps s0 (State.loadTile s i r) := by
  unfold State.loadTile
  repeat' first
      | (with_reducible first | assumption | apply State.tmStore_keeps | apply State.modTile_keeps | apply OptKeeps.getD
                               | apply Keeps.foldl | apply Keeps.foldl1)
      | split | (intro _) | dsimp only

theorem State.placeSides_keeps (s : State) (i : Image) (g : Segment) (h_s : Keeps s0 s) :
    Keeps s0 (State.placeSides s i g) := by
  unfold State.placeSides
  repeat' first
      | (with_reducible first | assumption | apply State.devStore_keeps | apply State.awaitBanks_keeps | apply Keeps.foldl
                               | apply Keeps.foldl1)
      | split | (intro _) | dsimp only

theorem State.loadSegment_keeps (s : State) (i : Image) (h_s : Keeps s0 s) :
    Keeps s0 (State.loadSegment s i) := by
  unfold State.loadSegment
  repeat' first
      | (with_reducible first | assumption | apply State.dropSegment_keeps | apply State.loadTile_keeps | apply State.modCluster_keeps
                               | apply State.placeSides_keeps | apply Keeps.foldl | apply Keeps.foldl1
                               | (fail_if_no_progress apply Keeps.mk))
      | split | (intro _) | dsimp only

theorem execSegLoad_keeps (seq : Dword) (hostErr : Bool) (s : State) (h_s : Keeps s0 s) :
    Answers s0 (execSegLoad seq hostErr s) := by
  unfold execSegLoad
  repeat' first
      | (with_reducible first | assumption | apply State.runCmd_keeps | apply State.complete_keeps | apply State.loadSegment_keeps
                               | apply Answers.next)
      | split | (intro _) | dsimp only

theorem execSegUnload_keeps (seq : Dword) (s : State) (h_s : Keeps s0 s) :
    Answers s0 (execSegUnload seq s) := by
  unfold execSegUnload
  repeat' first
      | (with_reducible first | assumption | apply State.runCmd_keeps | apply State.complete_keeps | apply State.dropSegment_keeps
                               | apply Answers.next)
      | split | (intro _) | dsimp only

theorem State.setReq_keeps (s : State) (h : Nat) (q : Req) (h_s : Keeps s0 s) :
    Keeps s0 (State.setReq s h q) := by
  unfold State.setReq
  repeat' first
      | (with_reducible first | assumption | (fail_if_no_progress apply Keeps.mk))
      | split | (intro _) | dsimp only

theorem State.modReq_keeps (s : State) (h : Nat) (f : Req → Req) (h_s : Keeps s0 s) :
    Keeps s0 (State.modReq s h f) := by
  unfold State.modReq
  repeat' first
      | (with_reducible first | assumption | apply State.setReq_keeps)
      | split | (intro _) | dsimp only

theorem State.setSlot_keeps (s : State) (m : Nat) (x : ModelSlot) (h_s : Keeps s0 s) :
    Keeps s0 (State.setSlot s m x) := by
  unfold State.setSlot
  repeat' first
      | (with_reducible first | assumption | (fail_if_no_progress apply Keeps.mk))
      | split | (intro _) | dsimp only

theorem State.modServing_keeps (s : State) (m : Nat) (f : Serving → Serving) (h_s : Keeps s0 s) :
    Keeps s0 (State.modServing s m f) := by
  unfold State.modServing
  repeat' first
      | (with_reducible first | assumption | apply State.setServing_keeps)
      | split | (intro _) | dsimp only

theorem State.noteRing_keeps (s : State) (h : Nat) (h_s : Keeps s0 s) :
    Keeps s0 (State.noteRing s h) := by
  unfold State.noteRing
  repeat' first
      | (with_reducible first | assumption | apply State.bump_keeps)
      | split | (intro _) | dsimp only

theorem State.hostLater_keeps (s : State) (a : Nat) (bs : List Byte) (h_s : Keeps s0 s) :
    Keeps s0 (State.hostLater s a bs) := by
  unfold State.hostLater
  repeat' first
      | (with_reducible first | assumption | (fail_if_no_progress apply Keeps.mk))
      | split | (intro _) | dsimp only

theorem State.ringWrite_keeps (s : State) (h : Nat) (token : Nat) (pos : Nat) (flags : Nat) (h_s : Keeps s0 s) :
    Keeps s0 (State.ringWrite s h token pos flags) := by
  unfold State.ringWrite
  repeat' first
      | (with_reducible first | assumption | apply State.hostLater_keeps | apply State.bump_keeps | apply State.modReq_keeps
                               | (fail_if_no_progress apply Keeps.mk))
      | split | (intro _) | dsimp only

theorem State.writePt_keeps (s : State) (m : Nat) (i : Nat) (g : PageGroup) (e : Nat) (h_s : Keeps s0 s) :
    Keeps s0 (State.writePt s m i g e) := by
  unfold State.writePt
  repeat' first
      | (with_reducible first | assumption | apply State.ermStore_keeps)
      | split | (intro _) | dsimp only

theorem State.giveGroup_keeps (s : State) (h : Nat) (i : Nat) (h_s : Keeps s0 s) :
    OptKeeps s0 (State.giveGroup s h i) := by
  unfold State.giveGroup
  repeat' first
      | (with_reducible first | assumption | apply State.writePt_keeps | apply State.setReq_keeps | apply OptKeeps.none
                               | apply OptKeeps.some | apply OptKeeps2.none | apply OptKeeps2.some)
      | split | (intro _) | dsimp only

theorem State.giveGroups_keeps (s0 s : State) (h i n : Nat) (h_s : Keeps s0 s) : Keeps s0 (s.giveGroups h i n).1 := by
  induction n generalizing s i with
  | zero => exact h_s
  | succ n ih =>
    unfold State.giveGroups
    split
    · exact h_s
    · exact ih _ _ (OptKeeps.of (State.giveGroup_keeps _ _ _ _ h_s) (by assumption))

theorem State.freeGroups_keeps (s : State) (h : Nat) (which : Nat → Bool) (h_s : Keeps s0 s) :
    Keeps s0 (State.freeGroups s h which) := by
  unfold State.freeGroups
  repeat' first
      | (with_reducible first | assumption | apply State.writePt_keeps | apply State.setReq_keeps | apply Keeps.foldl | apply Keeps.foldl1)
      | split | (intro _) | dsimp only

theorem State.putToken_keeps (s : State) (h : Nat) (pos : Nat) (token : Nat) (h_s : Keeps s0 s) :
    Keeps s0 (State.putToken s h pos token) := by
  unfold State.putToken
  repeat' first
      | (with_reducible first | assumption | apply State.ermStore_keeps)
      | split | (intro _) | dsimp only

theorem State.getToken_keeps (s : State) (h : Nat) (pos : Nat) (h_s : Keeps s0 s) :
    Keeps s0 (State.getToken s h pos).1 := by
  unfold State.getToken
  repeat' first
      | (with_reducible first | assumption | apply State.ermCheck_keeps | (fail_if_no_progress apply Keeps.mk))
      | (refine Keeps.pair (o := _) ?_ (by assumption); with_reducible apply State.ermCheck_keeps)
      | split | (intro _) | dsimp only

theorem State.getTokens_keeps (s : State) (h : Nat) (ps : List Nat) (h_s : Keeps s0 s) :
    Keeps s0 (State.getTokens s h ps).1 := by
  unfold State.getTokens
  repeat' first
      | (with_reducible first | assumption | apply State.getToken_keeps | apply Keeps.foldl | apply Keeps.foldl1)
      | (refine Keeps.pair (o := _) ?_ (by assumption); with_reducible apply State.getToken_keeps)
      | split | (intro _) | dsimp only

theorem State.readGroup_keeps (s : State) (m : Nat) (g : PageGroup) (h_s : Keeps s0 s) :
    Keeps s0 (State.readGroup s m g).1 := by
  unfold State.readGroup
  repeat' first
      | (with_reducible first | assumption | apply State.ermCheck_keeps | apply Keeps.foldl | apply Keeps.foldl1
                               | (fail_if_no_progress apply Keeps.mk))
      | (refine Keeps.pair (o := _) ?_ (by assumption); with_reducible apply State.ermCheck_keeps)
      | split | (intro _) | dsimp only

theorem State.writeGroup_keeps (s : State) (m : Nat) (g : PageGroup) (bs : List Byte) (h_s : Keeps s0 s) :
    Keeps s0 (State.writeGroup s m g bs) := by
  unfold State.writeGroup
  repeat' first
      | (with_reducible first | assumption | apply State.ermStore_keeps | apply Keeps.foldl | apply Keeps.foldl1)
      | split | (intro _) | dsimp only

theorem State.copyGroup_keeps (s : State) (m : Nat) (g : PageGroup) (h_s : Keeps s0 s) :
    Keeps s0 (State.copyGroup s m g) := by
  unfold State.copyGroup
  repeat' first
      | (with_reducible first | assumption | apply State.ermCheck_keeps | apply State.copyPoison_keeps | apply State.ermStore_keeps
                               | apply OptKeeps.getD | apply Keeps.foldl | apply Keeps.foldl1)
      | (refine Keeps.pair (o := _) ?_ (by assumption); with_reducible apply State.ermCheck_keeps)
      | split | (intro _) | dsimp only

theorem State.countsOf_keeps (s : State) (h : Nat) (h_s : Keeps s0 s) :
    Keeps s0 (State.countsOf s h).1 := by
  unfold State.countsOf
  repeat' first
      | (with_reducible first | assumption | apply State.ermCheck_keeps | (fail_if_no_progress apply Keeps.mk))
      | (refine Keeps.pair (o := _) ?_ (by assumption); with_reducible apply State.ermCheck_keeps)
      | split | (intro _) | dsimp only

theorem State.setCounts_keeps (s : State) (h : Nat) (cs : List (Nat × Nat)) (h_s : Keeps s0 s) :
    Keeps s0 (State.setCounts s h cs) := by
  unfold State.setCounts
  repeat' first
      | (with_reducible first | assumption | apply State.modReq_keeps | apply State.ermStore_keeps)
      | split | (intro _) | dsimp only

theorem State.countToken_keeps (s : State) (h : Nat) (pos : Nat) (token : Nat) (h_s : Keeps s0 s) :
    Keeps s0 (State.countToken s h pos token) := by
  unfold State.countToken
  repeat' first
      | (with_reducible first | assumption | apply State.countsOf_keeps | apply State.ermStore_keeps | apply State.modReq_keeps
                               | apply State.setReq_keeps | apply State.raise_keeps)
      | (refine Keeps.pair (o := _) ?_ (by assumption); with_reducible apply State.countsOf_keeps)
      | split | (intro _) | dsimp only

theorem State.dequeue_keeps (s : State) (m : Nat) (h : Nat) (r : Nat) (h_s : Keeps s0 s) :
    Keeps s0 (State.dequeue s m h r) := by
  unfold State.dequeue
  repeat' first
      | (with_reducible first | assumption | apply State.modServing_keeps)
      | split | (intro _) | dsimp only

theorem State.joinQueue_keeps (s : State) (m : Nat) (h : Nat) (r : Nat) (h_s : Keeps s0 s) :
    Keeps s0 (State.joinQueue s m h r) := by
  unfold State.joinQueue
  repeat' first
      | (with_reducible first | assumption | apply State.bump_keeps | apply State.modServing_keeps)
      | split | (intro _) | dsimp only

theorem State.pauseReq_keeps (s : State) (h : Nat) (r : Nat) (h_s : Keeps s0 s) :
    Keeps s0 (State.pauseReq s h r) := by
  unfold State.pauseReq
  repeat' first
      | (with_reducible first | assumption | apply State.joinQueue_keeps | apply State.setReq_keeps | apply State.raise_keeps)
      | split | (intro _) | dsimp only

theorem State.clearReason_keeps (s : State) (h : Nat) (r : Nat) (h_s : Keeps s0 s) :
    Keeps s0 (State.clearReason s h r) := by
  unfold State.clearReason
  repeat' first
      | (with_reducible first | assumption | apply State.dequeue_keeps | apply State.setReq_keeps | apply State.raise_keeps)
      | split | (intro _) | dsimp only

theorem State.unqueue_keeps (s : State) (h : Nat) (h_s : Keeps s0 s) :
    Keeps s0 (State.unqueue s h) := by
  unfold State.unqueue
  repeat' first
      | (with_reducible first | assumption | apply State.modServing_keeps)
      | split | (intro _) | dsimp only

theorem State.freeReq_keeps (s : State) (h : Nat) (h_s : Keeps s0 s) :
    Keeps s0 (State.freeReq s h) := by
  unfold State.freeReq
  repeat' first
      | (with_reducible first | assumption | apply State.setReq_keeps | apply State.freeGroups_keeps | apply State.unqueue_keeps
                               | (fail_if_no_progress apply Keeps.mk))
      | split | (intro _) | dsimp only

theorem State.freeGone_keeps (s : State) (m : Nat) (h_s : Keeps s0 s) :
    Keeps s0 (State.freeGone s m) := by
  unfold State.freeGone
  repeat' first
      | (with_reducible first | assumption | (fail_if_no_progress apply Keeps.mk))
      | split | (intro _) | dsimp only

theorem State.endReq_keeps (s : State) (h : Nat) (reason : Nat) (final : Bool) (h_s : Keeps s0 s) :
    Keeps s0 (State.endReq s h reason final) := by
  unfold State.endReq
  repeat' first
      | (with_reducible first | assumption | apply State.raise_keeps | apply State.setReq_keeps | apply State.unqueue_keeps
                               | apply State.freeReq_keeps)
      | split | (intro _) | dsimp only

theorem State.commitToken_keeps (s : State) (h : Nat) (token : Nat) (h_s : Keeps s0 s) :
    Keeps s0 (State.commitToken s h token) := by
  unfold State.commitToken
  repeat' first
      | (with_reducible first | assumption | apply State.countToken_keeps | apply State.putToken_keeps | apply State.setReq_keeps
                               | apply State.ringWrite_keeps | apply State.endReq_keeps | apply OptKeeps.getD)
      | split | (intro _) | dsimp only

theorem State.applyPolicy_keeps (s : State) (h : Nat) (h_s : Keeps s0 s) :
    Keeps s0 (State.applyPolicy s h) := by
  unfold State.applyPolicy
  repeat' first
      | (with_reducible first | assumption | apply State.pauseReq_keeps | apply State.endReq_keeps | apply State.ringWrite_keeps)
      | split | (intro _) | dsimp only

theorem State.failToken_keeps (s : State) (h : Nat) (h_s : Keeps s0 s) :
    Keeps s0 (State.failToken s h) := by
  unfold State.failToken
  repeat' first
      | (with_reducible first | assumption | apply State.endReq_keeps | apply State.ringWrite_keeps)
      | split | (intro _) | dsimp only

theorem State.sampleOut_keeps (s : State) (m : Nat) (h : Nat) (step : Nat) (logits : List Word) (h_s : Keeps s0 s) :
    Keeps s0 (State.sampleOut s m h step logits) := by
  unfold State.sampleOut
  repeat' first
      | (with_reducible first | assumption | apply State.pauseReq_keeps | apply State.setReq_keeps | apply State.hostLater_keeps)
      | split | (intro _) | dsimp only

theorem State.sieveFault_keeps (s : State) (reason : Nat) (handle : Nat) (h_s : Keeps s0 s) :
    Keeps s0 (State.sieveFault s reason handle) := by
  unfold State.sieveFault
  repeat' first
      | (with_reducible first | assumption | apply State.raise_keeps | apply State.bump_keeps | apply State.setReg_keeps
                               | apply State.setBit_keeps)
      | split | (intro _) | dsimp only

theorem State.returnRow_keeps (s : State) (m : Nat) (h : Nat) (r : Option Nat) (h_s : Keeps s0 s) :
    Keeps s0 (State.returnRow s m h r) := by
  unfold State.returnRow
  repeat' first
      | (with_reducible first | assumption | apply State.modServing_keeps)
      | split | (intro _) | dsimp only

theorem State.dropPart_keeps (s : State) (h_s : Keeps s0 s) :
    Keeps s0 (State.dropPart s) := by
  unfold State.dropPart
  repeat' first
      | (with_reducible first | assumption | apply State.returnRow_keeps | apply State.sieveFault_keeps
                               | (fail_if_no_progress apply Keeps.mk))
      | split | (intro _) | dsimp only

theorem State.takeSlice_keeps (s : State) (c : Slice) (n : Nat) (h_s : Keeps s0 s) :
    Keeps s0 (State.takeSlice s c n) := by
  unfold State.takeSlice
  repeat' first
      | (with_reducible first | assumption | apply State.dropPart_keeps | apply State.returnRow_keeps | apply State.sieveFault_keeps
                               | (fail_if_no_progress apply Keeps.mk))
      | split | (intro _) | dsimp only

theorem execSieveSlice_keeps (s : State) (h_s : Keeps s0 s) :
    Answers s0 (execSieveSlice s) := by
  unfold execSieveSlice
  repeat' first
      | (with_reducible first | assumption | apply State.bump_keeps | apply State.takeSlice_keeps | apply State.endPacketLeft_keeps
                               | apply Answers.next | (fail_if_no_progress apply Keeps.mk))
      | split | (intro _) | dsimp only

theorem execSieveDraw_keeps (s : State) (h_s : Keeps s0 s) : Answers s0 (execSieveDraw s) := by
  unfold execSieveDraw
  split
  · exact Answers.next h_s
  · rename_i r rest _
    split
    · exact Answers.next h_s
    · extract_lets q c t v0 v1 q1 q2
      have hc : Keeps s0 c.1 := State.countsOf_keeps s0 s r.handle h_s
      have h1 : Keeps s0 q1 := Keeps.mk hc ..
      clear_value q1 t
      refine Answers.next (State.returnRow_keeps _ _ _ _ _ ?_)
      unfold q2
      split <;> exact State.bump_keeps _ _ _ _ h1

end Sys2Proof.Machine
end

