-- ==== Sys2Proof/Laws/KeepsServe.lean ====
section
/-!
SUPPORT. Each operation and command of serving and models leaves the queue and keeps the memories' canonical form.
-/

set_option linter.all false
set_option Elab.async false

namespace Sys2Proof.Machine

open Sys2Proof

variable (s0 : State)

theorem State.formNext_keeps (s : State) (l : List Member) (h : Nat) (h_s : Keeps s0 s) : Keeps s0 (State.formNext s l h).1 := by
  show Keeps1 s0 _
  unfold State.formNext
  extract_lets q
  clear_value q
  split
  · exact Keeps1.mk (State.pauseReq_keeps _ _ _ _ h_s) _
  · split
    · exact Keeps1.mk (State.pauseReq_keeps _ _ _ _ h_s) _
    · have h1 := OptKeeps.of (State.giveGroup_keeps _ _ _ _ h_s) (by assumption)
      split
      · exact Keeps1.mk h1 _
      · extract_lets p left t0 t1
        split
        · exact Keeps1.mk h_s _
        · exact Keeps1.mk (State.giveGroups_keeps _ _ _ _ _ h1) _

theorem State.formOne_keeps (a : State × List Member) (h : Nat) (h_a : Keeps s0 a.1) : Keeps s0 (State.formOne a h).1 := by
  show Keeps1 s0 _
  unfold State.formOne
  split
  · exact h_a
  · exact State.formNext_keeps _ _ _ _ (State.noteRing_keeps _ _ _ h_a)

theorem State.recheckHeld_keeps (s : State) (m : Nat) (h_s : Keeps s0 s) :
    Keeps s0 (State.recheckHeld s m) := by
  unfold State.recheckHeld
  repeat' first
      | (with_reducible first | assumption | apply State.noteRing_keeps | apply State.clearReason_keeps | apply State.giveGroup_keeps
                               | apply Keeps.foldl | apply Keeps.foldl1)
      | (refine OptKeeps.of (o := _) ?_ (by assumption); with_reducible apply State.giveGroup_keeps)
      | split | (intro _) | dsimp only

theorem State.trim_keeps (s0 : State) (n : Nat) (a : State × List Member × Bool) (h_a : Keeps s0 a.1) : Keeps s0 (State.trim n a).1 := by
  induction n generalizing a with
  | zero => exact h_a
  | succ n ih =>
    unfold State.trim
    split
    · exact h_a
    · split
      · refine ih _ ?_
        dsimp only
        split
        · exact State.pauseReq_keeps _ _ _ _ h_a
        · exact h_a
      · exact h_a

theorem State.relieve_keeps (s : State) (m : Nat) (r : List Member) (h_s : Keeps s0 s) :
    Keeps s0 (State.relieve s m r).1 := by
  unfold State.relieve
  repeat' first
      | (with_reducible first | assumption | apply State.clearReason_keeps | apply Keeps.foldl | apply Keeps.foldl1)
      | split | (intro _) | dsimp only

theorem State.form_keeps (s : State) (m : Nat) (h_s : Keeps s0 s) : Keeps s0 (State.form s m).1 := by
  unfold State.form
  extract_lets q a t
  have hq : Keeps s0 q := State.recheckHeld_keeps _ _ _ h_s
  have ha : Keeps s0 a.1 := by
    unfold a
    apply Keeps.foldl1 _ hq
    intro b c hb
    exact Keeps.foldl1 (fun z x hz => State.formOne_keeps _ z x hz) hb
  clear_value a
  have ht : Keeps s0 t.1 := State.trim_keeps s0 _ (a.1, a.2, false) ha
  clear_value t
  split
  · exact ha
  · split
    · exact ht
    · exact State.relieve_keeps _ _ _ _ ht

theorem State.memberTokens_keeps (s : State) (e : Member) (h_s : Keeps s0 s) :
    Keeps s0 (State.memberTokens s e).1 := by
  unfold State.memberTokens
  repeat' first
      | (with_reducible first | assumption | apply State.getTokens_keeps)
      | (refine Keeps.pair (o := _) ?_ (by assumption); with_reducible apply State.getTokens_keeps)
      | split | (intro _) | dsimp only

theorem State.placeTokens_keeps (m : Nat) (a : State × Nat) (e : Member) (h_a : Keeps s0 (a).1) :
    Keeps s0 (State.placeTokens m a e).1 := by
  unfold State.placeTokens
  repeat' first
      | (with_reducible first | assumption | apply State.memberTokens_keeps | apply State.putToken_keeps | apply State.ermStore_keeps
                               | apply Keeps.foldl | apply Keeps.foldl1)
      | (refine Keeps.pair (o := _) ?_ (by assumption); with_reducible apply State.memberTokens_keeps)
      | split | (intro _) | dsimp only

theorem State.stepParams_keeps (s : State) (g : Segment) (n : Nat) (roster : Nat) (num : Nat) (h_s : Keeps s0 s) :
    Keeps s0 (State.stepParams s g n roster num) := by
  unfold State.stepParams
  repeat' first
      | (with_reducible first | assumption | apply State.bump_keeps | apply State.modTile_keeps | apply Keeps.foldl | apply Keeps.foldl1)
      | split | (intro _) | dsimp only

theorem State.startStep_keeps (s : State) (m : Nat) (r : List Member) (h_s : Keeps s0 s) :
    Keeps s0 (State.startStep s m r) := by
  unfold State.startStep
  repeat' first
      | (with_reducible first | assumption | apply State.ermStore_keeps | apply State.placeTokens_keeps | apply State.release_keeps
                               | apply State.stepParams_keeps | apply State.modServing_keeps | apply State.stepFailed_keeps
                               | apply Keeps.foldl | apply Keeps.foldl1)
      | (refine Keeps.pair (o := _) ?_ (by assumption); with_reducible apply State.placeTokens_keeps)
      | split | (intro _) | dsimp only

theorem State.contextImage_keeps (st : State) (h : Nat) (h_st : Keeps s0 (st)) :
    Keeps s0 (State.contextImage st h).1 := by
  unfold State.contextImage
  repeat' first
      | (with_reducible first | assumption | apply State.countsOf_keeps | apply State.readGroup_keeps | apply Keeps.foldl
                               | apply Keeps.foldl1)
      | (refine Keeps.pair (o := _) ?_ (by assumption); with_reducible apply State.countsOf_keeps)
      | (refine Keeps.pair (o := _) ?_ (by assumption); with_reducible apply State.readGroup_keeps)
      | split | (intro _) | dsimp only

theorem State.applySubmit_keeps (s : State) (c : Cmd) (h_s : Keeps s0 s) :
    Keeps s0 (State.applySubmit s c) := by
  unfold State.applySubmit
  repeat' first
      | (with_reducible first | assumption | apply State.complete_keeps | apply State.setReq_keeps | apply State.freeReq_keeps)
      | split | (intro _) | dsimp only

theorem State.applyCancel_keeps (s : State) (c : Cmd) (h_s : Keeps s0 s) :
    Keeps s0 (State.applyCancel s c) := by
  unfold State.applyCancel
  repeat' first
      | (with_reducible first | assumption | apply State.complete_keeps | apply State.freeReq_keeps | apply State.endReq_keeps)
      | split | (intro _) | dsimp only

theorem State.applyPause_keeps (s : State) (c : Cmd) (h_s : Keeps s0 s) :
    Keeps s0 (State.applyPause s c) := by
  unfold State.applyPause
  repeat' first
      | (with_reducible first | assumption | apply State.complete_keeps | apply State.pauseReq_keeps)
      | split | (intro _) | dsimp only

theorem State.applyResume_keeps (s : State) (c : Cmd) (h_s : Keeps s0 s) :
    Keeps s0 (State.applyResume s c) := by
  unfold State.applyResume
  repeat' first
      | (with_reducible first | assumption | apply State.complete_keeps | apply State.setReq_keeps | apply State.clearReason_keeps
                               | apply State.applyPolicy_keeps | apply State.commitToken_keeps)
      | split | (intro _) | dsimp only

theorem State.truncateReq_keeps (s : State) (h : Nat) (pos : Nat) (h_s : Keeps s0 s) :
    Keeps s0 (State.truncateReq s h pos) := by
  unfold State.truncateReq
  repeat' first
      | (with_reducible first | assumption | apply State.getToken_keeps | apply State.getTokens_keeps | apply State.countsOf_keeps
                               | apply State.freeGroups_keeps | apply State.setCounts_keeps | apply State.setReq_keeps
                               | apply Keeps.foldl | apply Keeps.foldl1)
      | (refine Keeps.pair (o := _) ?_ (by assumption); with_reducible apply State.getToken_keeps)
      | (refine Keeps.pair (o := _) ?_ (by assumption); with_reducible apply State.getTokens_keeps)
      | (refine Keeps.pair (o := _) ?_ (by assumption); with_reducible apply State.countsOf_keeps)
      | split | (intro _) | dsimp only

theorem State.applyTruncate_keeps (s : State) (c : Cmd) (h_s : Keeps s0 s) :
    Keeps s0 (State.applyTruncate s c) := by
  unfold State.applyTruncate
  repeat' first
      | (with_reducible first | assumption | apply State.complete_keeps | apply State.truncateReq_keeps)
      | split | (intro _) | dsimp only

theorem State.coolReq_keeps (s : State) (h : Nat) (h_s : Keeps s0 s) :
    Keeps s0 (State.coolReq s h) := by
  unfold State.coolReq
  repeat' first
      | (with_reducible first | assumption | apply State.modReq_keeps | apply State.freeGroups_keeps | apply State.unqueue_keeps)
      | split | (intro _) | dsimp only

theorem State.applySave_keeps (s : State) (c : Cmd) (h_s : Keeps s0 s) :
    Keeps s0 (State.applySave s c) := by
  unfold State.applySave
  repeat' first
      | (with_reducible first | assumption | apply State.complete_keeps | apply State.contextImage_keeps | apply State.started_keeps
                               | apply State.coolReq_keeps | (fail_if_no_progress apply Keeps.mk))
      | (refine Keeps.pair (o := _) ?_ (by assumption); with_reducible apply State.contextImage_keeps)
      | split | (intro _) | dsimp only

theorem State.applyRestore_keeps (s : State) (c : Cmd) (h_s : Keeps s0 s) :
    Keeps s0 (State.applyRestore s c) := by
  unfold State.applyRestore
  repeat' first
      | (with_reducible first | assumption | apply State.complete_keeps | apply State.giveGroups_keeps | apply State.setReq_keeps
                               | apply State.started_keeps | (fail_if_no_progress apply Keeps.mk))
      | (refine Keeps.pair (o := _) ?_ (by assumption); with_reducible apply State.giveGroups_keeps)
      | split | (intro _) | dsimp only

theorem State.applyServing_keeps (s : State) (c : Cmd) (h_s : Keeps s0 s) :
    Keeps s0 (State.applyServing s c) := by
  unfold State.applyServing
  repeat' first
      | (with_reducible first | assumption | apply State.applySubmit_keeps | apply State.applyCancel_keeps
                               | apply State.applyPause_keeps | apply State.applyResume_keeps | apply State.applyTruncate_keeps
                               | apply State.applySave_keeps | apply State.applyRestore_keeps)
      | split | (intro _) | dsimp only

theorem State.setCmd_keeps (s : State) (c : Cmd) (h_s : Keeps s0 s) :
    Keeps s0 (State.setCmd s c) := by
  unfold State.setCmd
  repeat' first
      | (with_reducible first | assumption | (fail_if_no_progress apply Keeps.mk))
      | split | (intro _) | dsimp only

theorem State.setDue_keeps (s : State) (m : Nat) (h_s : Keeps s0 s) :
    Keeps s0 (State.setDue s m) := by
  unfold State.setDue
  repeat' first
      | (with_reducible first | assumption | apply State.modServing_keeps)
      | split | (intro _) | dsimp only

theorem State.serveArrive_keeps (s : State) (c : Cmd) (h_s : Keeps s0 s) :
    Keeps s0 (State.serveArrive s c) := by
  unfold State.serveArrive
  repeat' first
      | (with_reducible first | assumption | apply State.applyServing_keeps | apply State.setDue_keeps)
      | split | (intro _) | dsimp only

theorem State.servingRow_keeps (s : State) (seq : Dword) (opcode : Nat) (h_s : Keeps s0 s) :
    Answers s0 (State.servingRow s seq opcode) := by
  unfold State.servingRow
  repeat' first
      | (with_reducible first | assumption | apply State.serveArrive_keeps | apply Answers.next)
      | split | (intro _) | dsimp only

theorem execReqSubmit_keeps (seq : Dword) (hostErr : Bool) (s : State) (h_s : Keeps s0 s) :
    Answers s0 (execReqSubmit seq hostErr s) := by
  unfold execReqSubmit
  repeat' first
      | (with_reducible first | assumption | apply State.serveArrive_keeps | apply State.complete_keeps | apply State.setCmd_keeps
                               | apply Answers.next)
      | split | (intro _) | dsimp only

theorem execReqCancel_keeps (seq : Dword) (s : State) (h_s : Keeps s0 s) :
    Answers s0 (execReqCancel seq s) := by
  unfold execReqCancel
  repeat' first
      | (with_reducible first | assumption | apply State.modReq_keeps | apply State.unqueue_keeps | apply State.serveArrive_keeps
                               | apply State.setCmd_keeps | apply Answers.next)
      | split | (intro _) | dsimp only

theorem execReqPause_keeps (seq : Dword) (s : State) (h_s : Keeps s0 s) :
    Answers s0 (execReqPause seq s) := by
  unfold execReqPause
  repeat' first
      | (with_reducible first | assumption | apply State.servingRow_keeps | apply Answers.next)
      | split | (intro _) | dsimp only

theorem execReqResume_keeps (seq : Dword) (s : State) (h_s : Keeps s0 s) :
    Answers s0 (execReqResume seq s) := by
  unfold execReqResume
  repeat' first
      | (with_reducible first | assumption | apply State.servingRow_keeps | apply Answers.next)
      | split | (intro _) | dsimp only

theorem execReqTruncate_keeps (seq : Dword) (s : State) (h_s : Keeps s0 s) :
    Answers s0 (execReqTruncate seq s) := by
  unfold execReqTruncate
  repeat' first
      | (with_reducible first | assumption | apply State.servingRow_keeps | apply Answers.next)
      | split | (intro _) | dsimp only

theorem execSaveContext_keeps (seq : Dword) (s : State) (h_s : Keeps s0 s) :
    Answers s0 (execSaveContext seq s) := by
  unfold execSaveContext
  repeat' first
      | (with_reducible first | assumption | apply State.servingRow_keeps | apply Answers.next)
      | split | (intro _) | dsimp only

theorem execRestoreContext_keeps (seq : Dword) (s : State) (h_s : Keeps s0 s) :
    Answers s0 (execRestoreContext seq s) := by
  unfold execRestoreContext
  repeat' first
      | (with_reducible first | assumption | apply State.servingRow_keeps | apply Answers.next)
      | split | (intro _) | dsimp only

theorem execContextTransferComplete_keeps (seq : Dword) (hostErr : Bool) (st : State) (h_st : Keeps s0 (st)) :
    Answers s0 (execContextTransferComplete seq hostErr st) := by
  unfold execContextTransferComplete
  repeat' first
      | (with_reducible first | assumption | apply State.complete_keeps | apply State.hostFree_keeps | apply State.hostWrite_keeps
                               | apply State.freeGroups_keeps | apply State.setReq_keeps | apply State.modReq_keeps
                               | apply State.writeGroup_keeps | apply State.setCounts_keeps | apply Answers.next | apply Keeps.foldl
                               | apply Keeps.foldl1 | (fail_if_no_progress apply Keeps.mk))
      | split | (intro _) | dsimp only

theorem execSrvConfig_keeps (seq : Dword) (s : State) (h_s : Keeps s0 s) :
    Answers s0 (execSrvConfig seq s) := by
  unfold execSrvConfig
  repeat' first
      | (with_reducible first | assumption | apply State.runCmd_keeps | apply State.complete_keeps | apply State.modServing_keeps
                               | apply Answers.next)
      | split | (intro _) | dsimp only

theorem execSrvConfigRestart_keeps (seq : Dword) (s : State) (h_s : Keeps s0 s) :
    Answers s0 (execSrvConfigRestart seq s) := by
  unfold execSrvConfigRestart
  repeat' first
      | (with_reducible first | assumption | apply State.runCmd_keeps | apply State.complete_keeps | apply State.modServing_keeps
                               | apply Answers.next)
      | split | (intro _) | dsimp only

theorem State.commitPositions_keeps (s : State) (e : Member) (h_s : Keeps s0 s) :
    Keeps s0 (State.commitPositions s e) := by
  unfold State.commitPositions
  repeat' first
      | (with_reducible first | assumption | apply State.setReq_keeps | apply State.getToken_keeps | apply State.countToken_keeps
                               | apply Keeps.foldl | apply Keeps.foldl1)
      | (refine Keeps.pair (o := _) ?_ (by assumption); with_reducible apply State.getToken_keeps)
      | split | (intro _) | dsimp only

theorem State.tileDraws_keeps (s : State) (t : StepRec) (rows : List (Nat × List Word)) (h_s : Keeps s0 s) :
    Keeps s0 (State.tileDraws s t rows).1 := by
  unfold State.tileDraws
  repeat' first
      | (with_reducible first | assumption | apply State.countsOf_keeps | apply Keeps.foldl | apply Keeps.foldl1)
      | (refine Keeps.pair (o := _) ?_ (by assumption); with_reducible apply State.countsOf_keeps)
      | split | (intro _) | dsimp only

theorem State.commitMember_keeps (s : State) (m : Nat) (t : StepRec) (rows : List (Nat × List Word)) (draws : List (Nat × Option Nat)) (e
    : Member) (h_s : Keeps s0 s) :
    Keeps s0 (State.commitMember s m t rows draws e) := by
  unfold State.commitMember
  repeat' first
      | (with_reducible first | assumption | apply State.endReq_keeps | apply State.ringWrite_keeps | apply State.sampleOut_keeps
                               | apply State.commitToken_keeps | apply State.failToken_keeps | apply OptKeeps.getD)
      | split | (intro _) | dsimp only

theorem State.commitStep_keeps (s : State) (m : Nat) (t : StepRec) (rows : List (Nat × List Word)) (h_s : Keeps s0 s) :
    Keeps s0 (State.commitStep s m t rows) := by
  unfold State.commitStep
  repeat' first
      | (with_reducible first | assumption | apply State.tileDraws_keeps | apply State.commitPositions_keeps
                               | apply State.commitMember_keeps | apply State.applyPolicy_keeps | apply Keeps.foldl
                               | apply Keeps.foldl1)
      | (refine Keeps.pair (o := _) ?_ (by assumption); with_reducible apply State.tileDraws_keeps)
      | split | (intro _) | dsimp only

theorem State.applyArrived_keeps (s : State) (m : Nat) (h_s : Keeps s0 s) :
    Keeps s0 (State.applyArrived s m) := by
  unfold State.applyArrived
  repeat' first
      | (with_reducible first | assumption | apply State.applyServing_keeps | apply Keeps.foldl | apply Keeps.foldl1)
      | split | (intro _) | dsimp only

theorem State.endLost_keeps (s : State) (m : Nat) (h_s : Keeps s0 s) :
    Keeps s0 (State.endLost s m) := by
  unfold State.endLost
  repeat' first
      | (with_reducible first | assumption | apply State.endReq_keeps | apply State.ringWrite_keeps | apply Keeps.foldl
                               | apply Keeps.foldl1)
      | split | (intro _) | dsimp only

theorem State.modelPauses_keeps (s : State) (m : Nat) (h_s : Keeps s0 s) :
    Keeps s0 (State.modelPauses s m) := by
  unfold State.modelPauses
  repeat' first
      | (with_reducible first | assumption | apply State.pauseReq_keeps | apply State.clearReason_keeps | apply Keeps.foldl
                               | apply Keeps.foldl1)
      | split | (intro _) | dsimp only

theorem State.demoteOf_keeps (s : State) (m : Nat) (h : Nat) (h_s : Keeps s0 s) :
    Keeps s0 (State.demoteOf s m h) := by
  unfold State.demoteOf
  repeat' first
      | (with_reducible first | assumption | apply State.modReq_keeps | apply Keeps.foldl | apply Keeps.foldl1)
      | split | (intro _) | dsimp only

theorem State.demotePages_keeps (s : State) (m : Nat) (h_s : Keeps s0 s) :
    Keeps s0 (State.demotePages s m) := by
  unfold State.demotePages
  repeat' first
      | (with_reducible first | assumption | apply State.demoteOf_keeps | apply Keeps.foldl | apply Keeps.foldl1)
      | split | (intro _) | dsimp only

theorem State.raiseBarrier_keeps (s : State) (m : Nat) (h_s : Keeps s0 s) :
    Keeps s0 (State.raiseBarrier s m) := by
  unfold State.raiseBarrier
  repeat' first
      | (with_reducible first | assumption | apply State.modServing_keeps | apply State.setSlot_keeps)
      | split | (intro _) | dsimp only

theorem State.sendVectors_keeps (s : State) (h_s : Keeps s0 s) :
    Keeps s0 (State.sendVectors s) := by
  unfold State.sendVectors
  repeat' first
      | (with_reducible first | assumption | apply State.hostWrite_keeps | apply State.sendVector_keeps | apply Keeps.foldl
                               | apply Keeps.foldl1 | (fail_if_no_progress apply Keeps.mk))
      | split | (intro _) | dsimp only

theorem State.formAndSend_keeps (s : State) (m : Nat) (h_s : Keeps s0 s) :
    Keeps s0 (State.formAndSend s m) := by
  unfold State.formAndSend
  repeat' first
      | (with_reducible first | assumption | apply State.form_keeps | apply State.startStep_keeps | apply State.sendVectors_keeps)
      | (refine Keeps.pair (o := _) ?_ (by assumption); with_reducible apply State.form_keeps)
      | split | (intro _) | dsimp only

theorem State.boundaryRest_keeps (s : State) (m : Nat) (h_s : Keeps s0 s) :
    Keeps s0 (State.boundaryRest s m) := by
  unfold State.boundaryRest
  repeat' first
      | (with_reducible first | assumption | apply State.raiseBarrier_keeps | apply State.demotePages_keeps
                               | apply State.freeGone_keeps | apply State.modelPauses_keeps | apply State.endLost_keeps
                               | apply State.applyArrived_keeps | apply State.formAndSend_keeps | apply State.modServing_keeps)
      | split | (intro _) | dsimp only

theorem State.boundary_keeps (s : State) (m : Nat) (rows : List (Nat × List Word)) (h_s : Keeps s0 s) :
    Keeps s0 (State.boundary s m rows) := by
  unfold State.boundary
  repeat' first
      | (with_reducible first | assumption | apply State.modServing_keeps | apply State.commitStep_keeps | apply State.boundaryRest_keeps)
      | split | (intro _) | dsimp only

theorem execStepBoundary_keeps (m : BitVec 3) (rows : List (BitVec 14 × List Word)) (s : State) (h_s : Keeps s0 s) :
    Answers s0 (execStepBoundary m rows s) := by
  unfold execStepBoundary
  repeat' first
      | (with_reducible first | assumption | apply State.boundary_keeps | apply State.sendVectors_keeps | apply Answers.next)
      | split | (intro _) | dsimp only

theorem execPageDemotionComplete_keeps (handle : BitVec 14) (i : BitVec 14) (s : State) (h_s : Keeps s0 s) :
    Answers s0 (execPageDemotionComplete handle i s) := by
  unfold execPageDemotionComplete
  repeat' first
      | (with_reducible first | assumption | apply State.withLp_keeps | apply State.writePt_keeps | apply State.modReq_keeps
                               | apply State.copyGroup_keeps | apply Answers.next | apply OptKeeps.getD)
      | split | (intro _) | dsimp only

theorem State.modelEvent_keeps (s : State) (m : Nat) (h_s : Keeps s0 s) :
    Keeps s0 (State.modelEvent s m) := by
  unfold State.modelEvent
  repeat' first
      | (with_reducible first | assumption | apply State.raise_keeps)
      | split | (intro _) | dsimp only

theorem State.quarantine_keeps (s : State) (m : Nat) (shard : Nat) (cause : Nat) (scrub : Bool) (staged : Bool) (h_s : Keeps s0 s) :
    Keeps s0 (State.quarantine s m shard cause scrub staged) := by
  unfold State.quarantine
  repeat' first
      | (with_reducible first | assumption | apply State.raise_keeps | apply State.bump_keeps | apply State.setReg_keeps
                               | apply State.complete_keeps | apply State.setSlot_keeps | apply State.modelEvent_keeps)
      | split | (intro _) | dsimp only

theorem State.checkShard_keeps (s : State) (x : Shard) (a : Nat) (h_s : Keeps s0 s) :
    Keeps s0 (State.checkShard s x a).1 := by
  unfold State.checkShard
  repeat' first
      | (with_reducible first | assumption | apply State.devCheck_keeps | apply State.awaitBanks_keeps)
      | (refine Keeps.pair (o := _) ?_ (by assumption); with_reducible apply State.devCheck_keeps)
      | split | (intro _) | dsimp only

theorem State.askPeer_keeps (s : State) (m : Nat) (fill : Bool) (h_s : Keeps s0 s) :
    Keeps s0 (State.askPeer s m fill) := by
  unfold State.askPeer
  repeat' first
      | (with_reducible first | assumption | apply State.sendRank_keeps | apply State.setSlot_keeps)
      | split | (intro _) | dsimp only

theorem State.endFetch_keeps (s : State) (m : Nat) (fill : Bool) (status : Nat) (h_s : Keeps s0 s) :
    Keeps s0 (State.endFetch s m fill status) := by
  unfold State.endFetch
  repeat' first
      | (with_reducible first | assumption | apply State.complete_keeps | apply State.setSlot_keeps)
      | split | (intro _) | dsimp only

theorem State.shardPassed_keeps (s : State) (m : Nat) (fill : Bool) (h_s : Keeps s0 s) :
    Keeps s0 (State.shardPassed s m fill) := by
  unfold State.shardPassed
  repeat' first
      | (with_reducible first | assumption | apply State.askPeer_keeps | apply State.setSlot_keeps | apply State.complete_keeps
                               | apply State.modelEvent_keeps)
      | split | (intro _) | dsimp only

theorem State.putShard_keeps (s : State) (f : Fetch) (dst : Nat) (off : Nat) (n : Nat) (h_s : Keeps s0 s) :
    Keeps s0 (State.putShard s f dst off n) := by
  unfold State.putShard
  repeat' first
      | (with_reducible first | assumption | apply State.awaitBanks_keeps | apply State.devCheck_keeps | apply State.copyPoison_keeps
                               | apply State.devStore_keeps | apply State.markCw_keeps | apply Keeps.foldl | apply Keeps.foldl1)
      | (refine Keeps.pair (o := _) ?_ (by assumption); with_reducible apply State.devCheck_keeps)
      | split | (intro _) | dsimp only

theorem execShardCheck_keeps (m : BitVec 3) (hostErr : Bool) (s : State) (h_s : Keeps s0 s) : Answers s0 (execShardCheck m hostErr s) := by
  unfold execShardCheck
  extract_lets n x fill
  split
  · rename_i f man _ _
    split
    · exact Answers.next h_s
    · rename_i sh _
      extract_lets dst off
      split
      · exact Answers.next h_s
      · split
        · exact Answers.next (State.endFetch_keeps s0 _ _ _ _ h_s)
        · refine Answers.next (State.withLp_keeps s0 _ _ _ h_s (fun q hq => ?_))
          extract_lets c
          have h4 : Keeps s0 c.1 := State.checkShard_keeps s0 _ _ _ (State.putShard_keeps s0 _ _ _ _ _ hq)
          clear_value c
          split
          · exact State.shardPassed_keeps s0 _ _ _ h4
          · split
            · exact State.endFetch_keeps s0 _ _ _ _ h4
            · exact State.askPeer_keeps s0 _ _ _ (State.setSlot_keeps s0 _ _ _ h4)
  · exact Answers.next h_s

theorem State.modelLoad_keeps (s : State) (c : Cmd) (hostErr : Bool) (repair : Bool) (h_s : Keeps s0 s) :
    Keeps s0 (State.modelLoad s c hostErr repair) := by
  unfold State.modelLoad
  repeat' first
      | (with_reducible first | assumption | apply State.complete_keeps | apply State.askPeer_keeps | apply State.started_keeps
                               | apply State.setSlot_keeps)
      | split | (intro _) | dsimp only

theorem execModelLoad_keeps (seq : Dword) (hostErr : Bool) (s : State) (h_s : Keeps s0 s) :
    Answers s0 (execModelLoad seq hostErr s) := by
  unfold execModelLoad
  repeat' first
      | (with_reducible first | assumption | apply State.runCmd_keeps | apply State.modelLoad_keeps | apply Answers.next)
      | split | (intro _) | dsimp only

theorem execModelLoadRepair_keeps (seq : Dword) (hostErr : Bool) (s : State) (h_s : Keeps s0 s) :
    Answers s0 (execModelLoadRepair seq hostErr s) := by
  unfold execModelLoadRepair
  repeat' first
      | (with_reducible first | assumption | apply State.runCmd_keeps | apply State.modelLoad_keeps | apply Answers.next)
      | split | (intro _) | dsimp only

theorem execModelUnload_keeps (seq : Dword) (s : State) (h_s : Keeps s0 s) :
    Answers s0 (execModelUnload seq s) := by
  unfold execModelUnload
  repeat' first
      | (with_reducible first | assumption | apply State.runCmd_keeps | apply State.complete_keeps | apply State.setSlot_keeps
                               | apply Answers.next)
      | split | (intro _) | dsimp only

theorem execSwapLayers_keeps (seq : Dword) (hostErr : Bool) (s : State) (h_s : Keeps s0 s) :
    Answers s0 (execSwapLayers seq hostErr s) := by
  unfold execSwapLayers
  repeat' first
      | (with_reducible first | assumption | apply State.runCmd_keeps | apply State.complete_keeps | apply State.askPeer_keeps
                               | apply State.started_keeps | apply State.setSlot_keeps | apply Answers.next | apply Keeps.foldl
                               | apply Keeps.foldl1)
      | split | (intro _) | dsimp only

theorem State.popBulk_keeps (s : State) (h_s : Keeps s0 s) :
    Keeps s0 (State.popBulk s) := by
  unfold State.popBulk
  repeat' first
      | (with_reducible first | assumption | (fail_if_no_progress apply Keeps.mk))
      | split | (intro _) | dsimp only

theorem State.sendShard_keeps (s : State) (r : Nat) (k : Nat) (a : Nat) (size : Nat) (o : Nat) (h_s : Keeps s0 s) :
    Keeps s0 (State.sendShard s r k a size o) := by
  unfold State.sendShard
  repeat' first
      | (with_reducible first | assumption | apply State.devCheck_keeps | apply State.devReady_keeps | apply State.sendRank_keeps
                               | apply Keeps.foldl | apply Keeps.foldl1)
      | (refine Keeps.pair (o := _) ?_ (by assumption); with_reducible apply State.devCheck_keeps)
      | split | (intro _) | dsimp only

theorem execBulkReq_keeps (s : State) (h_s : Keeps s0 s) :
    Answers s0 (execBulkReq s) := by
  unfold execBulkReq
  repeat' first
      | (with_reducible first | assumption | apply State.popBulk_keeps | apply State.sendShard_keeps | apply State.sendRank_keeps
                               | apply Answers.next)
      | split | (intro _) | dsimp only

theorem State.reRequest_keeps (s : State) (m : Nat) (fill : Bool) (h_s : Keeps s0 s) :
    Keeps s0 (State.reRequest s m fill) := by
  unfold State.reRequest
  repeat' first
      | (with_reducible first | assumption | apply State.endFetch_keeps | apply State.askPeer_keeps | apply State.setSlot_keeps)
      | split | (intro _) | dsimp only

theorem execBulkData_keeps (s : State) (h_s : Keeps s0 s) :
    Answers s0 (execBulkData s) := by
  unfold execBulkData
  repeat' first
      | (with_reducible first | assumption | apply State.popBulk_keeps | apply State.setSlot_keeps | apply State.reRequest_keeps
                               | apply Answers.next)
      | split | (intro _) | dsimp only

theorem execBulkNoshard_keeps (s : State) (h_s : Keeps s0 s) :
    Answers s0 (execBulkNoshard s) := by
  unfold execBulkNoshard
  repeat' first
      | (with_reducible first | assumption | apply State.popBulk_keeps | apply State.endFetch_keeps | apply Answers.next)
      | split | (intro _) | dsimp only

theorem execPeerLimitExpiry_keeps (m : BitVec 3) (s : State) (h_s : Keeps s0 s) :
    Answers s0 (execPeerLimitExpiry m s) := by
  unfold execPeerLimitExpiry
  repeat' first
      | (with_reducible first | assumption | apply State.reRequest_keeps | apply Answers.next)
      | split | (intro _) | dsimp only

theorem execDigestScrub_keeps (s : State) (h_s : Keeps s0 s) :
    Answers s0 (execDigestScrub s) := by
  unfold execDigestScrub
  repeat' first
      | (with_reducible first | assumption | apply State.withLp_keeps | apply State.checkShard_keeps | apply State.bump_keeps
                               | apply State.quarantine_keeps | apply Answers.next | (fail_if_no_progress apply Keeps.mk))
      | (refine Keeps.pair (o := _) ?_ (by assumption); with_reducible apply State.checkShard_keeps)
      | split | (intro _) | dsimp only

theorem State.vaultLost_keeps (s : State) (v : Nat) (h_s : Keeps s0 s) :
    Keeps s0 (State.vaultLost s v) := by
  unfold State.vaultLost
  repeat' first
      | (with_reducible first | assumption | apply State.quarantine_keeps | apply Keeps.foldl | apply Keeps.foldl1)
      | split | (intro _) | dsimp only

theorem State.recomputeKv_keeps (s : State) (m : Nat) (h_s : Keeps s0 s) :
    Keeps s0 (State.recomputeKv s m) := by
  unfold State.recomputeKv
  repeat' first
      | (with_reducible first | assumption | apply State.setReq_keeps | apply Keeps.foldl | apply Keeps.foldl1)
      | split | (intro _) | dsimp only

theorem State.endSwap_keeps (s : State) (m : Nat) (w : Swap) (x : ModelSlot) (status : Nat) (h_s : Keeps s0 s) :
    Keeps s0 (State.endSwap s m w x status) := by
  unfold State.endSwap
  repeat' first
      | (with_reducible first | assumption | apply State.recomputeKv_keeps | apply State.setSlot_keeps | apply State.boundaryRest_keeps
                               | apply State.complete_keeps | apply State.modServing_keeps)
      | split | (intro _) | dsimp only

theorem State.swapShard_keeps (s : State) (x : ModelSlot) (y : Shard) (k : Nat) (h_s : Keeps s0 s) :
    Keeps s0 (State.swapShard s x y k).1 := by
  unfold State.swapShard
  repeat' first
      | (with_reducible first | assumption | apply State.devCheck_keeps | apply State.awaitBanks_keeps | apply State.checkShard_keeps
                               | apply State.copyPoison_keeps | apply State.devStore_keeps)
      | (refine Keeps.pair (o := _) ?_ (by assumption); with_reducible apply State.devCheck_keeps)
      | (refine Keeps.pair (o := _) ?_ (by assumption); with_reducible apply State.checkShard_keeps)
      | split | (intro _) | dsimp only

theorem State.swapLayer_keeps (s : State) (n : Nat) (x : ModelSlot) (w : Swap) (l : Nat) (rest : List Nat) (h_s : Keeps s0 s) :
    Keeps s0 (State.swapLayer s n x w l rest) := by
  unfold State.swapLayer
  repeat' first
      | (with_reducible first | assumption | apply State.swapShard_keeps | apply State.quarantine_keeps | apply State.endSwap_keeps
                               | apply State.setSlot_keeps | apply Keeps.foldl | apply Keeps.foldl1)
      | (refine Keeps.pair (o := _) ?_ (by assumption); with_reducible apply State.swapShard_keeps)
      | split | (intro _) | dsimp only

theorem execSwapLayerCopy_keeps (m : BitVec 3) (s : State) (h_s : Keeps s0 s) :
    Answers s0 (execSwapLayerCopy m s) := by
  unfold execSwapLayerCopy
  repeat' first
      | (with_reducible first | assumption | apply State.endSwap_keeps | apply State.withLp_keeps | apply State.swapLayer_keeps
                               | apply Answers.next)
      | split | (intro _) | dsimp only

theorem execSwapLayersAction_keeps (s : State) (h_s : Keeps s0 s) :
    Answers s0 (execSwapLayersAction s) := by
  unfold execSwapLayersAction
  repeat' first
      | (with_reducible first | assumption | apply State.takeAction_keeps | apply State.raise_keeps | apply State.setSlot_keeps
                               | apply State.complete_keeps | apply Answers.next)
      | split | (intro _) | dsimp only

theorem State.keyWait_keeps (s : State) (c : Cmd) (slot : Nat) (key : Option (List Byte)) (h_s : Keeps s0 s) :
    Keeps s0 (State.keyWait s c slot key) := by
  unfold State.keyWait
  repeat' first
      | (with_reducible first | assumption | apply State.started_keeps | (fail_if_no_progress apply Keeps.mk))
      | split | (intro _) | dsimp only

theorem execModelKeyEnrol_keeps (seq : Dword) (hostErr : Bool) (s : State) (h_s : Keeps s0 s) :
    Answers s0 (execModelKeyEnrol seq hostErr s) := by
  unfold execModelKeyEnrol
  repeat' first
      | (with_reducible first | assumption | apply State.runCmd_keeps | apply State.complete_keeps | apply State.keyWait_keeps
                               | apply Answers.next)
      | split | (intro _) | dsimp only

theorem execModelKeyRevoke_keeps (seq : Dword) (s : State) (h_s : Keeps s0 s) :
    Answers s0 (execModelKeyRevoke seq s) := by
  unfold execModelKeyRevoke
  repeat' first
      | (with_reducible first | assumption | apply State.runCmd_keeps | apply State.complete_keeps | apply State.keyWait_keeps
                               | apply Answers.next)
      | split | (intro _) | dsimp only

theorem State.keyWritten_keeps (s : State) (h_s : Keeps s0 s) :
    Keeps s0 (State.keyWritten s) := by
  unfold State.keyWritten
  repeat' first
      | (with_reducible first | assumption | apply State.complete_keeps | (fail_if_no_progress apply Keeps.mk))
      | split | (intro _) | dsimp only

end Sys2Proof.Machine
end

