-- ==== Sys2Proof/Laws/KeepsReset.lean ====
section
/-!
SUPPORT. Each operation and command of resets, bring-up, tests and registers leaves the queue and keeps the memories' canonical form.
-/

set_option linter.all false
set_option Elab.async false

namespace Sys2Proof.Machine

open Sys2Proof

variable (s0 : State)

theorem State.chipReset_keeps (s : State) (cause : Word) (h_s : Keeps s0 s) : Keeps s0 (State.chipReset s cause) := by
  refine ⟨h_s.1, fun m => ?_⟩
  exact ⟨rfl, rfl, (h_s.2 m).2.2⟩

theorem State.resetFrom_keeps (s : State) (b : Nat) (h_s : Keeps s0 s) :
    Keeps s0 (State.resetFrom s b) := by
  unfold State.resetFrom
  repeat' first
      | (with_reducible first | assumption | apply State.chipReset_keeps)
      | split | (intro _) | dsimp only

theorem State.setRails_keeps (s : State) (r : RailsOff) (h_s : Keeps s0 s) :
    Keeps s0 (State.setRails s r) := by
  unfold State.setRails
  repeat' first
      | (with_reducible first | assumption | (fail_if_no_progress apply Keeps.mk))
      | split | (intro _) | dsimp only

theorem State.setTrip_keeps (s : State) (low : Bool) (h_s : Keeps s0 s) :
    Keeps s0 (State.setTrip s low) := by
  unfold State.setTrip
  repeat' first
      | (with_reducible first | assumption | apply State.out_keeps | (fail_if_no_progress apply Keeps.mk))
      | split | (intro _) | dsimp only

theorem execPor_keeps (s : State) (h_s : Keeps s0 s) :
    Answers s0 (execPor s) := by
  unfold execPor
  repeat' first
      | (with_reducible first | assumption | apply State.setRails_keeps | apply State.resetFrom_keeps | apply Answers.next)
      | split | (intro _) | dsimp only

theorem execPerst_keeps (s : State) (h_s : Keeps s0 s) :
    Answers s0 (execPerst s) := by
  unfold execPerst
  repeat' first
      | (with_reducible first | assumption | apply State.resetFrom_keeps | apply Answers.next | (fail_if_no_progress apply Keeps.mk))
      | split | (intro _) | dsimp only

theorem execPerstNRising_keeps (s : State) (h_s : Keeps s0 s) :
    Answers s0 (execPerstNRising s) := by
  unfold execPerstNRising
  repeat' first
      | (with_reducible first | assumption | apply Answers.next | (fail_if_no_progress apply Keeps.mk))
      | split | (intro _) | dsimp only

theorem execHotrst_keeps (s : State) (h_s : Keeps s0 s) :
    Answers s0 (execHotrst s) := by
  unfold execHotrst
  repeat' first
      | (with_reducible first | assumption | apply State.resetFrom_keeps | apply Answers.next)
      | split | (intro _) | dsimp only

theorem execPcieLinkUp_keeps (s : State) (h_s : Keeps s0 s) :
    Answers s0 (execPcieLinkUp s) := by
  unfold execPcieLinkUp
  repeat' first
      | (with_reducible first | assumption | apply Answers.next | (fail_if_no_progress apply Keeps.mk))
      | split | (intro _) | dsimp only

theorem execFlr_keeps (s : State) (h_s : Keeps s0 s) :
    Answers s0 (execFlr s) := by
  unfold execFlr
  repeat' first
      | (with_reducible first | assumption | apply State.setBit_keeps | apply Answers.next | (fail_if_no_progress apply Keeps.mk))
      | split | (intro _) | dsimp only

theorem State.mgmtReset_keeps (s : State) (h_s : Keeps s0 s) :
    Keeps s0 (State.mgmtReset s) := by
  unfold State.mgmtReset
  repeat' first
      | (with_reducible first | assumption | apply State.resetFrom_keeps)
      | split | (intro _) | dsimp only

theorem State.setUnlocked_keeps (s : State) (req : Nat) (block : Nat) (on : Bool) (h_s : Keeps s0 s) :
    Keeps s0 (State.setUnlocked s req block on) := by
  unfold State.setUnlocked
  repeat' first
      | (with_reducible first | assumption | (fail_if_no_progress apply Keeps.mk))
      | split | (intro _) | dsimp only

theorem State.refuseAccess_keeps (s : State) (req : Nat) (kind : Nat) (a : Nat) (h_s : Keeps s0 s) :
    Keeps s0 (State.refuseAccess s req kind a) := by
  unfold State.refuseAccess
  repeat' first
      | (with_reducible first | assumption | apply State.setReg_keeps | apply State.bumpF_keeps)
      | split | (intro _) | dsimp only

theorem State.writeCtrl_keeps (s : State) (req : Nat) (v : Word) (h_s : Keeps s0 s) :
    Keeps s0 (State.writeCtrl s req v) := by
  unfold State.writeCtrl
  repeat' first
      | (with_reducible first | assumption | apply State.refuseAccess_keeps | apply State.mgmtReset_keeps | apply State.setUnlocked_keeps)
      | split | (intro _) | dsimp only

theorem execChipResetWrite_keeps (req : BitVec 1) (value : Word) (s : State) (h_s : Keeps s0 s) :
    Answers s0 (execChipResetWrite req value s) := by
  unfold execChipResetWrite
  repeat' first
      | (with_reducible first | assumption | apply State.writeCtrl_keeps | apply Answers.next)
      | split | (intro _) | dsimp only

theorem execWdog_keeps (s : State) (h_s : Keeps s0 s) :
    Answers s0 (execWdog s) := by
  unfold execWdog
  repeat' first
      | (with_reducible first | assumption | apply State.setFault_keeps | apply State.resetFrom_keeps | apply Answers.next)
      | split | (intro _) | dsimp only

theorem execWdogRestart_keeps (s : State) (h_s : Keeps s0 s) :
    Answers s0 (execWdogRestart s) := by
  unfold execWdogRestart
  repeat' first
      | (with_reducible first | assumption | apply Answers.next | (fail_if_no_progress apply Keeps.mk))
      | split | (intro _) | dsimp only

theorem execTherm_keeps (s : State) (h_s : Keeps s0 s) :
    Answers s0 (execTherm s) := by
  unfold execTherm
  repeat' first
      | (with_reducible first | assumption | apply State.setTrip_keeps | apply State.resetFrom_keeps | apply Answers.next
                               | (fail_if_no_progress apply Keeps.mk))
      | split | (intro _) | dsimp only

theorem execThermRestart_keeps (temp : BitVec 8) (s : State) (h_s : Keeps s0 s) :
    Answers s0 (execThermRestart temp s) := by
  unfold execThermRestart
  repeat' first
      | (with_reducible first | assumption | apply State.setTrip_keeps | apply State.setRails_keeps | apply State.chipReset_keeps
                               | apply Answers.next)
      | split | (intro _) | dsimp only

theorem State.chipFatal_keeps (s : State) (cause : Nat) (index : Nat) (h_s : Keeps s0 s) :
    Keeps s0 (State.chipFatal s cause index) := by
  unfold State.chipFatal
  repeat' first
      | (with_reducible first | assumption | apply State.resetFrom_keeps | apply State.setFault_keeps
                               | (fail_if_no_progress apply Keeps.mk))
      | split | (intro _) | dsimp only

theorem execChipFatal_keeps (cause : BitVec 8) (index : BitVec 8) (s : State) (h_s : Keeps s0 s) :
    Answers s0 (execChipFatal cause index s) := by
  unfold execChipFatal
  repeat' first
      | (with_reducible first | assumption | apply State.chipFatal_keeps | apply Answers.next)
      | split | (intro _) | dsimp only

theorem execRefLossFatal_keeps (s : State) (h_s : Keeps s0 s) :
    Answers s0 (execRefLossFatal s) := by
  unfold execRefLossFatal
  repeat' first
      | (with_reducible first | assumption | apply State.chipFatal_keeps | apply Answers.next)
      | split | (intro _) | dsimp only

theorem execRefclkRestored_keeps (s : State) (h_s : Keeps s0 s) :
    Answers s0 (execRefclkRestored s) := by
  unfold execRefclkRestored
  repeat' first
      | (with_reducible first | assumption | apply State.setFault_keeps | apply Answers.next | (fail_if_no_progress apply Keeps.mk))
      | split | (intro _) | dsimp only

theorem execFatalRestart_keeps (s : State) (h_s : Keeps s0 s) :
    Answers s0 (execFatalRestart s) := by
  unfold execFatalRestart
  repeat' first
      | (with_reducible first | assumption | apply State.setRails_keeps | apply State.resetFrom_keeps | apply Answers.next)
      | split | (intro _) | dsimp only

theorem execInputShutdown_keeps (volts : BitVec 16) (s : State) (h_s : Keeps s0 s) :
    Answers s0 (execInputShutdown volts s) := by
  unfold execInputShutdown
  repeat' first
      | (with_reducible first | assumption | apply State.setTrip_keeps | apply State.setFault_keeps | apply State.resetFrom_keeps
                               | apply Answers.next | (fail_if_no_progress apply Keeps.mk))
      | split | (intro _) | dsimp only

theorem State.postDomain_keeps (s : State) (c : Cmd) (release : Bool) (h_s : Keeps s0 s) :
    Keeps s0 (State.postDomain s c release) := by
  unfold State.postDomain
  repeat' first
      | (with_reducible first | assumption | apply State.complete_keeps | apply State.started_keeps | (fail_if_no_progress apply Keeps.mk))
      | split | (intro _) | dsimp only

theorem execResetDomainReset_keeps (seq : Dword) (s : State) (h_s : Keeps s0 s) :
    Answers s0 (execResetDomainReset seq s) := by
  unfold execResetDomainReset
  repeat' first
      | (with_reducible first | assumption | apply State.runCmd_keeps | apply State.postDomain_keeps | apply Answers.next)
      | split | (intro _) | dsimp only

theorem execResetDomainRelease_keeps (seq : Dword) (s : State) (h_s : Keeps s0 s) :
    Answers s0 (execResetDomainRelease seq s) := by
  unfold execResetDomainRelease
  repeat' first
      | (with_reducible first | assumption | apply State.runCmd_keeps | apply State.postDomain_keeps | apply Answers.next)
      | split | (intro _) | dsimp only

theorem execResetDomainChip_keeps (seq : Dword) (s : State) (h_s : Keeps s0 s) :
    Answers s0 (execResetDomainChip seq s) := by
  unfold execResetDomainChip
  repeat' first
      | (with_reducible first | assumption | apply State.runCmd_keeps | apply State.postDomain_keeps | apply Answers.next)
      | split | (intro _) | dsimp only

theorem State.dropOrder_keeps (s : State) (o : DomOrder) (h_s : Keeps s0 s) :
    Keeps s0 (State.dropOrder s o) := by
  unfold State.dropOrder
  repeat' first
      | (with_reducible first | assumption | (fail_if_no_progress apply Keeps.mk))
      | split | (intro _) | dsimp only

theorem State.domainEvent_keeps (s : State) (kind : Nat) (index : Nat) (st : Nat) (h_s : Keeps s0 s) :
    Keeps s0 (State.domainEvent s kind index st) := by
  unfold State.domainEvent
  repeat' first
      | (with_reducible first | assumption | apply State.raise_keeps)
      | split | (intro _) | dsimp only

theorem State.respErrors_keeps (s : State) (l : Nat) (names : LDesc → Bool) (h_s : Keeps s0 s) :
    Keeps s0 (State.respErrors s l names) := by
  unfold State.respErrors
  repeat' first
      | (with_reducible first | assumption | apply State.ladleFault_keeps | apply Keeps.foldl | apply Keeps.foldl1)
      | split | (intro _) | dsimp only

theorem State.intakeErrors_keeps (s : State) (u : Nat) (h_s : Keeps s0 s) :
    Keeps s0 (State.intakeErrors s u) := by
  unfold State.intakeErrors
  repeat' first
      | (with_reducible first | assumption | apply State.ladleFault_keeps | apply Keeps.foldl | apply Keeps.foldl1)
      | split | (intro _) | dsimp only

theorem State.clearIntake_keeps (s : State) (p : OwnPort) (h_s : Keeps s0 s) :
    Keeps s0 (State.clearIntake s p) := by
  unfold State.clearIntake
  repeat' first
      | (with_reducible first | assumption | (fail_if_no_progress apply Keeps.mk))
      | split | (intro _) | dsimp only

theorem State.emptyLadle_keeps (s : State) (l : Nat) (h_s : Keeps s0 s) :
    Keeps s0 (State.emptyLadle s l) := by
  unfold State.emptyLadle
  repeat' first
      | (with_reducible first | assumption | apply State.setLadle_keeps | apply State.clearIntake_keeps
                               | apply State.intakeErrors_keeps | apply State.endCmd_keeps | apply Keeps.foldl | apply Keeps.foldl1)
      | split | (intro _) | dsimp only

theorem State.abandonSkillet_keeps (s : State) (v : Nat) (h_s : Keeps s0 s) :
    Keeps s0 (State.abandonSkillet s v) := by
  unfold State.abandonSkillet
  repeat' first
      | (with_reducible first | assumption | apply State.clearIntake_keeps | apply State.stopUnit_keeps | apply State.setSkillet_keeps)
      | split | (intro _) | dsimp only

theorem State.selfRefresh_keeps (s : State) (v : Nat) (on : Bool) (h_s : Keeps s0 s) :
    Keeps s0 (State.selfRefresh s v on) := by
  unfold State.selfRefresh
  repeat' first
      | (with_reducible first | assumption | apply State.modVault_keeps)
      | split | (intro _) | dsimp only

theorem State.isolateTile_keeps (s : State) (t : Nat) (h_s : Keeps s0 s) :
    Keeps s0 (State.isolateTile s t) := by
  unfold State.isolateTile
  repeat' first
      | (with_reducible first | assumption | apply State.failReinstate_keeps | apply State.modRouter_keeps
                               | apply State.closeColander_keeps | apply State.complete_keeps | apply State.serveHalted_keeps
                               | apply State.stopRuns_keeps | apply State.modTile_keeps | apply State.stopUnit_keeps
                               | apply Keeps.foldl | apply Keeps.foldl1)
      | split | (intro _) | dsimp only

theorem State.isolateCluster_keeps (s : State) (c : Nat) (h_s : Keeps s0 s) :
    Keeps s0 (State.isolateCluster s c) := by
  unfold State.isolateCluster
  repeat' first
      | (with_reducible first | assumption | apply State.isolateTile_keeps | apply State.selfRefresh_keeps
                               | apply State.modCluster_keeps | apply State.emptyLadle_keeps | apply State.abandonSkillet_keeps
                               | apply Keeps.foldl | apply Keeps.foldl1)
      | split | (intro _) | dsimp only

theorem State.failRows_keeps (s : State) (h_s : Keeps s0 s) :
    Keeps s0 (State.failRows s) := by
  unfold State.failRows
  repeat' first
      | (with_reducible first | assumption | apply State.returnRow_keeps | apply State.bump_keeps | apply Keeps.foldl
                               | apply Keeps.foldl1 | (fail_if_no_progress apply Keeps.mk))
      | split | (intro _) | dsimp only

theorem State.wrapperRises_keeps (s : State) (kind : Nat) (index : Nat) (h_s : Keeps s0 s) :
    Keeps s0 (State.wrapperRises s kind index) := by
  unfold State.wrapperRises
  repeat' first
      | (with_reducible first | assumption | apply State.isolateCluster_keeps | apply State.respErrors_keeps
                               | apply State.abandonSkillet_keeps | apply State.selfRefresh_keeps | apply State.declareDown_keeps
                               | apply State.modNport_keeps | apply State.stopUnit_keeps | apply State.setLpch_keeps
                               | apply State.failRows_keeps | apply State.emptyLadle_keeps | apply Keeps.foldl | apply Keeps.foldl1)
      | split | (intro _) | dsimp only

theorem State.haltPeers_keeps (s : State) (kind : Nat) (index : Nat) (h_s : Keeps s0 s) :
    Keeps s0 (State.haltPeers s kind index) := by
  unfold State.haltPeers
  repeat' first
      | (with_reducible first | assumption | apply State.halt_keeps | apply Keeps.foldl | apply Keeps.foldl1)
      | split | (intro _) | dsimp only

theorem execDomainResetEffect_keeps (kind : BitVec 3) (index : BitVec 6) (s : State) (h_s : Keeps s0 s) :
    Answers s0 (execDomainResetEffect kind index s) := by
  unfold execDomainResetEffect
  repeat' first
      | (with_reducible first | assumption | apply State.dropOrder_keeps | apply State.mgmtReset_keeps | apply State.complete_keeps
                               | apply State.haltPeers_keeps | apply State.wrapperRises_keeps | apply State.setDomain_keeps
                               | apply State.setBit_keeps | apply State.domainEvent_keeps | apply Answers.next
                               | (fail_if_no_progress apply Keeps.mk))
      | split | (intro _) | dsimp only

theorem State.resetLogic_keeps (s : State) (kind : Nat) (index : Nat) (h_s : Keeps s0 s) :
    Keeps s0 (State.resetLogic s kind index) := by
  unfold State.resetLogic
  repeat' first
      | (with_reducible first | assumption | apply State.setTile_keeps | apply State.modCluster_keeps | apply State.setReg_keeps
                               | apply State.setLadle_keeps | apply State.modNport_keeps | apply Keeps.foldl | apply Keeps.foldl1
                               | (fail_if_no_progress apply Keeps.mk))
      | split | (intro _) | dsimp only

theorem execDomainHeld_keeps (kind : BitVec 3) (index : BitVec 6) (s : State) (h_s : Keeps s0 s) :
    Answers s0 (execDomainHeld kind index s) := by
  unfold execDomainHeld
  repeat' first
      | (with_reducible first | assumption | apply State.setDomain_keeps | apply State.resetLogic_keeps | apply State.complete_keeps
                               | apply Answers.next | (fail_if_no_progress apply Keeps.mk))
      | split | (intro _) | dsimp only

theorem execDomainReleaseEffect_keeps (kind : BitVec 3) (index : BitVec 6) (s : State) (h_s : Keeps s0 s) :
    Answers s0 (execDomainReleaseEffect kind index s) := by
  unfold execDomainReleaseEffect
  repeat' first
      | (with_reducible first | assumption | apply State.dropOrder_keeps | apply State.complete_keeps | apply State.setDomain_keeps
                               | apply State.startTraining_keeps | apply Answers.next)
      | split | (intro _) | dsimp only

theorem State.contentLost_keeps (s : State) (v : Nat) (h_s : Keeps s0 s) :
    Keeps s0 (State.contentLost s v) := by
  unfold State.contentLost
  repeat' first
      | (with_reducible first | assumption | apply State.vaultLost_keeps | apply State.health_keeps | apply State.setBit_keeps
                               | apply State.dvWrite_keeps | (fail_if_no_progress apply Keeps.mk))
      | split | (intro _) | dsimp only

theorem State.wakeVault_keeps (s : State) (v : Nat) (kept : Bool) (h_s : Keeps s0 s) :
    Keeps s0 (State.wakeVault s v kept) := by
  unfold State.wakeVault
  repeat' first
      | (with_reducible first | assumption | apply State.selfRefresh_keeps | apply State.contentLost_keeps)
      | split | (intro _) | dsimp only

theorem State.restoreTile_keeps (s : State) (t : Nat) (h_s : Keeps s0 s) : Keeps s0 (State.restoreTile s t) := by
  unfold State.restoreTile
  repeat' first
   | with_reducible assumption
   | with_reducible exact Keeps.rfl' _
   | with_reducible apply State.modRouter_keeps
   | with_reducible apply State.setTile_keeps
   | with_reducible apply Keeps.clear
   | with_reducible apply Answers.next
   | (fail_if_no_progress (with_reducible apply Keeps.mk))
   | split
   | intro _
   | dsimp only

theorem execDomainRestoreComplete_keeps (kind : BitVec 3) (index : BitVec 6) (kept : Bool) (passes : List (BitVec 2)) (s : State) (h_s :
    Keeps s0 s) :
    Answers s0 (execDomainRestoreComplete kind index kept passes s) := by
  unfold execDomainRestoreComplete
  repeat' first
      | (with_reducible first | assumption | apply State.setDomain_keeps | apply State.modCluster_keeps | apply State.restoreTile_keeps
                               | apply State.clearIntake_keeps | apply State.wakeVault_keeps | apply State.setLpch_keeps
                               | apply State.health_keeps | apply State.raise_keeps | apply State.setReg_keeps
                               | apply State.emptyLadle_keeps | apply State.domainEvent_keeps | apply Answers.next | apply Keeps.foldl
                               | apply Keeps.foldl1)
      | split | (intro _) | dsimp only

theorem State.loseLock_keeps (s : State) (c : Nat) (h_s : Keeps s0 s) :
    Keeps s0 (State.loseLock s c) := by
  unfold State.loseLock
  repeat' first
      | (with_reducible first | assumption | apply State.rebalance_keeps | (fail_if_no_progress apply Keeps.mk))
      | split | (intro _) | dsimp only

theorem execClusterFatal_keeps (cluster : BitVec 6) (cause : BitVec 4) (s : State) (h_s : Keeps s0 s) :
    Answers s0 (execClusterFatal cluster cause s) := by
  unfold execClusterFatal
  repeat' first
      | (with_reducible first | assumption | apply State.loseLock_keeps | apply State.setReg_keeps | apply State.raise_keeps
                               | apply State.health_keeps | apply State.accept_keeps | apply State.postDomain_keeps
                               | apply Answers.next)
      | split | (intro _) | dsimp only

theorem State.readRecord_keeps (s : State) (k : Nat) (r : FlashRecord) (h_s : Keeps s0 s) :
    Keeps s0 (State.readRecord s k r) := by
  unfold State.readRecord
  repeat' first
      | (with_reducible first | assumption | apply State.raise_keeps | apply Keeps.foldl | apply Keeps.foldl1)
      | split | (intro _) | dsimp only

theorem State.bringupError_keeps (s : State) (err : Nat) (h_s : Keeps s0 s) :
    Keeps s0 (State.bringupError s err) := by
  unfold State.bringupError
  repeat' first
      | (with_reducible first | assumption | apply State.setFld_keeps)
      | split | (intro _) | dsimp only

theorem State.stageDone_keeps (s : State) (k : Nat) (h_s : Keeps s0 s) :
    Keeps s0 (State.stageDone s k) := by
  unfold State.stageDone
  repeat' first
      | (with_reducible first | assumption | apply State.setFld_keeps | (fail_if_no_progress apply Keeps.mk))
      | split | (intro _) | dsimp only

theorem State.bootRom_keeps (s : State) (fail : Bool) (unread : Bool) (h_s : Keeps s0 s) :
    Keeps s0 (State.bootRom s fail unread) := by
  unfold State.bootRom
  repeat' first
      | (with_reducible first | assumption | apply State.bringupError_keeps | apply State.readRecord_keeps | apply State.setBit_keeps
                               | apply State.setReg_keeps | apply State.raise_keeps | apply State.stageDone_keeps
                               | (fail_if_no_progress apply Keeps.mk))
      | split | (intro _) | dsimp only

theorem State.calibrate_keeps (s : State) (fail : Bool) (lat : List Byte) (h_s : Keeps s0 s) :
    Keeps s0 (State.calibrate s fail lat) := by
  unfold State.calibrate
  repeat' first
      | (with_reducible first | assumption | apply State.setFld_keeps | apply State.setReg_keeps | apply State.raise_keeps
                               | apply State.stageDone_keeps | apply Keeps.foldl | apply Keeps.foldl1)
      | split | (intro _) | dsimp only

theorem State.startFirmware_keeps (s : State) (h_s : Keeps s0 s) :
    Keeps s0 (State.startFirmware s) := by
  unfold State.startFirmware
  repeat' first
      | (with_reducible first | assumption | apply State.setFld_keeps | apply State.setReg_keeps | apply State.stageDone_keeps
                               | apply State.out_keeps | apply State.setFault_keeps | (fail_if_no_progress apply Keeps.mk))
      | split | (intro _) | dsimp only

theorem State.startJournal_keeps (s : State) (h_s : Keeps s0 s) :
    Keeps s0 (State.startJournal s) := by
  unfold State.startJournal
  repeat' first
      | (with_reducible first | assumption | apply State.dvWrite_keeps | (fail_if_no_progress apply Keeps.mk))
      | split | (intro _) | dsimp only

theorem State.trainVaults_keeps (s : State) (fail : Bool) (h_s : Keeps s0 s) :
    Keeps s0 (State.trainVaults s fail) := by
  unfold State.trainVaults
  repeat' first
      | (with_reducible first | assumption | apply State.bringupError_keeps | apply State.stageDone_keeps
                               | apply State.startJournal_keeps | apply State.modVault_keeps | apply Keeps.foldl | apply Keeps.foldl1)
      | split | (intro _) | dsimp only

theorem State.writeTables_keeps (s : State) (unread : Bool) (h_s : Keeps s0 s) :
    Keeps s0 (State.writeTables s unread) := by
  unfold State.writeTables
  repeat' first
      | (with_reducible first | assumption | apply State.bringupError_keeps | apply State.readRecord_keeps
                               | apply State.stageDone_keeps | apply State.setReg_keeps | apply Keeps.foldl | apply Keeps.foldl1)
      | split | (intro _) | dsimp only

theorem State.becomeReady_keeps (s : State) (h_s : Keeps s0 s) :
    Keeps s0 (State.becomeReady s) := by
  unfold State.becomeReady
  repeat' first
      | (with_reducible first | assumption | apply State.stageDone_keeps | apply State.modNport_keeps | apply Keeps.foldl
                               | apply Keeps.foldl1)
      | split | (intro _) | dsimp only

theorem execBringupStage_keeps (fail : Bool) (unread : Bool) (lat : List Byte) (s : State) (h_s : Keeps s0 s) :
    Answers s0 (execBringupStage fail unread lat s) := by
  unfold execBringupStage
  repeat' first
      | (with_reducible first | assumption | apply State.stageDone_keeps | apply State.bootRom_keeps | apply State.calibrate_keeps
                               | apply State.startFirmware_keeps | apply State.trainVaults_keeps | apply State.writeTables_keeps
                               | apply State.becomeReady_keeps | apply Answers.next)
      | split | (intro _) | dsimp only

theorem State.writeSecCommit_keeps (s : State) (req : Nat) (v : Word) (h_s : Keeps s0 s) :
    Keeps s0 (State.writeSecCommit s req v) := by
  unfold State.writeSecCommit
  repeat' first
      | (with_reducible first | assumption | apply State.refuseAccess_keeps | apply State.setUnlocked_keeps
                               | (fail_if_no_progress apply Keeps.mk))
      | split | (intro _) | dsimp only

theorem execSecCommit_keeps (req : BitVec 1) (value : Word) (s : State) (h_s : Keeps s0 s) :
    Answers s0 (execSecCommit req value s) := by
  unfold execSecCommit
  repeat' first
      | (with_reducible first | assumption | apply State.writeSecCommit_keeps | apply Answers.next)
      | split | (intro _) | dsimp only

theorem execFlashWriteComplete_keeps (sec : Bool) (s : State) (h_s : Keeps s0 s) :
    Answers s0 (execFlashWriteComplete sec s) := by
  unfold execFlashWriteComplete
  repeat' first
      | (with_reducible first | assumption | apply State.keyWritten_keeps | apply Answers.next | (fail_if_no_progress apply Keeps.mk))
      | split | (intro _) | dsimp only

theorem execPldmFirmwareUpdate_keeps (target : PldmTarget) (image : List Byte) (s : State) (h_s : Keeps s0 s) :
    Answers s0 (execPldmFirmwareUpdate target image s) := by
  unfold execPldmFirmwareUpdate
  repeat' first
      | (with_reducible first | assumption | apply State.mctpOut_keeps | apply Answers.next | (fail_if_no_progress apply Keeps.mk))
      | split | (intro _) | dsimp only

theorem execPldmPlatformMonitoring_keeps (s : State) (h_s : Keeps s0 s) :
    Answers s0 (execPldmPlatformMonitoring s) := by
  unfold execPldmPlatformMonitoring
  repeat' first
      | (with_reducible first | assumption | apply State.mctpOut_keeps | apply Answers.next | apply Keeps.foldl | apply Keeps.foldl1)
      | split | (intro _) | dsimp only

theorem execDynamicAddressAssignment_keeps (addr : BitVec 7) (static : Option (BitVec 7)) (s : State) (h_s : Keeps s0 s) :
    Answers s0 (execDynamicAddressAssignment addr static s) := by
  unfold execDynamicAddressAssignment
  repeat' first
      | (with_reducible first | assumption | apply Answers.next | (fail_if_no_progress apply Keeps.mk))
      | split | (intro _) | dsimp only

theorem State.setSpdm_keeps (s : State) (doe : Bool) (x : SpdmState) (h_s : Keeps s0 s) :
    Keeps s0 (State.setSpdm s doe x) := by
  unfold State.setSpdm
  repeat' first
      | (with_reducible first | assumption | (fail_if_no_progress apply Keeps.mk))
      | split | (intro _) | dsimp only

theorem State.answer_keeps (s : State) (doe : Bool) (r : SpdmResp) (h_s : Keeps s0 s) :
    Answers s0 (State.answer s doe r) := by
  unfold State.answer
  repeat' first
      | (with_reducible first | assumption | apply State.out_keeps | apply State.mctpOut_keeps | apply Answers.next)
      | split | (intro _) | dsimp only

theorem execGetVersion_keeps (doe : Bool) (s : State) (h_s : Keeps s0 s) :
    Answers s0 (execGetVersion doe s) := by
  unfold execGetVersion
  repeat' first
      | (with_reducible first | assumption | apply State.answer_keeps | apply State.setSpdm_keeps | apply Answers.next)
      | split | (intro _) | dsimp only

theorem execGetCapabilities_keeps (doe : Bool) (version : BitVec 8) (s : State) (h_s : Keeps s0 s) :
    Answers s0 (execGetCapabilities doe version s) := by
  unfold execGetCapabilities
  repeat' first
      | (with_reducible first | assumption | apply State.answer_keeps | apply State.setSpdm_keeps | apply Answers.next)
      | split | (intro _) | dsimp only

theorem execNegotiateAlgorithms_keeps (doe : Bool) (ed448 : Bool) (sha3 : Bool) (s : State) (h_s : Keeps s0 s) :
    Answers s0 (execNegotiateAlgorithms doe ed448 sha3 s) := by
  unfold execNegotiateAlgorithms
  repeat' first
      | (with_reducible first | assumption | apply State.answer_keeps | apply State.setSpdm_keeps | apply Answers.next)
      | split | (intro _) | dsimp only

theorem execGetDigests_keeps (doe : Bool) (s : State) (h_s : Keeps s0 s) :
    Answers s0 (execGetDigests doe s) := by
  unfold execGetDigests
  repeat' first
      | (with_reducible first | assumption | apply State.answer_keeps | apply Answers.next)
      | split | (intro _) | dsimp only

theorem execGetCertificate_keeps (doe : Bool) (slot : BitVec 8) (off : BitVec 16) (len : BitVec 16) (s : State) (h_s : Keeps s0 s) :
    Answers s0 (execGetCertificate doe slot off len s) := by
  unfold execGetCertificate
  repeat' first
      | (with_reducible first | assumption | apply State.answer_keeps | apply Answers.next)
      | split | (intro _) | dsimp only

theorem execChallenge_keeps (doe : Bool) (slot : BitVec 8) (nonce : List Byte) (s : State) (h_s : Keeps s0 s) :
    Answers s0 (execChallenge doe slot nonce s) := by
  unfold execChallenge
  repeat' first
      | (with_reducible first | assumption | apply State.answer_keeps | apply Answers.next)
      | split | (intro _) | dsimp only

theorem execGetMeasurements_keeps (doe : Bool) (index : BitVec 8) (nonce : Option (List Byte)) (s : State) (h_s : Keeps s0 s) :
    Answers s0 (execGetMeasurements doe index nonce s) := by
  unfold execGetMeasurements
  repeat' first
      | (with_reducible first | assumption | apply State.answer_keeps | apply Answers.next)
      | split | (intro _) | dsimp only

theorem execScoreDecay_keeps (s : State) (h_s : Keeps s0 s) :
    Answers s0 (execScoreDecay s) := by
  unfold execScoreDecay
  repeat' first
      | (with_reducible first | assumption | apply State.setScore_keeps | apply Answers.next | apply Keeps.foldl | apply Keeps.foldl1
                               | (fail_if_no_progress apply Keeps.mk))
      | split | (intro _) | dsimp only

theorem State.writeMargin_keeps (s : State) (v : Word) (h_s : Keeps s0 s) :
    Keeps s0 (State.writeMargin s v) := by
  unfold State.writeMargin
  repeat' first
      | (with_reducible first | assumption | apply State.setReg_keeps)
      | split | (intro _) | dsimp only

theorem execMarginStart_keeps (value : Word) (s : State) (h_s : Keeps s0 s) :
    Answers s0 (execMarginStart value s) := by
  unfold execMarginStart
  repeat' first
      | (with_reducible first | assumption | apply State.writeMargin_keeps | apply Answers.next)
      | split | (intro _) | dsimp only

theorem execMarginComplete_keeps (res0 : Word) (res1 : Word) (s : State) (h_s : Keeps s0 s) :
    Answers s0 (execMarginComplete res0 res1 s) := by
  unfold execMarginComplete
  repeat' first
      | (with_reducible first | assumption | apply State.setFld_keeps | apply State.setReg_keeps | apply Answers.next)
      | split | (intro _) | dsimp only

theorem State.prbsCount_keeps (s : State) (errs : List Word) (h_s : Keeps s0 s) :
    Keeps s0 (State.prbsCount s errs) := by
  unfold State.prbsCount
  repeat' first
      | (with_reducible first | assumption | apply State.bump_keeps | apply Keeps.foldl | apply Keeps.foldl1)
      | split | (intro _) | dsimp only

theorem State.writePrbs_keeps (s : State) (v : Word) (peerL4 : Bool) (errs : List Word) (h_s : Keeps s0 s) :
    Keeps s0 (State.writePrbs s v peerL4 errs) := by
  unfold State.writePrbs
  repeat' first
      | (with_reducible first | assumption | apply State.prbsCount_keeps | apply State.setReg_keeps | apply State.out_keeps
                               | apply Keeps.foldl | apply Keeps.foldl1)
      | split | (intro _) | dsimp only

theorem execPrbsEnable_keeps (value : Word) (peerL4 : Bool) (errs : List Word) (s : State) (h_s : Keeps s0 s) :
    Answers s0 (execPrbsEnable value peerL4 errs s) := by
  unfold execPrbsEnable
  repeat' first
      | (with_reducible first | assumption | apply State.writePrbs_keeps | apply Answers.next)
      | split | (intro _) | dsimp only

theorem State.lbgStop_keeps (s : State) (h_s : Keeps s0 s) :
    Keeps s0 (State.lbgStop s) := by
  unfold State.lbgStop
  repeat' first
      | (with_reducible first | assumption | (fail_if_no_progress apply Keeps.mk))
      | split | (intro _) | dsimp only

theorem State.writeLbg_keeps (s : State) (v : Word) (peerL5 : Bool) (h_s : Keeps s0 s) :
    Keeps s0 (State.writeLbg s v peerL5) := by
  unfold State.writeLbg
  repeat' first
      | (with_reducible first | assumption | apply State.setReg_keeps | apply State.lbgStop_keeps | apply State.modNport_keeps
                               | (fail_if_no_progress apply Keeps.mk))
      | split | (intro _) | dsimp only

theorem execLbgStart_keeps (value : Word) (peerL5 : Bool) (s : State) (h_s : Keeps s0 s) :
    Answers s0 (execLbgStart value peerL5 s) := by
  unfold execLbgStart
  repeat' first
      | (with_reducible first | assumption | apply State.writeLbg_keeps | apply Answers.next)
      | split | (intro _) | dsimp only

theorem execLbgComplete_keeps (s : State) (h_s : Keeps s0 s) :
    Answers s0 (execLbgComplete s) := by
  unfold execLbgComplete
  repeat' first
      | (with_reducible first | assumption | apply State.setFld_keeps | apply State.lbgStop_keeps | apply Answers.next)
      | split | (intro _) | dsimp only

theorem State.writeMemtest_keeps (s : State) (v : Word) (h_s : Keeps s0 s) :
    Keeps s0 (State.writeMemtest s v) := by
  unfold State.writeMemtest
  repeat' first
      | (with_reducible first | assumption | apply State.setReg_keeps | apply State.setFld_keeps)
      | split | (intro _) | dsimp only

theorem execMemtestStart_keeps (value : Word) (s : State) (h_s : Keeps s0 s) :
    Answers s0 (execMemtestStart value s) := by
  unfold execMemtestStart
  repeat' first
      | (with_reducible first | assumption | apply State.writeMemtest_keeps | apply Answers.next)
      | split | (intro _) | dsimp only

theorem execMemtestComplete_keeps (bad : List (BitVec 33)) (s : State) (h_s : Keeps s0 s) :
    Answers s0 (execMemtestComplete bad s) := by
  unfold execMemtestComplete
  repeat' first
      | (with_reducible first | assumption | apply State.setFld_keeps | apply State.withLp_keeps | apply State.devReady_keeps
                               | apply State.devFree_keeps | apply State.devStore_keeps | apply State.bump_keeps
                               | apply State.devCheck_keeps | apply State.setReg_keeps | apply Answers.next | apply Keeps.foldl
                               | apply Keeps.foldl1 | (fail_if_no_progress apply Keeps.mk))
      | (refine Keeps.pair (o := _) ?_ (by assumption); with_reducible apply State.devCheck_keeps)
      | split | (intro _) | dsimp only

theorem State.refreshShadows_keeps (s : State) (h_s : Keeps s0 s) :
    Keeps s0 (State.refreshShadows s) := by
  unfold State.refreshShadows
  repeat' first
      | (with_reducible first | assumption | apply Keeps.foldl | apply Keeps.foldl1 | (fail_if_no_progress apply Keeps.mk))
      | split | (intro _) | dsimp only

theorem stateOf_keeps (s0 s : State) (r : Res) (h_s : Keeps s0 s) (h_r : Answers s0 r) : Keeps s0 (stateOf s r) := by
  obtain ⟨u, rfl, h⟩ := h_r
  exact h

theorem State.plainWrite_keeps (s : State) (req : Nat) (a : RegAddr) (d : RegDesc) (v : Word) (h_s : Keeps s0 s) :
    Keeps s0 (State.plainWrite s req a d v) := by
  unfold State.plainWrite
  repeat' first
      | (with_reducible first | assumption | apply State.setReg_keeps | apply State.setUnlocked_keeps | apply State.refuseAccess_keeps)
      | split | (intro _) | dsimp only

theorem State.writeNbpCtrl_keeps (s : State) (n : Nat) (v : Word) (h_s : Keeps s0 s) :
    Keeps s0 (State.writeNbpCtrl s n v) := by
  unfold State.writeNbpCtrl
  repeat' first
      | (with_reducible first | assumption | apply State.portHaltClear_keeps | apply State.startTraining_keeps
                               | apply State.portEnable_keeps | apply State.portLoop_keeps)
      | split | (intro _) | dsimp only

theorem State.writeNbpCfg_keeps (s : State) (n : Nat) (a : RegAddr) (d : RegDesc) (v : Word) (h_s : Keeps s0 s) :
    Keeps s0 (State.writeNbpCfg s n a d v) := by
  unfold State.writeNbpCfg
  repeat' first
      | (with_reducible first | assumption | apply State.plainWrite_keeps)
      | split | (intro _) | dsimp only

theorem State.writeLdlCtrl_keeps (s : State) (l : Nat) (v : Word) (h_s : Keeps s0 s) :
    Keeps s0 (State.writeLdlCtrl s l v) := by
  unfold State.writeLdlCtrl
  repeat' first
      | (with_reducible first | assumption | apply State.ladleDisable_keeps | apply State.setFld_keeps | apply State.ladleClr_keeps
                               | apply Keeps.foldl | apply Keeps.foldl1)
      | split | (intro _) | dsimp only

theorem State.writeMap_keeps (s : State) (h : Nat) (a : RegAddr) (d : RegDesc) (v : Word) (h_s : Keeps s0 s) :
    Keeps s0 (State.writeMap s h a d v) := by
  unfold State.writeMap
  repeat' first
      | (with_reducible first | assumption | apply State.plainWrite_keeps | (fail_if_no_progress apply Keeps.mk))
      | split | (intro _) | dsimp only

theorem State.writeVtmCtrl_keeps (s : State) (v : Word) (h_s : Keeps s0 s) :
    Keeps s0 (State.writeVtmCtrl s v) := by
  unfold State.writeVtmCtrl
  repeat' first
      | (with_reducible first | assumption | apply State.snap_keeps | (fail_if_no_progress apply Keeps.mk))
      | split | (intro _) | dsimp only

theorem State.writeVtmCfg_keeps (s : State) (a : RegAddr) (d : RegDesc) (v : Word) (h_s : Keeps s0 s) :
    Keeps s0 (State.writeVtmCfg s a d v) := by
  unfold State.writeVtmCfg
  repeat' first
      | (with_reducible first | assumption | apply State.sourceChange_keeps | apply State.plainWrite_keeps)
      | split | (intro _) | dsimp only

theorem State.regApply_keeps (s : State) (req : Nat) (a : RegAddr) (d : RegDesc) (v : Word) (h_s : Keeps s0 s) :
    Keeps s0 (State.regApply s req a d v) := by
  unfold State.regApply
  extract_lets plain o
  have hp : Keeps s0 plain := by
    unfold plain
    split
    · exact h_s
    · exact State.plainWrite_keeps _ _ _ _ _ _ h_s
  clear_value plain o
  repeat' first
   | with_reducible assumption
   | with_reducible apply State.plainWrite_keeps
   | with_reducible apply State.writeCtrl_keeps
   | with_reducible apply State.setUnlocked_keeps
   | with_reducible apply State.writeSecCommit_keeps
   | with_reducible apply State.writeVtmCtrl_keeps
   | with_reducible apply State.writeVtmCfg_keeps
   | with_reducible apply State.pulseEnable_keeps
   | with_reducible apply State.writeRing_keeps
   | with_reducible apply State.writeLdlCtrl_keeps
   | with_reducible apply State.writeNbpCtrl_keeps
   | with_reducible apply State.writeNbpCfg_keeps
   | with_reducible apply State.writeOptics_keeps
   | with_reducible apply State.writeMap_keeps
   | with_reducible apply State.writeFltEpoch_keeps
   | with_reducible apply State.rankAccess_keeps
   | with_reducible apply State.writeMargin_keeps
   | with_reducible apply State.writePrbs_keeps
   | with_reducible apply State.writeLbg_keeps
   | with_reducible apply State.writeMemtest_keeps
   | with_reducible apply State.setScore_keeps
   | with_reducible apply State.clearTile_keeps
   | with_reducible apply stateOf_keeps
   | with_reducible apply execZeroFill_keeps
   | with_reducible apply State.writeTask_keeps
   | with_reducible apply State.writeRtr_keeps
   | with_reducible apply Answers.next
   | with_reducible exact Keeps.mk h_s ..
   | (with_reducible apply Keeps.ite)
   | split
   | dsimp only

theorem State.applySlow_keeps (s : State) (w : SlowWrite) (h_s : Keeps s0 s) :
    Keeps s0 (State.applySlow s w) := by
  unfold State.applySlow
  repeat' first
      | (with_reducible first | assumption | apply State.regApply_keeps)
      | split | (intro _) | dsimp only

theorem State.slowQueues_keeps (s : State) (h_s : Keeps s0 s) :
    Keeps s0 (State.slowQueues s) := by
  unfold State.slowQueues
  repeat' first
      | (with_reducible first | assumption | (fail_if_no_progress apply Keeps.mk))
      | split | (intro _) | dsimp only

theorem State.slowEffects_keeps (s : State) (h_s : Keeps s0 s) :
    Keeps s0 (State.slowEffects s) := by
  unfold State.slowEffects
  repeat' first
      | (with_reducible first | assumption | apply State.applySlow_keeps | apply State.setBit_keeps | apply Keeps.foldl
                               | apply Keeps.foldl1 | (fail_if_no_progress apply Keeps.mk))
      | split | (intro _) | dsimp only

theorem State.slowEdge_keeps (s : State) (h_s : Keeps s0 s) :
    Keeps s0 (State.slowEdge s) := by
  unfold State.slowEdge
  repeat' first
      | (with_reducible first | assumption | apply State.runPulses_keeps | apply State.slowQueues_keeps | apply State.slowEffects_keeps
                               | apply State.refreshShadows_keeps | (fail_if_no_progress apply Keeps.mk))
      | split | (intro _) | dsimp only

theorem execSlowWriteEffect_keeps (s : State) (h_s : Keeps s0 s) :
    Answers s0 (execSlowWriteEffect s) := by
  unfold execSlowWriteEffect
  repeat' first
      | (with_reducible first | assumption | apply State.slowEdge_keeps | apply Answers.next)
      | split | (intro _) | dsimp only

theorem State.queueSlow_keeps (s : State) (req : Nat) (a : RegAddr) (v : Word) (h_s : Keeps s0 s) :
    Keeps s0 (State.queueSlow s req a v) := by
  unfold State.queueSlow
  repeat' first
      | (with_reducible first | assumption | apply State.slowEdge_keeps | (fail_if_no_progress apply Keeps.mk))
      | split | (intro _) | dsimp only

theorem State.sync_keeps (s0 s : State) (req n : Nat) (h_s : Keeps s0 s) : Keeps s0 (s.sync req n) := by
  induction n generalizing s with
  | zero => exact State.slowEdge_keeps _ _ h_s
  | succ n ih =>
    unfold State.sync
    split
    · exact ih _ (State.slowEdge_keeps _ _ h_s)
    · exact State.slowEdge_keeps _ _ h_s

theorem State.idle_keeps (s : State) (h_s : Keeps s0 s) :
    Keeps s0 (State.idle s) := by
  unfold State.idle
  repeat' first
      | (with_reducible first | assumption | apply State.slowEdge_keeps | (fail_if_no_progress apply Keeps.mk))
      | split | (intro _) | dsimp only

theorem State.readDword_keeps (s : State) (req : Nat) (addr : Nat) (be : optParam (BitVec 4) 15) (h_s : Keeps s0 s) :
    Keeps s0 (State.readDword s req addr be) := by
  unfold State.readDword
  repeat' first
      | (with_reducible first | assumption | apply State.out_keeps | apply State.sync_keeps | apply State.rankAccess_keeps
                               | (fail_if_no_progress apply Keeps.mk))
      | split | (intro _) | dsimp only

theorem State.writeDword_keeps (s : State) (req : Nat) (addr : Nat) (v : Word) (h_s : Keeps s0 s) :
    Keeps s0 (State.writeDword s req addr v) := by
  unfold State.writeDword
  repeat' first
      | (with_reducible first | assumption | apply State.queueSlow_keeps | apply State.regApply_keeps)
      | split | (intro _) | dsimp only

theorem State.bar0Request_keeps (s : State) (req : Nat) (addr : Nat) (n : Nat) (write : Bool) (f : State) (h_s : Keeps s0 s) (h_f : Keeps
    s0 (f)) :
    Keeps s0 (State.bar0Request s req addr n write f) := by
  unfold State.bar0Request
  repeat' first
      | (with_reducible first | assumption | apply State.logUnsupported_keeps | apply State.out_keeps)
      | split | (intro _) | dsimp only

theorem execLoRead_keeps (req : BitVec 1) (addr : BitVec 26) (dwords : BitVec 4) (first : BitVec 4) (last : BitVec 4) (s : State) (h_s :
    Keeps s0 s) :
    Answers s0 (execLoRead req addr dwords first last s) := by
  unfold execLoRead
  repeat' first
      | (with_reducible first | assumption | apply State.bar0Request_keeps | apply State.readDword_keeps | apply Answers.next
                               | apply Keeps.foldl | apply Keeps.foldl1)
      | split | (intro _) | dsimp only

theorem execGenSync_keeps (req : BitVec 1) (s : State) (h_s : Keeps s0 s) :
    Answers s0 (execGenSync req s) := by
  unfold execGenSync
  repeat' first
      | (with_reducible first | assumption | apply State.bar0Request_keeps | apply State.readDword_keeps | apply Answers.next)
      | split | (intro _) | dsimp only

theorem execRankTableAccess_keeps (requester : BitVec 1) (value : Option Word) (s : State) (h_s : Keeps s0 s) :
    Answers s0 (execRankTableAccess requester value s) := by
  unfold execRankTableAccess
  repeat' first
      | (with_reducible first | assumption | apply State.bar0Request_keeps | apply State.readDword_keeps | apply State.writeDword_keeps
                               | apply Answers.next)
      | split | (intro _) | dsimp only

theorem execUnlock_keeps (req : BitVec 1) (mgt : Bool) (value : Word) (s : State) (h_s : Keeps s0 s) :
    Answers s0 (execUnlock req mgt value s) := by
  unfold execUnlock
  repeat' first
      | (with_reducible first | assumption | apply State.bar0Request_keeps | apply State.setUnlocked_keeps | apply Answers.next)
      | split | (intro _) | dsimp only

theorem State.refuseOversize_keeps (s : State) (req : Nat) (a : Nat) (n : Nat) (h_s : Keeps s0 s) :
    Keeps s0 (State.refuseOversize s req a n) := by
  unfold State.refuseOversize
  repeat' first
      | (with_reducible first | assumption | apply State.refuseAccess_keeps | apply State.logUnsupported_keeps)
      | split | (intro _) | dsimp only

theorem execOversizeAccess_keeps (write : Bool) (addr : BitVec 26) (dwords : BitVec 10) (s : State) (h_s : Keeps s0 s) :
    Answers s0 (execOversizeAccess write addr dwords s) := by
  unfold execOversizeAccess
  repeat' first
      | (with_reducible first | assumption | apply State.bar0Request_keeps | apply State.refuseOversize_keeps | apply State.out_keeps
                               | apply Answers.next)
      | split | (intro _) | dsimp only

theorem State.bar4Write_keeps (s : State) (o : Nat) (v : Word) (h_s : Keeps s0 s) :
    Keeps s0 (State.bar4Write s o v) := by
  unfold State.bar4Write
  repeat' first
      | (with_reducible first | assumption | apply stateOf_keeps | apply execSubmissionDoorbell_keeps
                               | apply execCompletionDoorbell_keeps | apply execEventDoorbell_keeps | apply Answers.next
                               | (fail_if_no_progress apply Keeps.mk))
      | split | (intro _) | dsimp only

theorem State.pciWrite_keeps (s : State) (x : PciItem) (v : Nat) (h_s : Keeps s0 s) :
    Keeps s0 (State.pciWrite s x v) := by
  unfold State.pciWrite
  repeat' first
      | (with_reducible first | assumption | apply State.setReg_keeps | (fail_if_no_progress apply Keeps.mk))
      | split | (intro _) | dsimp only

theorem execRegisterWrite_keeps (req : BitVec 1) (sp : HostSpace) (addr : BitVec 26) (dwords : List (Word × BitVec 4)) (s : State) (h_s :
    Keeps s0 s) :
    Answers s0 (execRegisterWrite req sp addr dwords s) := by
  unfold execRegisterWrite
  repeat' first
      | (with_reducible first | assumption | apply State.logUnsupported_keeps | apply State.bar4Write_keeps
                               | apply State.pciWrite_keeps | apply State.bar0Request_keeps | apply State.refuseOversize_keeps
                               | apply State.writeDword_keeps | apply State.refuseAccess_keeps | apply Answers.next | apply Keeps.foldl
                               | apply Keeps.foldl1)
      | split | (intro _) | dsimp only

theorem State.bar2Wake_keeps (s : State) (ps : List (Nat × Nat)) (f : State → State) (h_s : Keeps s0 s) (h_f : ∀ (y1 : State), Keeps s0
    (y1) → Keeps s0 (f y1)) :
    Keeps s0 (State.bar2Wake s ps f) := by
  unfold State.bar2Wake
  repeat' first
      | (with_reducible first | assumption | apply h_f | apply State.withLp_keeps | apply State.awaitBanks_keeps | apply Keeps.foldl
                               | apply Keeps.foldl1)
      | split | (intro _) | dsimp only

theorem State.bar2Store_keeps (s : State) (a : Nat) (bs : List Byte) (poison : Bool) (h_s : Keeps s0 s) :
    Keeps s0 (State.bar2Store s a bs poison) := by
  unfold State.bar2Store
  repeat' first
      | (with_reducible first | assumption | apply State.devFree_keeps | apply State.devStoreUnit_keeps)
      | split | (intro _) | dsimp only

theorem State.hostLoad_keeps (s : State) (o : Nat) (a : Nat) (n : Nat) (h_s : Keeps s0 s) :
    Keeps s0 (State.hostLoad s o a n) := by
  unfold State.hostLoad
  repeat' first
      | (with_reducible first | assumption | apply State.devCheck_keeps | apply State.out_keeps)
      | (refine Keeps.pair (o := _) ?_ (by assumption); with_reducible apply State.devCheck_keeps)
      | split | (intro _) | dsimp only

theorem execBar2Read_keeps (sp : HostSpace) (off : BitVec 36) (len : BitVec 13) (s : State) (h_s : Keeps s0 s) :
    Answers s0 (execBar2Read sp off len s) := by
  unfold execBar2Read
  repeat' first
      | (with_reducible first | assumption | apply State.out_keeps | apply State.bar2Wake_keeps | apply State.hostLoad_keeps
                               | apply Answers.next)
      | split | (intro _) | dsimp only

theorem execBar2Write_keeps (off : BitVec 36) (data : List Byte) (poison : Bool) (s : State) (h_s : Keeps s0 s) :
    Answers s0 (execBar2Write off data poison s) := by
  unfold execBar2Write
  repeat' first
      | (with_reducible first | assumption | apply State.logUnsupported_keeps | apply State.bar2Wake_keeps
                               | apply State.bar2Store_keeps | apply Answers.next | apply Keeps.foldl | apply Keeps.foldl1)
      | split | (intro _) | dsimp only

end Sys2Proof.Machine
end

