-- ==== Sys2Proof/Laws/State.lean ====
section
/-!
SUPPORT. The basic updates of a state, field by field: what each writes, and that it leaves every other field; and reading back what
an update wrote.
-/

namespace Sys2Proof.Machine

open Sys2Proof

/-! ## setReg -/

@[simp] theorem State.setReg_variant (s : State) (a : Nat) (w : Word) : (s.setReg a w).variant = s.variant := rfl
@[simp] theorem State.setReg_pending (s : State) (a : Nat) (w : Word) : (s.setReg a w).pending = s.pending := rfl
@[simp] theorem State.setReg_beat (s : State) (a : Nat) (w : Word) : (s.setReg a w).beat = s.beat := rfl
@[simp] theorem State.setReg_lagging (s : State) (a : Nat) (w : Word) : (s.setReg a w).lagging = s.lagging := rfl
@[simp] theorem State.setReg_freeCtr (s : State) (a : Nat) (w : Word) : (s.setReg a w).freeCtr = s.freeCtr := rfl
@[simp] theorem State.setReg_regs (s : State) (a : Nat) (w : Word) : (s.setReg a w).regs = smSet s.regs a w := rfl
@[simp] theorem State.setReg_tileMem (s : State) (a : Nat) (w : Word) : (s.setReg a w).tileMem = s.tileMem := rfl
@[simp] theorem State.setReg_devMem (s : State) (a : Nat) (w : Word) : (s.setReg a w).devMem = s.devMem := rfl
@[simp] theorem State.setReg_hostMem (s : State) (a : Nat) (w : Word) : (s.setReg a w).hostMem = s.hostMem := rfl
@[simp] theorem State.setReg_wordErr (s : State) (a : Nat) (w : Word) : (s.setReg a w).wordErr = s.wordErr := rfl
@[simp] theorem State.setReg_cwErr (s : State) (a : Nat) (w : Word) : (s.setReg a w).cwErr = s.cwErr := rfl
@[simp] theorem State.setReg_tiles (s : State) (a : Nat) (w : Word) : (s.setReg a w).tiles = s.tiles := rfl
@[simp] theorem State.setReg_routers (s : State) (a : Nat) (w : Word) : (s.setReg a w).routers = s.routers := rfl
@[simp] theorem State.setReg_clusters (s : State) (a : Nat) (w : Word) : (s.setReg a w).clusters = s.clusters := rfl
@[simp] theorem State.setReg_segs (s : State) (a : Nat) (w : Word) : (s.setReg a w).segs = s.segs := rfl
@[simp] theorem State.setReg_replays (s : State) (a : Nat) (w : Word) : (s.setReg a w).replays = s.replays := rfl
@[simp] theorem State.setReg_ports (s : State) (a : Nat) (w : Word) : (s.setReg a w).ports = s.ports := rfl
@[simp] theorem State.setReg_intakeQ (s : State) (a : Nat) (w : Word) : (s.setReg a w).intakeQ = s.intakeQ := rfl
@[simp] theorem State.setReg_termPart (s : State) (a : Nat) (w : Word) : (s.setReg a w).termPart = s.termPart := rfl
@[simp] theorem State.setReg_fenceMap (s : State) (a : Nat) (w : Word) : (s.setReg a w).fenceMap = s.fenceMap := rfl
@[simp] theorem State.setReg_power (s : State) (a : Nat) (w : Word) : (s.setReg a w).power = s.power := rfl
@[simp] theorem State.setReg_points (s : State) (a : Nat) (w : Word) : (s.setReg a w).points = s.points := rfl
@[simp] theorem State.setReg_unlocked (s : State) (a : Nat) (w : Word) : (s.setReg a w).unlocked = s.unlocked := rfl
@[simp] theorem State.setReg_vaults (s : State) (a : Nat) (w : Word) : (s.setReg a w).vaults = s.vaults := rfl
@[simp] theorem State.setReg_skillets (s : State) (a : Nat) (w : Word) : (s.setReg a w).skillets = s.skillets := rfl
@[simp] theorem State.setReg_lp (s : State) (a : Nat) (w : Word) : (s.setReg a w).lp = s.lp := rfl
@[simp] theorem State.setReg_ladles (s : State) (a : Nat) (w : Word) : (s.setReg a w).ladles = s.ladles := rfl
@[simp] theorem State.setReg_lpWrites (s : State) (a : Nat) (w : Word) : (s.setReg a w).lpWrites = s.lpWrites := rfl
@[simp] theorem State.setReg_lpReqs (s : State) (a : Nat) (w : Word) : (s.setReg a w).lpReqs = s.lpReqs := rfl
@[simp] theorem State.setReg_bfPulses (s : State) (a : Nat) (w : Word) : (s.setReg a w).bfPulses = s.bfPulses := rfl
@[simp] theorem State.setReg_events (s : State) (a : Nat) (w : Word) : (s.setReg a w).events = s.events := rfl
@[simp] theorem State.setReg_evLost (s : State) (a : Nat) (w : Word) : (s.setReg a w).evLost = s.evLost := rfl
@[simp] theorem State.setReg_alarmMap (s : State) (a : Nat) (w : Word) : (s.setReg a w).alarmMap = s.alarmMap := rfl
@[simp] theorem State.setReg_hltWarned (s : State) (a : Nat) (w : Word) : (s.setReg a w).hltWarned = s.hltWarned := rfl
@[simp] theorem State.setReg_hltAlerted (s : State) (a : Nat) (w : Word) : (s.setReg a w).hltAlerted = s.hltAlerted := rfl
@[simp] theorem State.setReg_host (s : State) (a : Nat) (w : Word) : (s.setReg a w).host = s.host := rfl
@[simp] theorem State.setReg_tm (s : State) (a : Nat) (w : Word) : (s.setReg a w).tm = s.tm := rfl
@[simp] theorem State.setReg_regions (s : State) (a : Nat) (w : Word) : (s.setReg a w).regions = s.regions := rfl
@[simp] theorem State.setReg_nports (s : State) (a : Nat) (w : Word) : (s.setReg a w).nports = s.nports := rfl
@[simp] theorem State.setReg_fleet (s : State) (a : Nat) (w : Word) : (s.setReg a w).fleet = s.fleet := rfl
@[simp] theorem State.setReg_srv (s : State) (a : Nat) (w : Word) : (s.setReg a w).srv = s.srv := rfl
@[simp] theorem State.setReg_wgt (s : State) (a : Nat) (w : Word) : (s.setReg a w).wgt = s.wgt := rfl
@[simp] theorem State.setReg_boot (s : State) (a : Nat) (w : Word) : (s.setReg a w).boot = s.boot := rfl
@[simp] theorem State.setReg_flash (s : State) (a : Nat) (w : Word) : (s.setReg a w).flash = s.flash := rfl
@[simp] theorem State.setReg_module (s : State) (a : Nat) (w : Word) : (s.setReg a w).module = s.module := rfl
@[simp] theorem State.setReg_acc (s : State) (a : Nat) (w : Word) : (s.setReg a w).acc = s.acc := rfl
@[simp] theorem State.setReg_evForward (s : State) (a : Nat) (w : Word) : (s.setReg a w).evForward = s.evForward := rfl
@[simp] theorem State.setReg_outbox (s : State) (a : Nat) (w : Word) : (s.setReg a w).outbox = s.outbox := rfl

/-! ## setTile -/

@[simp] theorem State.setTile_variant (s : State) (t : Nat) (x : TileState) : (s.setTile t x).variant = s.variant := rfl
@[simp] theorem State.setTile_pending (s : State) (t : Nat) (x : TileState) : (s.setTile t x).pending = s.pending := rfl
@[simp] theorem State.setTile_beat (s : State) (t : Nat) (x : TileState) : (s.setTile t x).beat = s.beat := rfl
@[simp] theorem State.setTile_lagging (s : State) (t : Nat) (x : TileState) : (s.setTile t x).lagging = s.lagging := rfl
@[simp] theorem State.setTile_freeCtr (s : State) (t : Nat) (x : TileState) : (s.setTile t x).freeCtr = s.freeCtr := rfl
@[simp] theorem State.setTile_regs (s : State) (t : Nat) (x : TileState) : (s.setTile t x).regs = s.regs := rfl
@[simp] theorem State.setTile_tileMem (s : State) (t : Nat) (x : TileState) : (s.setTile t x).tileMem = s.tileMem := rfl
@[simp] theorem State.setTile_devMem (s : State) (t : Nat) (x : TileState) : (s.setTile t x).devMem = s.devMem := rfl
@[simp] theorem State.setTile_hostMem (s : State) (t : Nat) (x : TileState) : (s.setTile t x).hostMem = s.hostMem := rfl
@[simp] theorem State.setTile_wordErr (s : State) (t : Nat) (x : TileState) : (s.setTile t x).wordErr = s.wordErr := rfl
@[simp] theorem State.setTile_cwErr (s : State) (t : Nat) (x : TileState) : (s.setTile t x).cwErr = s.cwErr := rfl
@[simp] theorem State.setTile_tiles (s : State) (t : Nat) (x : TileState) : (s.setTile t x).tiles = smSet s.tiles t x := rfl
@[simp] theorem State.setTile_routers (s : State) (t : Nat) (x : TileState) : (s.setTile t x).routers = s.routers := rfl
@[simp] theorem State.setTile_clusters (s : State) (t : Nat) (x : TileState) : (s.setTile t x).clusters = s.clusters := rfl
@[simp] theorem State.setTile_segs (s : State) (t : Nat) (x : TileState) : (s.setTile t x).segs = s.segs := rfl
@[simp] theorem State.setTile_replays (s : State) (t : Nat) (x : TileState) : (s.setTile t x).replays = s.replays := rfl
@[simp] theorem State.setTile_ports (s : State) (t : Nat) (x : TileState) : (s.setTile t x).ports = s.ports := rfl
@[simp] theorem State.setTile_intakeQ (s : State) (t : Nat) (x : TileState) : (s.setTile t x).intakeQ = s.intakeQ := rfl
@[simp] theorem State.setTile_termPart (s : State) (t : Nat) (x : TileState) : (s.setTile t x).termPart = s.termPart := rfl
@[simp] theorem State.setTile_fenceMap (s : State) (t : Nat) (x : TileState) : (s.setTile t x).fenceMap = s.fenceMap := rfl
@[simp] theorem State.setTile_power (s : State) (t : Nat) (x : TileState) : (s.setTile t x).power = s.power := rfl
@[simp] theorem State.setTile_points (s : State) (t : Nat) (x : TileState) : (s.setTile t x).points = s.points := rfl
@[simp] theorem State.setTile_unlocked (s : State) (t : Nat) (x : TileState) : (s.setTile t x).unlocked = s.unlocked := rfl
@[simp] theorem State.setTile_vaults (s : State) (t : Nat) (x : TileState) : (s.setTile t x).vaults = s.vaults := rfl
@[simp] theorem State.setTile_skillets (s : State) (t : Nat) (x : TileState) : (s.setTile t x).skillets = s.skillets := rfl
@[simp] theorem State.setTile_lp (s : State) (t : Nat) (x : TileState) : (s.setTile t x).lp = s.lp := rfl
@[simp] theorem State.setTile_ladles (s : State) (t : Nat) (x : TileState) : (s.setTile t x).ladles = s.ladles := rfl
@[simp] theorem State.setTile_lpWrites (s : State) (t : Nat) (x : TileState) : (s.setTile t x).lpWrites = s.lpWrites := rfl
@[simp] theorem State.setTile_lpReqs (s : State) (t : Nat) (x : TileState) : (s.setTile t x).lpReqs = s.lpReqs := rfl
@[simp] theorem State.setTile_bfPulses (s : State) (t : Nat) (x : TileState) : (s.setTile t x).bfPulses = s.bfPulses := rfl
@[simp] theorem State.setTile_events (s : State) (t : Nat) (x : TileState) : (s.setTile t x).events = s.events := rfl
@[simp] theorem State.setTile_evLost (s : State) (t : Nat) (x : TileState) : (s.setTile t x).evLost = s.evLost := rfl
@[simp] theorem State.setTile_alarmMap (s : State) (t : Nat) (x : TileState) : (s.setTile t x).alarmMap = s.alarmMap := rfl
@[simp] theorem State.setTile_hltWarned (s : State) (t : Nat) (x : TileState) : (s.setTile t x).hltWarned = s.hltWarned := rfl
@[simp] theorem State.setTile_hltAlerted (s : State) (t : Nat) (x : TileState) : (s.setTile t x).hltAlerted = s.hltAlerted := rfl
@[simp] theorem State.setTile_host (s : State) (t : Nat) (x : TileState) : (s.setTile t x).host = s.host := rfl
@[simp] theorem State.setTile_tm (s : State) (t : Nat) (x : TileState) : (s.setTile t x).tm = s.tm := rfl
@[simp] theorem State.setTile_regions (s : State) (t : Nat) (x : TileState) : (s.setTile t x).regions = s.regions := rfl
@[simp] theorem State.setTile_nports (s : State) (t : Nat) (x : TileState) : (s.setTile t x).nports = s.nports := rfl
@[simp] theorem State.setTile_fleet (s : State) (t : Nat) (x : TileState) : (s.setTile t x).fleet = s.fleet := rfl
@[simp] theorem State.setTile_srv (s : State) (t : Nat) (x : TileState) : (s.setTile t x).srv = s.srv := rfl
@[simp] theorem State.setTile_wgt (s : State) (t : Nat) (x : TileState) : (s.setTile t x).wgt = s.wgt := rfl
@[simp] theorem State.setTile_boot (s : State) (t : Nat) (x : TileState) : (s.setTile t x).boot = s.boot := rfl
@[simp] theorem State.setTile_flash (s : State) (t : Nat) (x : TileState) : (s.setTile t x).flash = s.flash := rfl
@[simp] theorem State.setTile_module (s : State) (t : Nat) (x : TileState) : (s.setTile t x).module = s.module := rfl
@[simp] theorem State.setTile_acc (s : State) (t : Nat) (x : TileState) : (s.setTile t x).acc = s.acc := rfl
@[simp] theorem State.setTile_evForward (s : State) (t : Nat) (x : TileState) : (s.setTile t x).evForward = s.evForward := rfl
@[simp] theorem State.setTile_outbox (s : State) (t : Nat) (x : TileState) : (s.setTile t x).outbox = s.outbox := rfl

/-! ## setRouter -/

@[simp] theorem State.setRouter_variant (s : State) (t : Nat) (x : RouterState) : (s.setRouter t x).variant = s.variant := rfl
@[simp] theorem State.setRouter_pending (s : State) (t : Nat) (x : RouterState) : (s.setRouter t x).pending = s.pending := rfl
@[simp] theorem State.setRouter_beat (s : State) (t : Nat) (x : RouterState) : (s.setRouter t x).beat = s.beat := rfl
@[simp] theorem State.setRouter_lagging (s : State) (t : Nat) (x : RouterState) : (s.setRouter t x).lagging = s.lagging := rfl
@[simp] theorem State.setRouter_freeCtr (s : State) (t : Nat) (x : RouterState) : (s.setRouter t x).freeCtr = s.freeCtr := rfl
@[simp] theorem State.setRouter_regs (s : State) (t : Nat) (x : RouterState) : (s.setRouter t x).regs = s.regs := rfl
@[simp] theorem State.setRouter_tileMem (s : State) (t : Nat) (x : RouterState) : (s.setRouter t x).tileMem = s.tileMem := rfl
@[simp] theorem State.setRouter_devMem (s : State) (t : Nat) (x : RouterState) : (s.setRouter t x).devMem = s.devMem := rfl
@[simp] theorem State.setRouter_hostMem (s : State) (t : Nat) (x : RouterState) : (s.setRouter t x).hostMem = s.hostMem := rfl
@[simp] theorem State.setRouter_wordErr (s : State) (t : Nat) (x : RouterState) : (s.setRouter t x).wordErr = s.wordErr := rfl
@[simp] theorem State.setRouter_cwErr (s : State) (t : Nat) (x : RouterState) : (s.setRouter t x).cwErr = s.cwErr := rfl
@[simp] theorem State.setRouter_tiles (s : State) (t : Nat) (x : RouterState) : (s.setRouter t x).tiles = s.tiles := rfl
@[simp] theorem State.setRouter_routers (s : State) (t : Nat) (x : RouterState) : (s.setRouter t x).routers = smSet s.routers t x := rfl
@[simp] theorem State.setRouter_clusters (s : State) (t : Nat) (x : RouterState) : (s.setRouter t x).clusters = s.clusters := rfl
@[simp] theorem State.setRouter_segs (s : State) (t : Nat) (x : RouterState) : (s.setRouter t x).segs = s.segs := rfl
@[simp] theorem State.setRouter_replays (s : State) (t : Nat) (x : RouterState) : (s.setRouter t x).replays = s.replays := rfl
@[simp] theorem State.setRouter_ports (s : State) (t : Nat) (x : RouterState) : (s.setRouter t x).ports = s.ports := rfl
@[simp] theorem State.setRouter_intakeQ (s : State) (t : Nat) (x : RouterState) : (s.setRouter t x).intakeQ = s.intakeQ := rfl
@[simp] theorem State.setRouter_termPart (s : State) (t : Nat) (x : RouterState) : (s.setRouter t x).termPart = s.termPart := rfl
@[simp] theorem State.setRouter_fenceMap (s : State) (t : Nat) (x : RouterState) : (s.setRouter t x).fenceMap = s.fenceMap := rfl
@[simp] theorem State.setRouter_power (s : State) (t : Nat) (x : RouterState) : (s.setRouter t x).power = s.power := rfl
@[simp] theorem State.setRouter_points (s : State) (t : Nat) (x : RouterState) : (s.setRouter t x).points = s.points := rfl
@[simp] theorem State.setRouter_unlocked (s : State) (t : Nat) (x : RouterState) : (s.setRouter t x).unlocked = s.unlocked := rfl
@[simp] theorem State.setRouter_vaults (s : State) (t : Nat) (x : RouterState) : (s.setRouter t x).vaults = s.vaults := rfl
@[simp] theorem State.setRouter_skillets (s : State) (t : Nat) (x : RouterState) : (s.setRouter t x).skillets = s.skillets := rfl
@[simp] theorem State.setRouter_lp (s : State) (t : Nat) (x : RouterState) : (s.setRouter t x).lp = s.lp := rfl
@[simp] theorem State.setRouter_ladles (s : State) (t : Nat) (x : RouterState) : (s.setRouter t x).ladles = s.ladles := rfl
@[simp] theorem State.setRouter_lpWrites (s : State) (t : Nat) (x : RouterState) : (s.setRouter t x).lpWrites = s.lpWrites := rfl
@[simp] theorem State.setRouter_lpReqs (s : State) (t : Nat) (x : RouterState) : (s.setRouter t x).lpReqs = s.lpReqs := rfl
@[simp] theorem State.setRouter_bfPulses (s : State) (t : Nat) (x : RouterState) : (s.setRouter t x).bfPulses = s.bfPulses := rfl
@[simp] theorem State.setRouter_events (s : State) (t : Nat) (x : RouterState) : (s.setRouter t x).events = s.events := rfl
@[simp] theorem State.setRouter_evLost (s : State) (t : Nat) (x : RouterState) : (s.setRouter t x).evLost = s.evLost := rfl
@[simp] theorem State.setRouter_alarmMap (s : State) (t : Nat) (x : RouterState) : (s.setRouter t x).alarmMap = s.alarmMap := rfl
@[simp] theorem State.setRouter_hltWarned (s : State) (t : Nat) (x : RouterState) : (s.setRouter t x).hltWarned = s.hltWarned := rfl
@[simp] theorem State.setRouter_hltAlerted (s : State) (t : Nat) (x : RouterState) : (s.setRouter t x).hltAlerted = s.hltAlerted := rfl
@[simp] theorem State.setRouter_host (s : State) (t : Nat) (x : RouterState) : (s.setRouter t x).host = s.host := rfl
@[simp] theorem State.setRouter_tm (s : State) (t : Nat) (x : RouterState) : (s.setRouter t x).tm = s.tm := rfl
@[simp] theorem State.setRouter_regions (s : State) (t : Nat) (x : RouterState) : (s.setRouter t x).regions = s.regions := rfl
@[simp] theorem State.setRouter_nports (s : State) (t : Nat) (x : RouterState) : (s.setRouter t x).nports = s.nports := rfl
@[simp] theorem State.setRouter_fleet (s : State) (t : Nat) (x : RouterState) : (s.setRouter t x).fleet = s.fleet := rfl
@[simp] theorem State.setRouter_srv (s : State) (t : Nat) (x : RouterState) : (s.setRouter t x).srv = s.srv := rfl
@[simp] theorem State.setRouter_wgt (s : State) (t : Nat) (x : RouterState) : (s.setRouter t x).wgt = s.wgt := rfl
@[simp] theorem State.setRouter_boot (s : State) (t : Nat) (x : RouterState) : (s.setRouter t x).boot = s.boot := rfl
@[simp] theorem State.setRouter_flash (s : State) (t : Nat) (x : RouterState) : (s.setRouter t x).flash = s.flash := rfl
@[simp] theorem State.setRouter_module (s : State) (t : Nat) (x : RouterState) : (s.setRouter t x).module = s.module := rfl
@[simp] theorem State.setRouter_acc (s : State) (t : Nat) (x : RouterState) : (s.setRouter t x).acc = s.acc := rfl
@[simp] theorem State.setRouter_evForward (s : State) (t : Nat) (x : RouterState) : (s.setRouter t x).evForward = s.evForward := rfl
@[simp] theorem State.setRouter_outbox (s : State) (t : Nat) (x : RouterState) : (s.setRouter t x).outbox = s.outbox := rfl

/-! ## setCluster -/

@[simp] theorem State.setCluster_variant (s : State) (c : Nat) (x : ClusterState) : (s.setCluster c x).variant = s.variant := rfl
@[simp] theorem State.setCluster_pending (s : State) (c : Nat) (x : ClusterState) : (s.setCluster c x).pending = s.pending := rfl
@[simp] theorem State.setCluster_beat (s : State) (c : Nat) (x : ClusterState) : (s.setCluster c x).beat = s.beat := rfl
@[simp] theorem State.setCluster_lagging (s : State) (c : Nat) (x : ClusterState) : (s.setCluster c x).lagging = s.lagging := rfl
@[simp] theorem State.setCluster_freeCtr (s : State) (c : Nat) (x : ClusterState) : (s.setCluster c x).freeCtr = s.freeCtr := rfl
@[simp] theorem State.setCluster_regs (s : State) (c : Nat) (x : ClusterState) : (s.setCluster c x).regs = s.regs := rfl
@[simp] theorem State.setCluster_tileMem (s : State) (c : Nat) (x : ClusterState) : (s.setCluster c x).tileMem = s.tileMem := rfl
@[simp] theorem State.setCluster_devMem (s : State) (c : Nat) (x : ClusterState) : (s.setCluster c x).devMem = s.devMem := rfl
@[simp] theorem State.setCluster_hostMem (s : State) (c : Nat) (x : ClusterState) : (s.setCluster c x).hostMem = s.hostMem := rfl
@[simp] theorem State.setCluster_wordErr (s : State) (c : Nat) (x : ClusterState) : (s.setCluster c x).wordErr = s.wordErr := rfl
@[simp] theorem State.setCluster_cwErr (s : State) (c : Nat) (x : ClusterState) : (s.setCluster c x).cwErr = s.cwErr := rfl
@[simp] theorem State.setCluster_tiles (s : State) (c : Nat) (x : ClusterState) : (s.setCluster c x).tiles = s.tiles := rfl
@[simp] theorem State.setCluster_routers (s : State) (c : Nat) (x : ClusterState) : (s.setCluster c x).routers = s.routers := rfl
@[simp] theorem State.setCluster_clusters (s : State) (c : Nat) (x : ClusterState) : (s.setCluster c x).clusters = smSet s.clusters c x := rfl
@[simp] theorem State.setCluster_segs (s : State) (c : Nat) (x : ClusterState) : (s.setCluster c x).segs = s.segs := rfl
@[simp] theorem State.setCluster_replays (s : State) (c : Nat) (x : ClusterState) : (s.setCluster c x).replays = s.replays := rfl
@[simp] theorem State.setCluster_ports (s : State) (c : Nat) (x : ClusterState) : (s.setCluster c x).ports = s.ports := rfl
@[simp] theorem State.setCluster_intakeQ (s : State) (c : Nat) (x : ClusterState) : (s.setCluster c x).intakeQ = s.intakeQ := rfl
@[simp] theorem State.setCluster_termPart (s : State) (c : Nat) (x : ClusterState) : (s.setCluster c x).termPart = s.termPart := rfl
@[simp] theorem State.setCluster_fenceMap (s : State) (c : Nat) (x : ClusterState) : (s.setCluster c x).fenceMap = s.fenceMap := rfl
@[simp] theorem State.setCluster_power (s : State) (c : Nat) (x : ClusterState) : (s.setCluster c x).power = s.power := rfl
@[simp] theorem State.setCluster_points (s : State) (c : Nat) (x : ClusterState) : (s.setCluster c x).points = s.points := rfl
@[simp] theorem State.setCluster_unlocked (s : State) (c : Nat) (x : ClusterState) : (s.setCluster c x).unlocked = s.unlocked := rfl
@[simp] theorem State.setCluster_vaults (s : State) (c : Nat) (x : ClusterState) : (s.setCluster c x).vaults = s.vaults := rfl
@[simp] theorem State.setCluster_skillets (s : State) (c : Nat) (x : ClusterState) : (s.setCluster c x).skillets = s.skillets := rfl
@[simp] theorem State.setCluster_lp (s : State) (c : Nat) (x : ClusterState) : (s.setCluster c x).lp = s.lp := rfl
@[simp] theorem State.setCluster_ladles (s : State) (c : Nat) (x : ClusterState) : (s.setCluster c x).ladles = s.ladles := rfl
@[simp] theorem State.setCluster_lpWrites (s : State) (c : Nat) (x : ClusterState) : (s.setCluster c x).lpWrites = s.lpWrites := rfl
@[simp] theorem State.setCluster_lpReqs (s : State) (c : Nat) (x : ClusterState) : (s.setCluster c x).lpReqs = s.lpReqs := rfl
@[simp] theorem State.setCluster_bfPulses (s : State) (c : Nat) (x : ClusterState) : (s.setCluster c x).bfPulses = s.bfPulses := rfl
@[simp] theorem State.setCluster_events (s : State) (c : Nat) (x : ClusterState) : (s.setCluster c x).events = s.events := rfl
@[simp] theorem State.setCluster_evLost (s : State) (c : Nat) (x : ClusterState) : (s.setCluster c x).evLost = s.evLost := rfl
@[simp] theorem State.setCluster_alarmMap (s : State) (c : Nat) (x : ClusterState) : (s.setCluster c x).alarmMap = s.alarmMap := rfl
@[simp] theorem State.setCluster_hltWarned (s : State) (c : Nat) (x : ClusterState) : (s.setCluster c x).hltWarned = s.hltWarned := rfl
@[simp] theorem State.setCluster_hltAlerted (s : State) (c : Nat) (x : ClusterState) : (s.setCluster c x).hltAlerted = s.hltAlerted := rfl
@[simp] theorem State.setCluster_host (s : State) (c : Nat) (x : ClusterState) : (s.setCluster c x).host = s.host := rfl
@[simp] theorem State.setCluster_tm (s : State) (c : Nat) (x : ClusterState) : (s.setCluster c x).tm = s.tm := rfl
@[simp] theorem State.setCluster_regions (s : State) (c : Nat) (x : ClusterState) : (s.setCluster c x).regions = s.regions := rfl
@[simp] theorem State.setCluster_nports (s : State) (c : Nat) (x : ClusterState) : (s.setCluster c x).nports = s.nports := rfl
@[simp] theorem State.setCluster_fleet (s : State) (c : Nat) (x : ClusterState) : (s.setCluster c x).fleet = s.fleet := rfl
@[simp] theorem State.setCluster_srv (s : State) (c : Nat) (x : ClusterState) : (s.setCluster c x).srv = s.srv := rfl
@[simp] theorem State.setCluster_wgt (s : State) (c : Nat) (x : ClusterState) : (s.setCluster c x).wgt = s.wgt := rfl
@[simp] theorem State.setCluster_boot (s : State) (c : Nat) (x : ClusterState) : (s.setCluster c x).boot = s.boot := rfl
@[simp] theorem State.setCluster_flash (s : State) (c : Nat) (x : ClusterState) : (s.setCluster c x).flash = s.flash := rfl
@[simp] theorem State.setCluster_module (s : State) (c : Nat) (x : ClusterState) : (s.setCluster c x).module = s.module := rfl
@[simp] theorem State.setCluster_acc (s : State) (c : Nat) (x : ClusterState) : (s.setCluster c x).acc = s.acc := rfl
@[simp] theorem State.setCluster_evForward (s : State) (c : Nat) (x : ClusterState) : (s.setCluster c x).evForward = s.evForward := rfl
@[simp] theorem State.setCluster_outbox (s : State) (c : Nat) (x : ClusterState) : (s.setCluster c x).outbox = s.outbox := rfl

/-! ## setVault -/

@[simp] theorem State.setVault_variant (s : State) (v : Nat) (x : VaultState) : (s.setVault v x).variant = s.variant := rfl
@[simp] theorem State.setVault_pending (s : State) (v : Nat) (x : VaultState) : (s.setVault v x).pending = s.pending := rfl
@[simp] theorem State.setVault_beat (s : State) (v : Nat) (x : VaultState) : (s.setVault v x).beat = s.beat := rfl
@[simp] theorem State.setVault_lagging (s : State) (v : Nat) (x : VaultState) : (s.setVault v x).lagging = s.lagging := rfl
@[simp] theorem State.setVault_freeCtr (s : State) (v : Nat) (x : VaultState) : (s.setVault v x).freeCtr = s.freeCtr := rfl
@[simp] theorem State.setVault_regs (s : State) (v : Nat) (x : VaultState) : (s.setVault v x).regs = s.regs := rfl
@[simp] theorem State.setVault_tileMem (s : State) (v : Nat) (x : VaultState) : (s.setVault v x).tileMem = s.tileMem := rfl
@[simp] theorem State.setVault_devMem (s : State) (v : Nat) (x : VaultState) : (s.setVault v x).devMem = s.devMem := rfl
@[simp] theorem State.setVault_hostMem (s : State) (v : Nat) (x : VaultState) : (s.setVault v x).hostMem = s.hostMem := rfl
@[simp] theorem State.setVault_wordErr (s : State) (v : Nat) (x : VaultState) : (s.setVault v x).wordErr = s.wordErr := rfl
@[simp] theorem State.setVault_cwErr (s : State) (v : Nat) (x : VaultState) : (s.setVault v x).cwErr = s.cwErr := rfl
@[simp] theorem State.setVault_tiles (s : State) (v : Nat) (x : VaultState) : (s.setVault v x).tiles = s.tiles := rfl
@[simp] theorem State.setVault_routers (s : State) (v : Nat) (x : VaultState) : (s.setVault v x).routers = s.routers := rfl
@[simp] theorem State.setVault_clusters (s : State) (v : Nat) (x : VaultState) : (s.setVault v x).clusters = s.clusters := rfl
@[simp] theorem State.setVault_segs (s : State) (v : Nat) (x : VaultState) : (s.setVault v x).segs = s.segs := rfl
@[simp] theorem State.setVault_replays (s : State) (v : Nat) (x : VaultState) : (s.setVault v x).replays = s.replays := rfl
@[simp] theorem State.setVault_ports (s : State) (v : Nat) (x : VaultState) : (s.setVault v x).ports = s.ports := rfl
@[simp] theorem State.setVault_intakeQ (s : State) (v : Nat) (x : VaultState) : (s.setVault v x).intakeQ = s.intakeQ := rfl
@[simp] theorem State.setVault_termPart (s : State) (v : Nat) (x : VaultState) : (s.setVault v x).termPart = s.termPart := rfl
@[simp] theorem State.setVault_fenceMap (s : State) (v : Nat) (x : VaultState) : (s.setVault v x).fenceMap = s.fenceMap := rfl
@[simp] theorem State.setVault_power (s : State) (v : Nat) (x : VaultState) : (s.setVault v x).power = s.power := rfl
@[simp] theorem State.setVault_points (s : State) (v : Nat) (x : VaultState) : (s.setVault v x).points = s.points := rfl
@[simp] theorem State.setVault_unlocked (s : State) (v : Nat) (x : VaultState) : (s.setVault v x).unlocked = s.unlocked := rfl
@[simp] theorem State.setVault_vaults (s : State) (v : Nat) (x : VaultState) : (s.setVault v x).vaults = smSet s.vaults v x := rfl
@[simp] theorem State.setVault_skillets (s : State) (v : Nat) (x : VaultState) : (s.setVault v x).skillets = s.skillets := rfl
@[simp] theorem State.setVault_lp (s : State) (v : Nat) (x : VaultState) : (s.setVault v x).lp = s.lp := rfl
@[simp] theorem State.setVault_ladles (s : State) (v : Nat) (x : VaultState) : (s.setVault v x).ladles = s.ladles := rfl
@[simp] theorem State.setVault_lpWrites (s : State) (v : Nat) (x : VaultState) : (s.setVault v x).lpWrites = s.lpWrites := rfl
@[simp] theorem State.setVault_lpReqs (s : State) (v : Nat) (x : VaultState) : (s.setVault v x).lpReqs = s.lpReqs := rfl
@[simp] theorem State.setVault_bfPulses (s : State) (v : Nat) (x : VaultState) : (s.setVault v x).bfPulses = s.bfPulses := rfl
@[simp] theorem State.setVault_events (s : State) (v : Nat) (x : VaultState) : (s.setVault v x).events = s.events := rfl
@[simp] theorem State.setVault_evLost (s : State) (v : Nat) (x : VaultState) : (s.setVault v x).evLost = s.evLost := rfl
@[simp] theorem State.setVault_alarmMap (s : State) (v : Nat) (x : VaultState) : (s.setVault v x).alarmMap = s.alarmMap := rfl
@[simp] theorem State.setVault_hltWarned (s : State) (v : Nat) (x : VaultState) : (s.setVault v x).hltWarned = s.hltWarned := rfl
@[simp] theorem State.setVault_hltAlerted (s : State) (v : Nat) (x : VaultState) : (s.setVault v x).hltAlerted = s.hltAlerted := rfl
@[simp] theorem State.setVault_host (s : State) (v : Nat) (x : VaultState) : (s.setVault v x).host = s.host := rfl
@[simp] theorem State.setVault_tm (s : State) (v : Nat) (x : VaultState) : (s.setVault v x).tm = s.tm := rfl
@[simp] theorem State.setVault_regions (s : State) (v : Nat) (x : VaultState) : (s.setVault v x).regions = s.regions := rfl
@[simp] theorem State.setVault_nports (s : State) (v : Nat) (x : VaultState) : (s.setVault v x).nports = s.nports := rfl
@[simp] theorem State.setVault_fleet (s : State) (v : Nat) (x : VaultState) : (s.setVault v x).fleet = s.fleet := rfl
@[simp] theorem State.setVault_srv (s : State) (v : Nat) (x : VaultState) : (s.setVault v x).srv = s.srv := rfl
@[simp] theorem State.setVault_wgt (s : State) (v : Nat) (x : VaultState) : (s.setVault v x).wgt = s.wgt := rfl
@[simp] theorem State.setVault_boot (s : State) (v : Nat) (x : VaultState) : (s.setVault v x).boot = s.boot := rfl
@[simp] theorem State.setVault_flash (s : State) (v : Nat) (x : VaultState) : (s.setVault v x).flash = s.flash := rfl
@[simp] theorem State.setVault_module (s : State) (v : Nat) (x : VaultState) : (s.setVault v x).module = s.module := rfl
@[simp] theorem State.setVault_acc (s : State) (v : Nat) (x : VaultState) : (s.setVault v x).acc = s.acc := rfl
@[simp] theorem State.setVault_evForward (s : State) (v : Nat) (x : VaultState) : (s.setVault v x).evForward = s.evForward := rfl
@[simp] theorem State.setVault_outbox (s : State) (v : Nat) (x : VaultState) : (s.setVault v x).outbox = s.outbox := rfl

/-! ## setSkillet -/

@[simp] theorem State.setSkillet_variant (s : State) (v : Nat) (x : SkilletState) : (s.setSkillet v x).variant = s.variant := rfl
@[simp] theorem State.setSkillet_pending (s : State) (v : Nat) (x : SkilletState) : (s.setSkillet v x).pending = s.pending := rfl
@[simp] theorem State.setSkillet_beat (s : State) (v : Nat) (x : SkilletState) : (s.setSkillet v x).beat = s.beat := rfl
@[simp] theorem State.setSkillet_lagging (s : State) (v : Nat) (x : SkilletState) : (s.setSkillet v x).lagging = s.lagging := rfl
@[simp] theorem State.setSkillet_freeCtr (s : State) (v : Nat) (x : SkilletState) : (s.setSkillet v x).freeCtr = s.freeCtr := rfl
@[simp] theorem State.setSkillet_regs (s : State) (v : Nat) (x : SkilletState) : (s.setSkillet v x).regs = s.regs := rfl
@[simp] theorem State.setSkillet_tileMem (s : State) (v : Nat) (x : SkilletState) : (s.setSkillet v x).tileMem = s.tileMem := rfl
@[simp] theorem State.setSkillet_devMem (s : State) (v : Nat) (x : SkilletState) : (s.setSkillet v x).devMem = s.devMem := rfl
@[simp] theorem State.setSkillet_hostMem (s : State) (v : Nat) (x : SkilletState) : (s.setSkillet v x).hostMem = s.hostMem := rfl
@[simp] theorem State.setSkillet_wordErr (s : State) (v : Nat) (x : SkilletState) : (s.setSkillet v x).wordErr = s.wordErr := rfl
@[simp] theorem State.setSkillet_cwErr (s : State) (v : Nat) (x : SkilletState) : (s.setSkillet v x).cwErr = s.cwErr := rfl
@[simp] theorem State.setSkillet_tiles (s : State) (v : Nat) (x : SkilletState) : (s.setSkillet v x).tiles = s.tiles := rfl
@[simp] theorem State.setSkillet_routers (s : State) (v : Nat) (x : SkilletState) : (s.setSkillet v x).routers = s.routers := rfl
@[simp] theorem State.setSkillet_clusters (s : State) (v : Nat) (x : SkilletState) : (s.setSkillet v x).clusters = s.clusters := rfl
@[simp] theorem State.setSkillet_segs (s : State) (v : Nat) (x : SkilletState) : (s.setSkillet v x).segs = s.segs := rfl
@[simp] theorem State.setSkillet_replays (s : State) (v : Nat) (x : SkilletState) : (s.setSkillet v x).replays = s.replays := rfl
@[simp] theorem State.setSkillet_ports (s : State) (v : Nat) (x : SkilletState) : (s.setSkillet v x).ports = s.ports := rfl
@[simp] theorem State.setSkillet_intakeQ (s : State) (v : Nat) (x : SkilletState) : (s.setSkillet v x).intakeQ = s.intakeQ := rfl
@[simp] theorem State.setSkillet_termPart (s : State) (v : Nat) (x : SkilletState) : (s.setSkillet v x).termPart = s.termPart := rfl
@[simp] theorem State.setSkillet_fenceMap (s : State) (v : Nat) (x : SkilletState) : (s.setSkillet v x).fenceMap = s.fenceMap := rfl
@[simp] theorem State.setSkillet_power (s : State) (v : Nat) (x : SkilletState) : (s.setSkillet v x).power = s.power := rfl
@[simp] theorem State.setSkillet_points (s : State) (v : Nat) (x : SkilletState) : (s.setSkillet v x).points = s.points := rfl
@[simp] theorem State.setSkillet_unlocked (s : State) (v : Nat) (x : SkilletState) : (s.setSkillet v x).unlocked = s.unlocked := rfl
@[simp] theorem State.setSkillet_vaults (s : State) (v : Nat) (x : SkilletState) : (s.setSkillet v x).vaults = s.vaults := rfl
@[simp] theorem State.setSkillet_skillets (s : State) (v : Nat) (x : SkilletState) : (s.setSkillet v x).skillets = smSet s.skillets v x := rfl
@[simp] theorem State.setSkillet_lp (s : State) (v : Nat) (x : SkilletState) : (s.setSkillet v x).lp = s.lp := rfl
@[simp] theorem State.setSkillet_ladles (s : State) (v : Nat) (x : SkilletState) : (s.setSkillet v x).ladles = s.ladles := rfl
@[simp] theorem State.setSkillet_lpWrites (s : State) (v : Nat) (x : SkilletState) : (s.setSkillet v x).lpWrites = s.lpWrites := rfl
@[simp] theorem State.setSkillet_lpReqs (s : State) (v : Nat) (x : SkilletState) : (s.setSkillet v x).lpReqs = s.lpReqs := rfl
@[simp] theorem State.setSkillet_bfPulses (s : State) (v : Nat) (x : SkilletState) : (s.setSkillet v x).bfPulses = s.bfPulses := rfl
@[simp] theorem State.setSkillet_events (s : State) (v : Nat) (x : SkilletState) : (s.setSkillet v x).events = s.events := rfl
@[simp] theorem State.setSkillet_evLost (s : State) (v : Nat) (x : SkilletState) : (s.setSkillet v x).evLost = s.evLost := rfl
@[simp] theorem State.setSkillet_alarmMap (s : State) (v : Nat) (x : SkilletState) : (s.setSkillet v x).alarmMap = s.alarmMap := rfl
@[simp] theorem State.setSkillet_hltWarned (s : State) (v : Nat) (x : SkilletState) : (s.setSkillet v x).hltWarned = s.hltWarned := rfl
@[simp] theorem State.setSkillet_hltAlerted (s : State) (v : Nat) (x : SkilletState) : (s.setSkillet v x).hltAlerted = s.hltAlerted := rfl
@[simp] theorem State.setSkillet_host (s : State) (v : Nat) (x : SkilletState) : (s.setSkillet v x).host = s.host := rfl
@[simp] theorem State.setSkillet_tm (s : State) (v : Nat) (x : SkilletState) : (s.setSkillet v x).tm = s.tm := rfl
@[simp] theorem State.setSkillet_regions (s : State) (v : Nat) (x : SkilletState) : (s.setSkillet v x).regions = s.regions := rfl
@[simp] theorem State.setSkillet_nports (s : State) (v : Nat) (x : SkilletState) : (s.setSkillet v x).nports = s.nports := rfl
@[simp] theorem State.setSkillet_fleet (s : State) (v : Nat) (x : SkilletState) : (s.setSkillet v x).fleet = s.fleet := rfl
@[simp] theorem State.setSkillet_srv (s : State) (v : Nat) (x : SkilletState) : (s.setSkillet v x).srv = s.srv := rfl
@[simp] theorem State.setSkillet_wgt (s : State) (v : Nat) (x : SkilletState) : (s.setSkillet v x).wgt = s.wgt := rfl
@[simp] theorem State.setSkillet_boot (s : State) (v : Nat) (x : SkilletState) : (s.setSkillet v x).boot = s.boot := rfl
@[simp] theorem State.setSkillet_flash (s : State) (v : Nat) (x : SkilletState) : (s.setSkillet v x).flash = s.flash := rfl
@[simp] theorem State.setSkillet_module (s : State) (v : Nat) (x : SkilletState) : (s.setSkillet v x).module = s.module := rfl
@[simp] theorem State.setSkillet_acc (s : State) (v : Nat) (x : SkilletState) : (s.setSkillet v x).acc = s.acc := rfl
@[simp] theorem State.setSkillet_evForward (s : State) (v : Nat) (x : SkilletState) : (s.setSkillet v x).evForward = s.evForward := rfl
@[simp] theorem State.setSkillet_outbox (s : State) (v : Nat) (x : SkilletState) : (s.setSkillet v x).outbox = s.outbox := rfl

/-! ## setLpch -/

@[simp] theorem State.setLpch_variant (s : State) (c : Nat) (x : LpChan) : (s.setLpch c x).variant = s.variant := rfl
@[simp] theorem State.setLpch_pending (s : State) (c : Nat) (x : LpChan) : (s.setLpch c x).pending = s.pending := rfl
@[simp] theorem State.setLpch_beat (s : State) (c : Nat) (x : LpChan) : (s.setLpch c x).beat = s.beat := rfl
@[simp] theorem State.setLpch_lagging (s : State) (c : Nat) (x : LpChan) : (s.setLpch c x).lagging = s.lagging := rfl
@[simp] theorem State.setLpch_freeCtr (s : State) (c : Nat) (x : LpChan) : (s.setLpch c x).freeCtr = s.freeCtr := rfl
@[simp] theorem State.setLpch_regs (s : State) (c : Nat) (x : LpChan) : (s.setLpch c x).regs = s.regs := rfl
@[simp] theorem State.setLpch_tileMem (s : State) (c : Nat) (x : LpChan) : (s.setLpch c x).tileMem = s.tileMem := rfl
@[simp] theorem State.setLpch_devMem (s : State) (c : Nat) (x : LpChan) : (s.setLpch c x).devMem = s.devMem := rfl
@[simp] theorem State.setLpch_hostMem (s : State) (c : Nat) (x : LpChan) : (s.setLpch c x).hostMem = s.hostMem := rfl
@[simp] theorem State.setLpch_wordErr (s : State) (c : Nat) (x : LpChan) : (s.setLpch c x).wordErr = s.wordErr := rfl
@[simp] theorem State.setLpch_cwErr (s : State) (c : Nat) (x : LpChan) : (s.setLpch c x).cwErr = s.cwErr := rfl
@[simp] theorem State.setLpch_tiles (s : State) (c : Nat) (x : LpChan) : (s.setLpch c x).tiles = s.tiles := rfl
@[simp] theorem State.setLpch_routers (s : State) (c : Nat) (x : LpChan) : (s.setLpch c x).routers = s.routers := rfl
@[simp] theorem State.setLpch_clusters (s : State) (c : Nat) (x : LpChan) : (s.setLpch c x).clusters = s.clusters := rfl
@[simp] theorem State.setLpch_segs (s : State) (c : Nat) (x : LpChan) : (s.setLpch c x).segs = s.segs := rfl
@[simp] theorem State.setLpch_replays (s : State) (c : Nat) (x : LpChan) : (s.setLpch c x).replays = s.replays := rfl
@[simp] theorem State.setLpch_ports (s : State) (c : Nat) (x : LpChan) : (s.setLpch c x).ports = s.ports := rfl
@[simp] theorem State.setLpch_intakeQ (s : State) (c : Nat) (x : LpChan) : (s.setLpch c x).intakeQ = s.intakeQ := rfl
@[simp] theorem State.setLpch_termPart (s : State) (c : Nat) (x : LpChan) : (s.setLpch c x).termPart = s.termPart := rfl
@[simp] theorem State.setLpch_fenceMap (s : State) (c : Nat) (x : LpChan) : (s.setLpch c x).fenceMap = s.fenceMap := rfl
@[simp] theorem State.setLpch_power (s : State) (c : Nat) (x : LpChan) : (s.setLpch c x).power = s.power := rfl
@[simp] theorem State.setLpch_points (s : State) (c : Nat) (x : LpChan) : (s.setLpch c x).points = s.points := rfl
@[simp] theorem State.setLpch_unlocked (s : State) (c : Nat) (x : LpChan) : (s.setLpch c x).unlocked = s.unlocked := rfl
@[simp] theorem State.setLpch_vaults (s : State) (c : Nat) (x : LpChan) : (s.setLpch c x).vaults = s.vaults := rfl
@[simp] theorem State.setLpch_skillets (s : State) (c : Nat) (x : LpChan) : (s.setLpch c x).skillets = s.skillets := rfl
@[simp] theorem State.setLpch_lp (s : State) (c : Nat) (x : LpChan) : (s.setLpch c x).lp = smSet s.lp c x := rfl
@[simp] theorem State.setLpch_ladles (s : State) (c : Nat) (x : LpChan) : (s.setLpch c x).ladles = s.ladles := rfl
@[simp] theorem State.setLpch_lpWrites (s : State) (c : Nat) (x : LpChan) : (s.setLpch c x).lpWrites = s.lpWrites := rfl
@[simp] theorem State.setLpch_lpReqs (s : State) (c : Nat) (x : LpChan) : (s.setLpch c x).lpReqs = s.lpReqs := rfl
@[simp] theorem State.setLpch_bfPulses (s : State) (c : Nat) (x : LpChan) : (s.setLpch c x).bfPulses = s.bfPulses := rfl
@[simp] theorem State.setLpch_events (s : State) (c : Nat) (x : LpChan) : (s.setLpch c x).events = s.events := rfl
@[simp] theorem State.setLpch_evLost (s : State) (c : Nat) (x : LpChan) : (s.setLpch c x).evLost = s.evLost := rfl
@[simp] theorem State.setLpch_alarmMap (s : State) (c : Nat) (x : LpChan) : (s.setLpch c x).alarmMap = s.alarmMap := rfl
@[simp] theorem State.setLpch_hltWarned (s : State) (c : Nat) (x : LpChan) : (s.setLpch c x).hltWarned = s.hltWarned := rfl
@[simp] theorem State.setLpch_hltAlerted (s : State) (c : Nat) (x : LpChan) : (s.setLpch c x).hltAlerted = s.hltAlerted := rfl
@[simp] theorem State.setLpch_host (s : State) (c : Nat) (x : LpChan) : (s.setLpch c x).host = s.host := rfl
@[simp] theorem State.setLpch_tm (s : State) (c : Nat) (x : LpChan) : (s.setLpch c x).tm = s.tm := rfl
@[simp] theorem State.setLpch_regions (s : State) (c : Nat) (x : LpChan) : (s.setLpch c x).regions = s.regions := rfl
@[simp] theorem State.setLpch_nports (s : State) (c : Nat) (x : LpChan) : (s.setLpch c x).nports = s.nports := rfl
@[simp] theorem State.setLpch_fleet (s : State) (c : Nat) (x : LpChan) : (s.setLpch c x).fleet = s.fleet := rfl
@[simp] theorem State.setLpch_srv (s : State) (c : Nat) (x : LpChan) : (s.setLpch c x).srv = s.srv := rfl
@[simp] theorem State.setLpch_wgt (s : State) (c : Nat) (x : LpChan) : (s.setLpch c x).wgt = s.wgt := rfl
@[simp] theorem State.setLpch_boot (s : State) (c : Nat) (x : LpChan) : (s.setLpch c x).boot = s.boot := rfl
@[simp] theorem State.setLpch_flash (s : State) (c : Nat) (x : LpChan) : (s.setLpch c x).flash = s.flash := rfl
@[simp] theorem State.setLpch_module (s : State) (c : Nat) (x : LpChan) : (s.setLpch c x).module = s.module := rfl
@[simp] theorem State.setLpch_acc (s : State) (c : Nat) (x : LpChan) : (s.setLpch c x).acc = s.acc := rfl
@[simp] theorem State.setLpch_evForward (s : State) (c : Nat) (x : LpChan) : (s.setLpch c x).evForward = s.evForward := rfl
@[simp] theorem State.setLpch_outbox (s : State) (c : Nat) (x : LpChan) : (s.setLpch c x).outbox = s.outbox := rfl

/-! ## setLadle -/

@[simp] theorem State.setLadle_variant (s : State) (l : Nat) (x : LadleState) : (s.setLadle l x).variant = s.variant := rfl
@[simp] theorem State.setLadle_pending (s : State) (l : Nat) (x : LadleState) : (s.setLadle l x).pending = s.pending := rfl
@[simp] theorem State.setLadle_beat (s : State) (l : Nat) (x : LadleState) : (s.setLadle l x).beat = s.beat := rfl
@[simp] theorem State.setLadle_lagging (s : State) (l : Nat) (x : LadleState) : (s.setLadle l x).lagging = s.lagging := rfl
@[simp] theorem State.setLadle_freeCtr (s : State) (l : Nat) (x : LadleState) : (s.setLadle l x).freeCtr = s.freeCtr := rfl
@[simp] theorem State.setLadle_regs (s : State) (l : Nat) (x : LadleState) : (s.setLadle l x).regs = s.regs := rfl
@[simp] theorem State.setLadle_tileMem (s : State) (l : Nat) (x : LadleState) : (s.setLadle l x).tileMem = s.tileMem := rfl
@[simp] theorem State.setLadle_devMem (s : State) (l : Nat) (x : LadleState) : (s.setLadle l x).devMem = s.devMem := rfl
@[simp] theorem State.setLadle_hostMem (s : State) (l : Nat) (x : LadleState) : (s.setLadle l x).hostMem = s.hostMem := rfl
@[simp] theorem State.setLadle_wordErr (s : State) (l : Nat) (x : LadleState) : (s.setLadle l x).wordErr = s.wordErr := rfl
@[simp] theorem State.setLadle_cwErr (s : State) (l : Nat) (x : LadleState) : (s.setLadle l x).cwErr = s.cwErr := rfl
@[simp] theorem State.setLadle_tiles (s : State) (l : Nat) (x : LadleState) : (s.setLadle l x).tiles = s.tiles := rfl
@[simp] theorem State.setLadle_routers (s : State) (l : Nat) (x : LadleState) : (s.setLadle l x).routers = s.routers := rfl
@[simp] theorem State.setLadle_clusters (s : State) (l : Nat) (x : LadleState) : (s.setLadle l x).clusters = s.clusters := rfl
@[simp] theorem State.setLadle_segs (s : State) (l : Nat) (x : LadleState) : (s.setLadle l x).segs = s.segs := rfl
@[simp] theorem State.setLadle_replays (s : State) (l : Nat) (x : LadleState) : (s.setLadle l x).replays = s.replays := rfl
@[simp] theorem State.setLadle_ports (s : State) (l : Nat) (x : LadleState) : (s.setLadle l x).ports = s.ports := rfl
@[simp] theorem State.setLadle_intakeQ (s : State) (l : Nat) (x : LadleState) : (s.setLadle l x).intakeQ = s.intakeQ := rfl
@[simp] theorem State.setLadle_termPart (s : State) (l : Nat) (x : LadleState) : (s.setLadle l x).termPart = s.termPart := rfl
@[simp] theorem State.setLadle_fenceMap (s : State) (l : Nat) (x : LadleState) : (s.setLadle l x).fenceMap = s.fenceMap := rfl
@[simp] theorem State.setLadle_power (s : State) (l : Nat) (x : LadleState) : (s.setLadle l x).power = s.power := rfl
@[simp] theorem State.setLadle_points (s : State) (l : Nat) (x : LadleState) : (s.setLadle l x).points = s.points := rfl
@[simp] theorem State.setLadle_unlocked (s : State) (l : Nat) (x : LadleState) : (s.setLadle l x).unlocked = s.unlocked := rfl
@[simp] theorem State.setLadle_vaults (s : State) (l : Nat) (x : LadleState) : (s.setLadle l x).vaults = s.vaults := rfl
@[simp] theorem State.setLadle_skillets (s : State) (l : Nat) (x : LadleState) : (s.setLadle l x).skillets = s.skillets := rfl
@[simp] theorem State.setLadle_lp (s : State) (l : Nat) (x : LadleState) : (s.setLadle l x).lp = s.lp := rfl
@[simp] theorem State.setLadle_ladles (s : State) (l : Nat) (x : LadleState) : (s.setLadle l x).ladles = smSet s.ladles l x := rfl
@[simp] theorem State.setLadle_lpWrites (s : State) (l : Nat) (x : LadleState) : (s.setLadle l x).lpWrites = s.lpWrites := rfl
@[simp] theorem State.setLadle_lpReqs (s : State) (l : Nat) (x : LadleState) : (s.setLadle l x).lpReqs = s.lpReqs := rfl
@[simp] theorem State.setLadle_bfPulses (s : State) (l : Nat) (x : LadleState) : (s.setLadle l x).bfPulses = s.bfPulses := rfl
@[simp] theorem State.setLadle_events (s : State) (l : Nat) (x : LadleState) : (s.setLadle l x).events = s.events := rfl
@[simp] theorem State.setLadle_evLost (s : State) (l : Nat) (x : LadleState) : (s.setLadle l x).evLost = s.evLost := rfl
@[simp] theorem State.setLadle_alarmMap (s : State) (l : Nat) (x : LadleState) : (s.setLadle l x).alarmMap = s.alarmMap := rfl
@[simp] theorem State.setLadle_hltWarned (s : State) (l : Nat) (x : LadleState) : (s.setLadle l x).hltWarned = s.hltWarned := rfl
@[simp] theorem State.setLadle_hltAlerted (s : State) (l : Nat) (x : LadleState) : (s.setLadle l x).hltAlerted = s.hltAlerted := rfl
@[simp] theorem State.setLadle_host (s : State) (l : Nat) (x : LadleState) : (s.setLadle l x).host = s.host := rfl
@[simp] theorem State.setLadle_tm (s : State) (l : Nat) (x : LadleState) : (s.setLadle l x).tm = s.tm := rfl
@[simp] theorem State.setLadle_regions (s : State) (l : Nat) (x : LadleState) : (s.setLadle l x).regions = s.regions := rfl
@[simp] theorem State.setLadle_nports (s : State) (l : Nat) (x : LadleState) : (s.setLadle l x).nports = s.nports := rfl
@[simp] theorem State.setLadle_fleet (s : State) (l : Nat) (x : LadleState) : (s.setLadle l x).fleet = s.fleet := rfl
@[simp] theorem State.setLadle_srv (s : State) (l : Nat) (x : LadleState) : (s.setLadle l x).srv = s.srv := rfl
@[simp] theorem State.setLadle_wgt (s : State) (l : Nat) (x : LadleState) : (s.setLadle l x).wgt = s.wgt := rfl
@[simp] theorem State.setLadle_boot (s : State) (l : Nat) (x : LadleState) : (s.setLadle l x).boot = s.boot := rfl
@[simp] theorem State.setLadle_flash (s : State) (l : Nat) (x : LadleState) : (s.setLadle l x).flash = s.flash := rfl
@[simp] theorem State.setLadle_module (s : State) (l : Nat) (x : LadleState) : (s.setLadle l x).module = s.module := rfl
@[simp] theorem State.setLadle_acc (s : State) (l : Nat) (x : LadleState) : (s.setLadle l x).acc = s.acc := rfl
@[simp] theorem State.setLadle_evForward (s : State) (l : Nat) (x : LadleState) : (s.setLadle l x).evForward = s.evForward := rfl
@[simp] theorem State.setLadle_outbox (s : State) (l : Nat) (x : LadleState) : (s.setLadle l x).outbox = s.outbox := rfl

/-! ## setPort -/

@[simp] theorem State.setPort_variant (s : State) (p : OwnPort) (x : PortOwn) : (s.setPort p x).variant = s.variant := rfl
@[simp] theorem State.setPort_pending (s : State) (p : OwnPort) (x : PortOwn) : (s.setPort p x).pending = s.pending := rfl
@[simp] theorem State.setPort_beat (s : State) (p : OwnPort) (x : PortOwn) : (s.setPort p x).beat = s.beat := rfl
@[simp] theorem State.setPort_lagging (s : State) (p : OwnPort) (x : PortOwn) : (s.setPort p x).lagging = s.lagging := rfl
@[simp] theorem State.setPort_freeCtr (s : State) (p : OwnPort) (x : PortOwn) : (s.setPort p x).freeCtr = s.freeCtr := rfl
@[simp] theorem State.setPort_regs (s : State) (p : OwnPort) (x : PortOwn) : (s.setPort p x).regs = s.regs := rfl
@[simp] theorem State.setPort_tileMem (s : State) (p : OwnPort) (x : PortOwn) : (s.setPort p x).tileMem = s.tileMem := rfl
@[simp] theorem State.setPort_devMem (s : State) (p : OwnPort) (x : PortOwn) : (s.setPort p x).devMem = s.devMem := rfl
@[simp] theorem State.setPort_hostMem (s : State) (p : OwnPort) (x : PortOwn) : (s.setPort p x).hostMem = s.hostMem := rfl
@[simp] theorem State.setPort_wordErr (s : State) (p : OwnPort) (x : PortOwn) : (s.setPort p x).wordErr = s.wordErr := rfl
@[simp] theorem State.setPort_cwErr (s : State) (p : OwnPort) (x : PortOwn) : (s.setPort p x).cwErr = s.cwErr := rfl
@[simp] theorem State.setPort_tiles (s : State) (p : OwnPort) (x : PortOwn) : (s.setPort p x).tiles = s.tiles := rfl
@[simp] theorem State.setPort_routers (s : State) (p : OwnPort) (x : PortOwn) : (s.setPort p x).routers = s.routers := rfl
@[simp] theorem State.setPort_clusters (s : State) (p : OwnPort) (x : PortOwn) : (s.setPort p x).clusters = s.clusters := rfl
@[simp] theorem State.setPort_segs (s : State) (p : OwnPort) (x : PortOwn) : (s.setPort p x).segs = s.segs := rfl
@[simp] theorem State.setPort_replays (s : State) (p : OwnPort) (x : PortOwn) : (s.setPort p x).replays = s.replays := rfl
@[simp] theorem State.setPort_ports (s : State) (p : OwnPort) (x : PortOwn) : (s.setPort p x).ports = smSet s.ports (ownKey p) x := rfl
@[simp] theorem State.setPort_intakeQ (s : State) (p : OwnPort) (x : PortOwn) : (s.setPort p x).intakeQ = s.intakeQ := rfl
@[simp] theorem State.setPort_termPart (s : State) (p : OwnPort) (x : PortOwn) : (s.setPort p x).termPart = s.termPart := rfl
@[simp] theorem State.setPort_fenceMap (s : State) (p : OwnPort) (x : PortOwn) : (s.setPort p x).fenceMap = s.fenceMap := rfl
@[simp] theorem State.setPort_power (s : State) (p : OwnPort) (x : PortOwn) : (s.setPort p x).power = s.power := rfl
@[simp] theorem State.setPort_points (s : State) (p : OwnPort) (x : PortOwn) : (s.setPort p x).points = s.points := rfl
@[simp] theorem State.setPort_unlocked (s : State) (p : OwnPort) (x : PortOwn) : (s.setPort p x).unlocked = s.unlocked := rfl
@[simp] theorem State.setPort_vaults (s : State) (p : OwnPort) (x : PortOwn) : (s.setPort p x).vaults = s.vaults := rfl
@[simp] theorem State.setPort_skillets (s : State) (p : OwnPort) (x : PortOwn) : (s.setPort p x).skillets = s.skillets := rfl
@[simp] theorem State.setPort_lp (s : State) (p : OwnPort) (x : PortOwn) : (s.setPort p x).lp = s.lp := rfl
@[simp] theorem State.setPort_ladles (s : State) (p : OwnPort) (x : PortOwn) : (s.setPort p x).ladles = s.ladles := rfl
@[simp] theorem State.setPort_lpWrites (s : State) (p : OwnPort) (x : PortOwn) : (s.setPort p x).lpWrites = s.lpWrites := rfl
@[simp] theorem State.setPort_lpReqs (s : State) (p : OwnPort) (x : PortOwn) : (s.setPort p x).lpReqs = s.lpReqs := rfl
@[simp] theorem State.setPort_bfPulses (s : State) (p : OwnPort) (x : PortOwn) : (s.setPort p x).bfPulses = s.bfPulses := rfl
@[simp] theorem State.setPort_events (s : State) (p : OwnPort) (x : PortOwn) : (s.setPort p x).events = s.events := rfl
@[simp] theorem State.setPort_evLost (s : State) (p : OwnPort) (x : PortOwn) : (s.setPort p x).evLost = s.evLost := rfl
@[simp] theorem State.setPort_alarmMap (s : State) (p : OwnPort) (x : PortOwn) : (s.setPort p x).alarmMap = s.alarmMap := rfl
@[simp] theorem State.setPort_hltWarned (s : State) (p : OwnPort) (x : PortOwn) : (s.setPort p x).hltWarned = s.hltWarned := rfl
@[simp] theorem State.setPort_hltAlerted (s : State) (p : OwnPort) (x : PortOwn) : (s.setPort p x).hltAlerted = s.hltAlerted := rfl
@[simp] theorem State.setPort_host (s : State) (p : OwnPort) (x : PortOwn) : (s.setPort p x).host = s.host := rfl
@[simp] theorem State.setPort_tm (s : State) (p : OwnPort) (x : PortOwn) : (s.setPort p x).tm = s.tm := rfl
@[simp] theorem State.setPort_regions (s : State) (p : OwnPort) (x : PortOwn) : (s.setPort p x).regions = s.regions := rfl
@[simp] theorem State.setPort_nports (s : State) (p : OwnPort) (x : PortOwn) : (s.setPort p x).nports = s.nports := rfl
@[simp] theorem State.setPort_fleet (s : State) (p : OwnPort) (x : PortOwn) : (s.setPort p x).fleet = s.fleet := rfl
@[simp] theorem State.setPort_srv (s : State) (p : OwnPort) (x : PortOwn) : (s.setPort p x).srv = s.srv := rfl
@[simp] theorem State.setPort_wgt (s : State) (p : OwnPort) (x : PortOwn) : (s.setPort p x).wgt = s.wgt := rfl
@[simp] theorem State.setPort_boot (s : State) (p : OwnPort) (x : PortOwn) : (s.setPort p x).boot = s.boot := rfl
@[simp] theorem State.setPort_flash (s : State) (p : OwnPort) (x : PortOwn) : (s.setPort p x).flash = s.flash := rfl
@[simp] theorem State.setPort_module (s : State) (p : OwnPort) (x : PortOwn) : (s.setPort p x).module = s.module := rfl
@[simp] theorem State.setPort_acc (s : State) (p : OwnPort) (x : PortOwn) : (s.setPort p x).acc = s.acc := rfl
@[simp] theorem State.setPort_evForward (s : State) (p : OwnPort) (x : PortOwn) : (s.setPort p x).evForward = s.evForward := rfl
@[simp] theorem State.setPort_outbox (s : State) (p : OwnPort) (x : PortOwn) : (s.setPort p x).outbox = s.outbox := rfl

/-! ## setRegion -/

@[simp] theorem State.setRegion_variant (s : State) (r : Nat) (x : Region) : (s.setRegion r x).variant = s.variant := rfl
@[simp] theorem State.setRegion_pending (s : State) (r : Nat) (x : Region) : (s.setRegion r x).pending = s.pending := rfl
@[simp] theorem State.setRegion_beat (s : State) (r : Nat) (x : Region) : (s.setRegion r x).beat = s.beat := rfl
@[simp] theorem State.setRegion_lagging (s : State) (r : Nat) (x : Region) : (s.setRegion r x).lagging = s.lagging := rfl
@[simp] theorem State.setRegion_freeCtr (s : State) (r : Nat) (x : Region) : (s.setRegion r x).freeCtr = s.freeCtr := rfl
@[simp] theorem State.setRegion_regs (s : State) (r : Nat) (x : Region) : (s.setRegion r x).regs = s.regs := rfl
@[simp] theorem State.setRegion_tileMem (s : State) (r : Nat) (x : Region) : (s.setRegion r x).tileMem = s.tileMem := rfl
@[simp] theorem State.setRegion_devMem (s : State) (r : Nat) (x : Region) : (s.setRegion r x).devMem = s.devMem := rfl
@[simp] theorem State.setRegion_hostMem (s : State) (r : Nat) (x : Region) : (s.setRegion r x).hostMem = s.hostMem := rfl
@[simp] theorem State.setRegion_wordErr (s : State) (r : Nat) (x : Region) : (s.setRegion r x).wordErr = s.wordErr := rfl
@[simp] theorem State.setRegion_cwErr (s : State) (r : Nat) (x : Region) : (s.setRegion r x).cwErr = s.cwErr := rfl
@[simp] theorem State.setRegion_tiles (s : State) (r : Nat) (x : Region) : (s.setRegion r x).tiles = s.tiles := rfl
@[simp] theorem State.setRegion_routers (s : State) (r : Nat) (x : Region) : (s.setRegion r x).routers = s.routers := rfl
@[simp] theorem State.setRegion_clusters (s : State) (r : Nat) (x : Region) : (s.setRegion r x).clusters = s.clusters := rfl
@[simp] theorem State.setRegion_segs (s : State) (r : Nat) (x : Region) : (s.setRegion r x).segs = s.segs := rfl
@[simp] theorem State.setRegion_replays (s : State) (r : Nat) (x : Region) : (s.setRegion r x).replays = s.replays := rfl
@[simp] theorem State.setRegion_ports (s : State) (r : Nat) (x : Region) : (s.setRegion r x).ports = s.ports := rfl
@[simp] theorem State.setRegion_intakeQ (s : State) (r : Nat) (x : Region) : (s.setRegion r x).intakeQ = s.intakeQ := rfl
@[simp] theorem State.setRegion_termPart (s : State) (r : Nat) (x : Region) : (s.setRegion r x).termPart = s.termPart := rfl
@[simp] theorem State.setRegion_fenceMap (s : State) (r : Nat) (x : Region) : (s.setRegion r x).fenceMap = s.fenceMap := rfl
@[simp] theorem State.setRegion_power (s : State) (r : Nat) (x : Region) : (s.setRegion r x).power = s.power := rfl
@[simp] theorem State.setRegion_points (s : State) (r : Nat) (x : Region) : (s.setRegion r x).points = s.points := rfl
@[simp] theorem State.setRegion_unlocked (s : State) (r : Nat) (x : Region) : (s.setRegion r x).unlocked = s.unlocked := rfl
@[simp] theorem State.setRegion_vaults (s : State) (r : Nat) (x : Region) : (s.setRegion r x).vaults = s.vaults := rfl
@[simp] theorem State.setRegion_skillets (s : State) (r : Nat) (x : Region) : (s.setRegion r x).skillets = s.skillets := rfl
@[simp] theorem State.setRegion_lp (s : State) (r : Nat) (x : Region) : (s.setRegion r x).lp = s.lp := rfl
@[simp] theorem State.setRegion_ladles (s : State) (r : Nat) (x : Region) : (s.setRegion r x).ladles = s.ladles := rfl
@[simp] theorem State.setRegion_lpWrites (s : State) (r : Nat) (x : Region) : (s.setRegion r x).lpWrites = s.lpWrites := rfl
@[simp] theorem State.setRegion_lpReqs (s : State) (r : Nat) (x : Region) : (s.setRegion r x).lpReqs = s.lpReqs := rfl
@[simp] theorem State.setRegion_bfPulses (s : State) (r : Nat) (x : Region) : (s.setRegion r x).bfPulses = s.bfPulses := rfl
@[simp] theorem State.setRegion_events (s : State) (r : Nat) (x : Region) : (s.setRegion r x).events = s.events := rfl
@[simp] theorem State.setRegion_evLost (s : State) (r : Nat) (x : Region) : (s.setRegion r x).evLost = s.evLost := rfl
@[simp] theorem State.setRegion_alarmMap (s : State) (r : Nat) (x : Region) : (s.setRegion r x).alarmMap = s.alarmMap := rfl
@[simp] theorem State.setRegion_hltWarned (s : State) (r : Nat) (x : Region) : (s.setRegion r x).hltWarned = s.hltWarned := rfl
@[simp] theorem State.setRegion_hltAlerted (s : State) (r : Nat) (x : Region) : (s.setRegion r x).hltAlerted = s.hltAlerted := rfl
@[simp] theorem State.setRegion_host (s : State) (r : Nat) (x : Region) : (s.setRegion r x).host = s.host := rfl
@[simp] theorem State.setRegion_tm (s : State) (r : Nat) (x : Region) : (s.setRegion r x).tm = s.tm := rfl
@[simp] theorem State.setRegion_regions (s : State) (r : Nat) (x : Region) : (s.setRegion r x).regions = smSet s.regions r x := rfl
@[simp] theorem State.setRegion_nports (s : State) (r : Nat) (x : Region) : (s.setRegion r x).nports = s.nports := rfl
@[simp] theorem State.setRegion_fleet (s : State) (r : Nat) (x : Region) : (s.setRegion r x).fleet = s.fleet := rfl
@[simp] theorem State.setRegion_srv (s : State) (r : Nat) (x : Region) : (s.setRegion r x).srv = s.srv := rfl
@[simp] theorem State.setRegion_wgt (s : State) (r : Nat) (x : Region) : (s.setRegion r x).wgt = s.wgt := rfl
@[simp] theorem State.setRegion_boot (s : State) (r : Nat) (x : Region) : (s.setRegion r x).boot = s.boot := rfl
@[simp] theorem State.setRegion_flash (s : State) (r : Nat) (x : Region) : (s.setRegion r x).flash = s.flash := rfl
@[simp] theorem State.setRegion_module (s : State) (r : Nat) (x : Region) : (s.setRegion r x).module = s.module := rfl
@[simp] theorem State.setRegion_acc (s : State) (r : Nat) (x : Region) : (s.setRegion r x).acc = s.acc := rfl
@[simp] theorem State.setRegion_evForward (s : State) (r : Nat) (x : Region) : (s.setRegion r x).evForward = s.evForward := rfl
@[simp] theorem State.setRegion_outbox (s : State) (r : Nat) (x : Region) : (s.setRegion r x).outbox = s.outbox := rfl

/-! ## setNport -/

@[simp] theorem State.setNport_variant (s : State) (n : Nat) (x : NPort) : (s.setNport n x).variant = s.variant := rfl
@[simp] theorem State.setNport_pending (s : State) (n : Nat) (x : NPort) : (s.setNport n x).pending = s.pending := rfl
@[simp] theorem State.setNport_beat (s : State) (n : Nat) (x : NPort) : (s.setNport n x).beat = s.beat := rfl
@[simp] theorem State.setNport_lagging (s : State) (n : Nat) (x : NPort) : (s.setNport n x).lagging = s.lagging := rfl
@[simp] theorem State.setNport_freeCtr (s : State) (n : Nat) (x : NPort) : (s.setNport n x).freeCtr = s.freeCtr := rfl
@[simp] theorem State.setNport_regs (s : State) (n : Nat) (x : NPort) : (s.setNport n x).regs = s.regs := rfl
@[simp] theorem State.setNport_tileMem (s : State) (n : Nat) (x : NPort) : (s.setNport n x).tileMem = s.tileMem := rfl
@[simp] theorem State.setNport_devMem (s : State) (n : Nat) (x : NPort) : (s.setNport n x).devMem = s.devMem := rfl
@[simp] theorem State.setNport_hostMem (s : State) (n : Nat) (x : NPort) : (s.setNport n x).hostMem = s.hostMem := rfl
@[simp] theorem State.setNport_wordErr (s : State) (n : Nat) (x : NPort) : (s.setNport n x).wordErr = s.wordErr := rfl
@[simp] theorem State.setNport_cwErr (s : State) (n : Nat) (x : NPort) : (s.setNport n x).cwErr = s.cwErr := rfl
@[simp] theorem State.setNport_tiles (s : State) (n : Nat) (x : NPort) : (s.setNport n x).tiles = s.tiles := rfl
@[simp] theorem State.setNport_routers (s : State) (n : Nat) (x : NPort) : (s.setNport n x).routers = s.routers := rfl
@[simp] theorem State.setNport_clusters (s : State) (n : Nat) (x : NPort) : (s.setNport n x).clusters = s.clusters := rfl
@[simp] theorem State.setNport_segs (s : State) (n : Nat) (x : NPort) : (s.setNport n x).segs = s.segs := rfl
@[simp] theorem State.setNport_replays (s : State) (n : Nat) (x : NPort) : (s.setNport n x).replays = s.replays := rfl
@[simp] theorem State.setNport_ports (s : State) (n : Nat) (x : NPort) : (s.setNport n x).ports = s.ports := rfl
@[simp] theorem State.setNport_intakeQ (s : State) (n : Nat) (x : NPort) : (s.setNport n x).intakeQ = s.intakeQ := rfl
@[simp] theorem State.setNport_termPart (s : State) (n : Nat) (x : NPort) : (s.setNport n x).termPart = s.termPart := rfl
@[simp] theorem State.setNport_fenceMap (s : State) (n : Nat) (x : NPort) : (s.setNport n x).fenceMap = s.fenceMap := rfl
@[simp] theorem State.setNport_power (s : State) (n : Nat) (x : NPort) : (s.setNport n x).power = s.power := rfl
@[simp] theorem State.setNport_points (s : State) (n : Nat) (x : NPort) : (s.setNport n x).points = s.points := rfl
@[simp] theorem State.setNport_unlocked (s : State) (n : Nat) (x : NPort) : (s.setNport n x).unlocked = s.unlocked := rfl
@[simp] theorem State.setNport_vaults (s : State) (n : Nat) (x : NPort) : (s.setNport n x).vaults = s.vaults := rfl
@[simp] theorem State.setNport_skillets (s : State) (n : Nat) (x : NPort) : (s.setNport n x).skillets = s.skillets := rfl
@[simp] theorem State.setNport_lp (s : State) (n : Nat) (x : NPort) : (s.setNport n x).lp = s.lp := rfl
@[simp] theorem State.setNport_ladles (s : State) (n : Nat) (x : NPort) : (s.setNport n x).ladles = s.ladles := rfl
@[simp] theorem State.setNport_lpWrites (s : State) (n : Nat) (x : NPort) : (s.setNport n x).lpWrites = s.lpWrites := rfl
@[simp] theorem State.setNport_lpReqs (s : State) (n : Nat) (x : NPort) : (s.setNport n x).lpReqs = s.lpReqs := rfl
@[simp] theorem State.setNport_bfPulses (s : State) (n : Nat) (x : NPort) : (s.setNport n x).bfPulses = s.bfPulses := rfl
@[simp] theorem State.setNport_events (s : State) (n : Nat) (x : NPort) : (s.setNport n x).events = s.events := rfl
@[simp] theorem State.setNport_evLost (s : State) (n : Nat) (x : NPort) : (s.setNport n x).evLost = s.evLost := rfl
@[simp] theorem State.setNport_alarmMap (s : State) (n : Nat) (x : NPort) : (s.setNport n x).alarmMap = s.alarmMap := rfl
@[simp] theorem State.setNport_hltWarned (s : State) (n : Nat) (x : NPort) : (s.setNport n x).hltWarned = s.hltWarned := rfl
@[simp] theorem State.setNport_hltAlerted (s : State) (n : Nat) (x : NPort) : (s.setNport n x).hltAlerted = s.hltAlerted := rfl
@[simp] theorem State.setNport_host (s : State) (n : Nat) (x : NPort) : (s.setNport n x).host = s.host := rfl
@[simp] theorem State.setNport_tm (s : State) (n : Nat) (x : NPort) : (s.setNport n x).tm = s.tm := rfl
@[simp] theorem State.setNport_regions (s : State) (n : Nat) (x : NPort) : (s.setNport n x).regions = s.regions := rfl
@[simp] theorem State.setNport_nports (s : State) (n : Nat) (x : NPort) : (s.setNport n x).nports = smSet s.nports n x := rfl
@[simp] theorem State.setNport_fleet (s : State) (n : Nat) (x : NPort) : (s.setNport n x).fleet = s.fleet := rfl
@[simp] theorem State.setNport_srv (s : State) (n : Nat) (x : NPort) : (s.setNport n x).srv = s.srv := rfl
@[simp] theorem State.setNport_wgt (s : State) (n : Nat) (x : NPort) : (s.setNport n x).wgt = s.wgt := rfl
@[simp] theorem State.setNport_boot (s : State) (n : Nat) (x : NPort) : (s.setNport n x).boot = s.boot := rfl
@[simp] theorem State.setNport_flash (s : State) (n : Nat) (x : NPort) : (s.setNport n x).flash = s.flash := rfl
@[simp] theorem State.setNport_module (s : State) (n : Nat) (x : NPort) : (s.setNport n x).module = s.module := rfl
@[simp] theorem State.setNport_acc (s : State) (n : Nat) (x : NPort) : (s.setNport n x).acc = s.acc := rfl
@[simp] theorem State.setNport_evForward (s : State) (n : Nat) (x : NPort) : (s.setNport n x).evForward = s.evForward := rfl
@[simp] theorem State.setNport_outbox (s : State) (n : Nat) (x : NPort) : (s.setNport n x).outbox = s.outbox := rfl

/-! ## tmWrite -/

@[simp] theorem State.tmWrite_variant (s : State) (a : Nat) (bs : List Byte) : (s.tmWrite a bs).variant = s.variant := rfl
@[simp] theorem State.tmWrite_pending (s : State) (a : Nat) (bs : List Byte) : (s.tmWrite a bs).pending = s.pending := rfl
@[simp] theorem State.tmWrite_beat (s : State) (a : Nat) (bs : List Byte) : (s.tmWrite a bs).beat = s.beat := rfl
@[simp] theorem State.tmWrite_lagging (s : State) (a : Nat) (bs : List Byte) : (s.tmWrite a bs).lagging = s.lagging := rfl
@[simp] theorem State.tmWrite_freeCtr (s : State) (a : Nat) (bs : List Byte) : (s.tmWrite a bs).freeCtr = s.freeCtr := rfl
@[simp] theorem State.tmWrite_regs (s : State) (a : Nat) (bs : List Byte) : (s.tmWrite a bs).regs = s.regs := rfl
@[simp] theorem State.tmWrite_tileMem (s : State) (a : Nat) (bs : List Byte) : (s.tmWrite a bs).tileMem = memWrite s.tileMem a bs := rfl
@[simp] theorem State.tmWrite_devMem (s : State) (a : Nat) (bs : List Byte) : (s.tmWrite a bs).devMem = s.devMem := rfl
@[simp] theorem State.tmWrite_hostMem (s : State) (a : Nat) (bs : List Byte) : (s.tmWrite a bs).hostMem = s.hostMem := rfl
@[simp] theorem State.tmWrite_cwErr (s : State) (a : Nat) (bs : List Byte) : (s.tmWrite a bs).cwErr = s.cwErr := rfl
@[simp] theorem State.tmWrite_tiles (s : State) (a : Nat) (bs : List Byte) : (s.tmWrite a bs).tiles = s.tiles := rfl
@[simp] theorem State.tmWrite_routers (s : State) (a : Nat) (bs : List Byte) : (s.tmWrite a bs).routers = s.routers := rfl
@[simp] theorem State.tmWrite_clusters (s : State) (a : Nat) (bs : List Byte) : (s.tmWrite a bs).clusters = s.clusters := rfl
@[simp] theorem State.tmWrite_segs (s : State) (a : Nat) (bs : List Byte) : (s.tmWrite a bs).segs = s.segs := rfl
@[simp] theorem State.tmWrite_replays (s : State) (a : Nat) (bs : List Byte) : (s.tmWrite a bs).replays = s.replays := rfl
@[simp] theorem State.tmWrite_ports (s : State) (a : Nat) (bs : List Byte) : (s.tmWrite a bs).ports = s.ports := rfl
@[simp] theorem State.tmWrite_intakeQ (s : State) (a : Nat) (bs : List Byte) : (s.tmWrite a bs).intakeQ = s.intakeQ := rfl
@[simp] theorem State.tmWrite_termPart (s : State) (a : Nat) (bs : List Byte) : (s.tmWrite a bs).termPart = s.termPart := rfl
@[simp] theorem State.tmWrite_fenceMap (s : State) (a : Nat) (bs : List Byte) : (s.tmWrite a bs).fenceMap = s.fenceMap := rfl
@[simp] theorem State.tmWrite_power (s : State) (a : Nat) (bs : List Byte) : (s.tmWrite a bs).power = s.power := rfl
@[simp] theorem State.tmWrite_points (s : State) (a : Nat) (bs : List Byte) : (s.tmWrite a bs).points = s.points := rfl
@[simp] theorem State.tmWrite_unlocked (s : State) (a : Nat) (bs : List Byte) : (s.tmWrite a bs).unlocked = s.unlocked := rfl
@[simp] theorem State.tmWrite_vaults (s : State) (a : Nat) (bs : List Byte) : (s.tmWrite a bs).vaults = s.vaults := rfl
@[simp] theorem State.tmWrite_skillets (s : State) (a : Nat) (bs : List Byte) : (s.tmWrite a bs).skillets = s.skillets := rfl
@[simp] theorem State.tmWrite_lp (s : State) (a : Nat) (bs : List Byte) : (s.tmWrite a bs).lp = s.lp := rfl
@[simp] theorem State.tmWrite_ladles (s : State) (a : Nat) (bs : List Byte) : (s.tmWrite a bs).ladles = s.ladles := rfl
@[simp] theorem State.tmWrite_lpWrites (s : State) (a : Nat) (bs : List Byte) : (s.tmWrite a bs).lpWrites = s.lpWrites := rfl
@[simp] theorem State.tmWrite_lpReqs (s : State) (a : Nat) (bs : List Byte) : (s.tmWrite a bs).lpReqs = s.lpReqs := rfl
@[simp] theorem State.tmWrite_bfPulses (s : State) (a : Nat) (bs : List Byte) : (s.tmWrite a bs).bfPulses = s.bfPulses := rfl
@[simp] theorem State.tmWrite_events (s : State) (a : Nat) (bs : List Byte) : (s.tmWrite a bs).events = s.events := rfl
@[simp] theorem State.tmWrite_evLost (s : State) (a : Nat) (bs : List Byte) : (s.tmWrite a bs).evLost = s.evLost := rfl
@[simp] theorem State.tmWrite_alarmMap (s : State) (a : Nat) (bs : List Byte) : (s.tmWrite a bs).alarmMap = s.alarmMap := rfl
@[simp] theorem State.tmWrite_hltWarned (s : State) (a : Nat) (bs : List Byte) : (s.tmWrite a bs).hltWarned = s.hltWarned := rfl
@[simp] theorem State.tmWrite_hltAlerted (s : State) (a : Nat) (bs : List Byte) : (s.tmWrite a bs).hltAlerted = s.hltAlerted := rfl
@[simp] theorem State.tmWrite_host (s : State) (a : Nat) (bs : List Byte) : (s.tmWrite a bs).host = s.host := rfl
@[simp] theorem State.tmWrite_tm (s : State) (a : Nat) (bs : List Byte) : (s.tmWrite a bs).tm = s.tm := rfl
@[simp] theorem State.tmWrite_regions (s : State) (a : Nat) (bs : List Byte) : (s.tmWrite a bs).regions = s.regions := rfl
@[simp] theorem State.tmWrite_nports (s : State) (a : Nat) (bs : List Byte) : (s.tmWrite a bs).nports = s.nports := rfl
@[simp] theorem State.tmWrite_fleet (s : State) (a : Nat) (bs : List Byte) : (s.tmWrite a bs).fleet = s.fleet := rfl
@[simp] theorem State.tmWrite_srv (s : State) (a : Nat) (bs : List Byte) : (s.tmWrite a bs).srv = s.srv := rfl
@[simp] theorem State.tmWrite_wgt (s : State) (a : Nat) (bs : List Byte) : (s.tmWrite a bs).wgt = s.wgt := rfl
@[simp] theorem State.tmWrite_boot (s : State) (a : Nat) (bs : List Byte) : (s.tmWrite a bs).boot = s.boot := rfl
@[simp] theorem State.tmWrite_flash (s : State) (a : Nat) (bs : List Byte) : (s.tmWrite a bs).flash = s.flash := rfl
@[simp] theorem State.tmWrite_module (s : State) (a : Nat) (bs : List Byte) : (s.tmWrite a bs).module = s.module := rfl
@[simp] theorem State.tmWrite_acc (s : State) (a : Nat) (bs : List Byte) : (s.tmWrite a bs).acc = s.acc := rfl
@[simp] theorem State.tmWrite_evForward (s : State) (a : Nat) (bs : List Byte) : (s.tmWrite a bs).evForward = s.evForward := rfl
@[simp] theorem State.tmWrite_outbox (s : State) (a : Nat) (bs : List Byte) : (s.tmWrite a bs).outbox = s.outbox := rfl

/-! ## dvWrite -/

@[simp] theorem State.dvWrite_variant (s : State) (a : Nat) (bs : List Byte) : (s.dvWrite a bs).variant = s.variant := rfl
@[simp] theorem State.dvWrite_pending (s : State) (a : Nat) (bs : List Byte) : (s.dvWrite a bs).pending = s.pending := rfl
@[simp] theorem State.dvWrite_beat (s : State) (a : Nat) (bs : List Byte) : (s.dvWrite a bs).beat = s.beat := rfl
@[simp] theorem State.dvWrite_lagging (s : State) (a : Nat) (bs : List Byte) : (s.dvWrite a bs).lagging = s.lagging := rfl
@[simp] theorem State.dvWrite_freeCtr (s : State) (a : Nat) (bs : List Byte) : (s.dvWrite a bs).freeCtr = s.freeCtr := rfl
@[simp] theorem State.dvWrite_regs (s : State) (a : Nat) (bs : List Byte) : (s.dvWrite a bs).regs = s.regs := rfl
@[simp] theorem State.dvWrite_tileMem (s : State) (a : Nat) (bs : List Byte) : (s.dvWrite a bs).tileMem = s.tileMem := rfl
@[simp] theorem State.dvWrite_devMem (s : State) (a : Nat) (bs : List Byte) : (s.dvWrite a bs).devMem = memWrite s.devMem a bs := rfl
@[simp] theorem State.dvWrite_hostMem (s : State) (a : Nat) (bs : List Byte) : (s.dvWrite a bs).hostMem = s.hostMem := rfl
@[simp] theorem State.dvWrite_wordErr (s : State) (a : Nat) (bs : List Byte) : (s.dvWrite a bs).wordErr = s.wordErr := rfl
@[simp] theorem State.dvWrite_tiles (s : State) (a : Nat) (bs : List Byte) : (s.dvWrite a bs).tiles = s.tiles := rfl
@[simp] theorem State.dvWrite_routers (s : State) (a : Nat) (bs : List Byte) : (s.dvWrite a bs).routers = s.routers := rfl
@[simp] theorem State.dvWrite_clusters (s : State) (a : Nat) (bs : List Byte) : (s.dvWrite a bs).clusters = s.clusters := rfl
@[simp] theorem State.dvWrite_segs (s : State) (a : Nat) (bs : List Byte) : (s.dvWrite a bs).segs = s.segs := rfl
@[simp] theorem State.dvWrite_replays (s : State) (a : Nat) (bs : List Byte) : (s.dvWrite a bs).replays = s.replays := rfl
@[simp] theorem State.dvWrite_ports (s : State) (a : Nat) (bs : List Byte) : (s.dvWrite a bs).ports = s.ports := rfl
@[simp] theorem State.dvWrite_intakeQ (s : State) (a : Nat) (bs : List Byte) : (s.dvWrite a bs).intakeQ = s.intakeQ := rfl
@[simp] theorem State.dvWrite_termPart (s : State) (a : Nat) (bs : List Byte) : (s.dvWrite a bs).termPart = s.termPart := rfl
@[simp] theorem State.dvWrite_fenceMap (s : State) (a : Nat) (bs : List Byte) : (s.dvWrite a bs).fenceMap = s.fenceMap := rfl
@[simp] theorem State.dvWrite_power (s : State) (a : Nat) (bs : List Byte) : (s.dvWrite a bs).power = s.power := rfl
@[simp] theorem State.dvWrite_points (s : State) (a : Nat) (bs : List Byte) : (s.dvWrite a bs).points = s.points := rfl
@[simp] theorem State.dvWrite_unlocked (s : State) (a : Nat) (bs : List Byte) : (s.dvWrite a bs).unlocked = s.unlocked := rfl
@[simp] theorem State.dvWrite_vaults (s : State) (a : Nat) (bs : List Byte) : (s.dvWrite a bs).vaults = s.vaults := rfl
@[simp] theorem State.dvWrite_skillets (s : State) (a : Nat) (bs : List Byte) : (s.dvWrite a bs).skillets = s.skillets := rfl
@[simp] theorem State.dvWrite_lp (s : State) (a : Nat) (bs : List Byte) : (s.dvWrite a bs).lp = s.lp := rfl
@[simp] theorem State.dvWrite_ladles (s : State) (a : Nat) (bs : List Byte) : (s.dvWrite a bs).ladles = s.ladles := rfl
@[simp] theorem State.dvWrite_lpWrites (s : State) (a : Nat) (bs : List Byte) : (s.dvWrite a bs).lpWrites = s.lpWrites := rfl
@[simp] theorem State.dvWrite_lpReqs (s : State) (a : Nat) (bs : List Byte) : (s.dvWrite a bs).lpReqs = s.lpReqs := rfl
@[simp] theorem State.dvWrite_bfPulses (s : State) (a : Nat) (bs : List Byte) : (s.dvWrite a bs).bfPulses = s.bfPulses := rfl
@[simp] theorem State.dvWrite_events (s : State) (a : Nat) (bs : List Byte) : (s.dvWrite a bs).events = s.events := rfl
@[simp] theorem State.dvWrite_evLost (s : State) (a : Nat) (bs : List Byte) : (s.dvWrite a bs).evLost = s.evLost := rfl
@[simp] theorem State.dvWrite_alarmMap (s : State) (a : Nat) (bs : List Byte) : (s.dvWrite a bs).alarmMap = s.alarmMap := rfl
@[simp] theorem State.dvWrite_hltWarned (s : State) (a : Nat) (bs : List Byte) : (s.dvWrite a bs).hltWarned = s.hltWarned := rfl
@[simp] theorem State.dvWrite_hltAlerted (s : State) (a : Nat) (bs : List Byte) : (s.dvWrite a bs).hltAlerted = s.hltAlerted := rfl
@[simp] theorem State.dvWrite_host (s : State) (a : Nat) (bs : List Byte) : (s.dvWrite a bs).host = s.host := rfl
@[simp] theorem State.dvWrite_tm (s : State) (a : Nat) (bs : List Byte) : (s.dvWrite a bs).tm = s.tm := rfl
@[simp] theorem State.dvWrite_regions (s : State) (a : Nat) (bs : List Byte) : (s.dvWrite a bs).regions = s.regions := rfl
@[simp] theorem State.dvWrite_nports (s : State) (a : Nat) (bs : List Byte) : (s.dvWrite a bs).nports = s.nports := rfl
@[simp] theorem State.dvWrite_fleet (s : State) (a : Nat) (bs : List Byte) : (s.dvWrite a bs).fleet = s.fleet := rfl
@[simp] theorem State.dvWrite_srv (s : State) (a : Nat) (bs : List Byte) : (s.dvWrite a bs).srv = s.srv := rfl
@[simp] theorem State.dvWrite_wgt (s : State) (a : Nat) (bs : List Byte) : (s.dvWrite a bs).wgt = s.wgt := rfl
@[simp] theorem State.dvWrite_boot (s : State) (a : Nat) (bs : List Byte) : (s.dvWrite a bs).boot = s.boot := rfl
@[simp] theorem State.dvWrite_flash (s : State) (a : Nat) (bs : List Byte) : (s.dvWrite a bs).flash = s.flash := rfl
@[simp] theorem State.dvWrite_module (s : State) (a : Nat) (bs : List Byte) : (s.dvWrite a bs).module = s.module := rfl
@[simp] theorem State.dvWrite_acc (s : State) (a : Nat) (bs : List Byte) : (s.dvWrite a bs).acc = s.acc := rfl
@[simp] theorem State.dvWrite_evForward (s : State) (a : Nat) (bs : List Byte) : (s.dvWrite a bs).evForward = s.evForward := rfl
@[simp] theorem State.dvWrite_outbox (s : State) (a : Nat) (bs : List Byte) : (s.dvWrite a bs).outbox = s.outbox := rfl

/-! ## hostWrite -/

@[simp] theorem State.hostWrite_variant (s : State) (a : Nat) (bs : List Byte) : (s.hostWrite a bs).variant = s.variant := rfl
@[simp] theorem State.hostWrite_pending (s : State) (a : Nat) (bs : List Byte) : (s.hostWrite a bs).pending = s.pending := rfl
@[simp] theorem State.hostWrite_beat (s : State) (a : Nat) (bs : List Byte) : (s.hostWrite a bs).beat = s.beat := rfl
@[simp] theorem State.hostWrite_lagging (s : State) (a : Nat) (bs : List Byte) : (s.hostWrite a bs).lagging = s.lagging := rfl
@[simp] theorem State.hostWrite_freeCtr (s : State) (a : Nat) (bs : List Byte) : (s.hostWrite a bs).freeCtr = s.freeCtr := rfl
@[simp] theorem State.hostWrite_regs (s : State) (a : Nat) (bs : List Byte) : (s.hostWrite a bs).regs = s.regs := rfl
@[simp] theorem State.hostWrite_tileMem (s : State) (a : Nat) (bs : List Byte) : (s.hostWrite a bs).tileMem = s.tileMem := rfl
@[simp] theorem State.hostWrite_devMem (s : State) (a : Nat) (bs : List Byte) : (s.hostWrite a bs).devMem = s.devMem := rfl
@[simp] theorem State.hostWrite_hostMem (s : State) (a : Nat) (bs : List Byte) : (s.hostWrite a bs).hostMem = memWrite s.hostMem a bs := rfl
@[simp] theorem State.hostWrite_wordErr (s : State) (a : Nat) (bs : List Byte) : (s.hostWrite a bs).wordErr = s.wordErr := rfl
@[simp] theorem State.hostWrite_cwErr (s : State) (a : Nat) (bs : List Byte) : (s.hostWrite a bs).cwErr = s.cwErr := rfl
@[simp] theorem State.hostWrite_tiles (s : State) (a : Nat) (bs : List Byte) : (s.hostWrite a bs).tiles = s.tiles := rfl
@[simp] theorem State.hostWrite_routers (s : State) (a : Nat) (bs : List Byte) : (s.hostWrite a bs).routers = s.routers := rfl
@[simp] theorem State.hostWrite_clusters (s : State) (a : Nat) (bs : List Byte) : (s.hostWrite a bs).clusters = s.clusters := rfl
@[simp] theorem State.hostWrite_segs (s : State) (a : Nat) (bs : List Byte) : (s.hostWrite a bs).segs = s.segs := rfl
@[simp] theorem State.hostWrite_replays (s : State) (a : Nat) (bs : List Byte) : (s.hostWrite a bs).replays = s.replays := rfl
@[simp] theorem State.hostWrite_ports (s : State) (a : Nat) (bs : List Byte) : (s.hostWrite a bs).ports = s.ports := rfl
@[simp] theorem State.hostWrite_intakeQ (s : State) (a : Nat) (bs : List Byte) : (s.hostWrite a bs).intakeQ = s.intakeQ := rfl
@[simp] theorem State.hostWrite_termPart (s : State) (a : Nat) (bs : List Byte) : (s.hostWrite a bs).termPart = s.termPart := rfl
@[simp] theorem State.hostWrite_fenceMap (s : State) (a : Nat) (bs : List Byte) : (s.hostWrite a bs).fenceMap = s.fenceMap := rfl
@[simp] theorem State.hostWrite_power (s : State) (a : Nat) (bs : List Byte) : (s.hostWrite a bs).power = s.power := rfl
@[simp] theorem State.hostWrite_points (s : State) (a : Nat) (bs : List Byte) : (s.hostWrite a bs).points = s.points := rfl
@[simp] theorem State.hostWrite_unlocked (s : State) (a : Nat) (bs : List Byte) : (s.hostWrite a bs).unlocked = s.unlocked := rfl
@[simp] theorem State.hostWrite_vaults (s : State) (a : Nat) (bs : List Byte) : (s.hostWrite a bs).vaults = s.vaults := rfl
@[simp] theorem State.hostWrite_skillets (s : State) (a : Nat) (bs : List Byte) : (s.hostWrite a bs).skillets = s.skillets := rfl
@[simp] theorem State.hostWrite_lp (s : State) (a : Nat) (bs : List Byte) : (s.hostWrite a bs).lp = s.lp := rfl
@[simp] theorem State.hostWrite_ladles (s : State) (a : Nat) (bs : List Byte) : (s.hostWrite a bs).ladles = s.ladles := rfl
@[simp] theorem State.hostWrite_lpWrites (s : State) (a : Nat) (bs : List Byte) : (s.hostWrite a bs).lpWrites = s.lpWrites := rfl
@[simp] theorem State.hostWrite_lpReqs (s : State) (a : Nat) (bs : List Byte) : (s.hostWrite a bs).lpReqs = s.lpReqs := rfl
@[simp] theorem State.hostWrite_bfPulses (s : State) (a : Nat) (bs : List Byte) : (s.hostWrite a bs).bfPulses = s.bfPulses := rfl
@[simp] theorem State.hostWrite_events (s : State) (a : Nat) (bs : List Byte) : (s.hostWrite a bs).events = s.events := rfl
@[simp] theorem State.hostWrite_evLost (s : State) (a : Nat) (bs : List Byte) : (s.hostWrite a bs).evLost = s.evLost := rfl
@[simp] theorem State.hostWrite_alarmMap (s : State) (a : Nat) (bs : List Byte) : (s.hostWrite a bs).alarmMap = s.alarmMap := rfl
@[simp] theorem State.hostWrite_hltWarned (s : State) (a : Nat) (bs : List Byte) : (s.hostWrite a bs).hltWarned = s.hltWarned := rfl
@[simp] theorem State.hostWrite_hltAlerted (s : State) (a : Nat) (bs : List Byte) : (s.hostWrite a bs).hltAlerted = s.hltAlerted := rfl
@[simp] theorem State.hostWrite_host (s : State) (a : Nat) (bs : List Byte) : (s.hostWrite a bs).host = s.host := rfl
@[simp] theorem State.hostWrite_tm (s : State) (a : Nat) (bs : List Byte) : (s.hostWrite a bs).tm = s.tm := rfl
@[simp] theorem State.hostWrite_regions (s : State) (a : Nat) (bs : List Byte) : (s.hostWrite a bs).regions = s.regions := rfl
@[simp] theorem State.hostWrite_nports (s : State) (a : Nat) (bs : List Byte) : (s.hostWrite a bs).nports = s.nports := rfl
@[simp] theorem State.hostWrite_fleet (s : State) (a : Nat) (bs : List Byte) : (s.hostWrite a bs).fleet = s.fleet := rfl
@[simp] theorem State.hostWrite_srv (s : State) (a : Nat) (bs : List Byte) : (s.hostWrite a bs).srv = s.srv := rfl
@[simp] theorem State.hostWrite_wgt (s : State) (a : Nat) (bs : List Byte) : (s.hostWrite a bs).wgt = s.wgt := rfl
@[simp] theorem State.hostWrite_boot (s : State) (a : Nat) (bs : List Byte) : (s.hostWrite a bs).boot = s.boot := rfl
@[simp] theorem State.hostWrite_flash (s : State) (a : Nat) (bs : List Byte) : (s.hostWrite a bs).flash = s.flash := rfl
@[simp] theorem State.hostWrite_module (s : State) (a : Nat) (bs : List Byte) : (s.hostWrite a bs).module = s.module := rfl
@[simp] theorem State.hostWrite_acc (s : State) (a : Nat) (bs : List Byte) : (s.hostWrite a bs).acc = s.acc := rfl
@[simp] theorem State.hostWrite_evForward (s : State) (a : Nat) (bs : List Byte) : (s.hostWrite a bs).evForward = s.evForward := rfl
@[simp] theorem State.hostWrite_outbox (s : State) (a : Nat) (bs : List Byte) : (s.hostWrite a bs).outbox = s.outbox := rfl

/-! ## out -/

@[simp] theorem State.out_variant (s : State) (o : Out) : (s.out o).variant = s.variant := rfl
@[simp] theorem State.out_pending (s : State) (o : Out) : (s.out o).pending = s.pending := rfl
@[simp] theorem State.out_beat (s : State) (o : Out) : (s.out o).beat = s.beat := rfl
@[simp] theorem State.out_lagging (s : State) (o : Out) : (s.out o).lagging = s.lagging := rfl
@[simp] theorem State.out_freeCtr (s : State) (o : Out) : (s.out o).freeCtr = s.freeCtr := rfl
@[simp] theorem State.out_regs (s : State) (o : Out) : (s.out o).regs = s.regs := rfl
@[simp] theorem State.out_tileMem (s : State) (o : Out) : (s.out o).tileMem = s.tileMem := rfl
@[simp] theorem State.out_devMem (s : State) (o : Out) : (s.out o).devMem = s.devMem := rfl
@[simp] theorem State.out_hostMem (s : State) (o : Out) : (s.out o).hostMem = s.hostMem := rfl
@[simp] theorem State.out_wordErr (s : State) (o : Out) : (s.out o).wordErr = s.wordErr := rfl
@[simp] theorem State.out_cwErr (s : State) (o : Out) : (s.out o).cwErr = s.cwErr := rfl
@[simp] theorem State.out_tiles (s : State) (o : Out) : (s.out o).tiles = s.tiles := rfl
@[simp] theorem State.out_routers (s : State) (o : Out) : (s.out o).routers = s.routers := rfl
@[simp] theorem State.out_clusters (s : State) (o : Out) : (s.out o).clusters = s.clusters := rfl
@[simp] theorem State.out_segs (s : State) (o : Out) : (s.out o).segs = s.segs := rfl
@[simp] theorem State.out_replays (s : State) (o : Out) : (s.out o).replays = s.replays := rfl
@[simp] theorem State.out_ports (s : State) (o : Out) : (s.out o).ports = s.ports := rfl
@[simp] theorem State.out_intakeQ (s : State) (o : Out) : (s.out o).intakeQ = s.intakeQ := rfl
@[simp] theorem State.out_termPart (s : State) (o : Out) : (s.out o).termPart = s.termPart := rfl
@[simp] theorem State.out_fenceMap (s : State) (o : Out) : (s.out o).fenceMap = s.fenceMap := rfl
@[simp] theorem State.out_power (s : State) (o : Out) : (s.out o).power = s.power := rfl
@[simp] theorem State.out_points (s : State) (o : Out) : (s.out o).points = s.points := rfl
@[simp] theorem State.out_unlocked (s : State) (o : Out) : (s.out o).unlocked = s.unlocked := rfl
@[simp] theorem State.out_vaults (s : State) (o : Out) : (s.out o).vaults = s.vaults := rfl
@[simp] theorem State.out_skillets (s : State) (o : Out) : (s.out o).skillets = s.skillets := rfl
@[simp] theorem State.out_lp (s : State) (o : Out) : (s.out o).lp = s.lp := rfl
@[simp] theorem State.out_ladles (s : State) (o : Out) : (s.out o).ladles = s.ladles := rfl
@[simp] theorem State.out_lpWrites (s : State) (o : Out) : (s.out o).lpWrites = s.lpWrites := rfl
@[simp] theorem State.out_lpReqs (s : State) (o : Out) : (s.out o).lpReqs = s.lpReqs := rfl
@[simp] theorem State.out_bfPulses (s : State) (o : Out) : (s.out o).bfPulses = s.bfPulses := rfl
@[simp] theorem State.out_events (s : State) (o : Out) : (s.out o).events = s.events := rfl
@[simp] theorem State.out_evLost (s : State) (o : Out) : (s.out o).evLost = s.evLost := rfl
@[simp] theorem State.out_alarmMap (s : State) (o : Out) : (s.out o).alarmMap = s.alarmMap := rfl
@[simp] theorem State.out_hltWarned (s : State) (o : Out) : (s.out o).hltWarned = s.hltWarned := rfl
@[simp] theorem State.out_hltAlerted (s : State) (o : Out) : (s.out o).hltAlerted = s.hltAlerted := rfl
@[simp] theorem State.out_host (s : State) (o : Out) : (s.out o).host = s.host := rfl
@[simp] theorem State.out_tm (s : State) (o : Out) : (s.out o).tm = s.tm := rfl
@[simp] theorem State.out_regions (s : State) (o : Out) : (s.out o).regions = s.regions := rfl
@[simp] theorem State.out_nports (s : State) (o : Out) : (s.out o).nports = s.nports := rfl
@[simp] theorem State.out_fleet (s : State) (o : Out) : (s.out o).fleet = s.fleet := rfl
@[simp] theorem State.out_srv (s : State) (o : Out) : (s.out o).srv = s.srv := rfl
@[simp] theorem State.out_wgt (s : State) (o : Out) : (s.out o).wgt = s.wgt := rfl
@[simp] theorem State.out_boot (s : State) (o : Out) : (s.out o).boot = s.boot := rfl
@[simp] theorem State.out_flash (s : State) (o : Out) : (s.out o).flash = s.flash := rfl
@[simp] theorem State.out_module (s : State) (o : Out) : (s.out o).module = s.module := rfl
@[simp] theorem State.out_acc (s : State) (o : Out) : (s.out o).acc = s.acc := rfl
@[simp] theorem State.out_evForward (s : State) (o : Out) : (s.out o).evForward = s.evForward := rfl
@[simp] theorem State.out_outbox (s : State) (o : Out) : (s.out o).outbox = s.outbox ++ [o] := rfl

/-! ## setPulse -/

@[simp] theorem State.setPulse_variant (s : State) (k : Nat) (p : Pulse) : (s.setPulse k p).variant = s.variant := rfl
@[simp] theorem State.setPulse_pending (s : State) (k : Nat) (p : Pulse) : (s.setPulse k p).pending = s.pending := rfl
@[simp] theorem State.setPulse_beat (s : State) (k : Nat) (p : Pulse) : (s.setPulse k p).beat = s.beat := rfl
@[simp] theorem State.setPulse_lagging (s : State) (k : Nat) (p : Pulse) : (s.setPulse k p).lagging = s.lagging := rfl
@[simp] theorem State.setPulse_freeCtr (s : State) (k : Nat) (p : Pulse) : (s.setPulse k p).freeCtr = s.freeCtr := rfl
@[simp] theorem State.setPulse_regs (s : State) (k : Nat) (p : Pulse) : (s.setPulse k p).regs = s.regs := rfl
@[simp] theorem State.setPulse_tileMem (s : State) (k : Nat) (p : Pulse) : (s.setPulse k p).tileMem = s.tileMem := rfl
@[simp] theorem State.setPulse_devMem (s : State) (k : Nat) (p : Pulse) : (s.setPulse k p).devMem = s.devMem := rfl
@[simp] theorem State.setPulse_hostMem (s : State) (k : Nat) (p : Pulse) : (s.setPulse k p).hostMem = s.hostMem := rfl
@[simp] theorem State.setPulse_wordErr (s : State) (k : Nat) (p : Pulse) : (s.setPulse k p).wordErr = s.wordErr := rfl
@[simp] theorem State.setPulse_cwErr (s : State) (k : Nat) (p : Pulse) : (s.setPulse k p).cwErr = s.cwErr := rfl
@[simp] theorem State.setPulse_tiles (s : State) (k : Nat) (p : Pulse) : (s.setPulse k p).tiles = s.tiles := rfl
@[simp] theorem State.setPulse_routers (s : State) (k : Nat) (p : Pulse) : (s.setPulse k p).routers = s.routers := rfl
@[simp] theorem State.setPulse_clusters (s : State) (k : Nat) (p : Pulse) : (s.setPulse k p).clusters = s.clusters := rfl
@[simp] theorem State.setPulse_segs (s : State) (k : Nat) (p : Pulse) : (s.setPulse k p).segs = s.segs := rfl
@[simp] theorem State.setPulse_replays (s : State) (k : Nat) (p : Pulse) : (s.setPulse k p).replays = s.replays := rfl
@[simp] theorem State.setPulse_ports (s : State) (k : Nat) (p : Pulse) : (s.setPulse k p).ports = s.ports := rfl
@[simp] theorem State.setPulse_intakeQ (s : State) (k : Nat) (p : Pulse) : (s.setPulse k p).intakeQ = s.intakeQ := rfl
@[simp] theorem State.setPulse_termPart (s : State) (k : Nat) (p : Pulse) : (s.setPulse k p).termPart = s.termPart := rfl
@[simp] theorem State.setPulse_fenceMap (s : State) (k : Nat) (p : Pulse) : (s.setPulse k p).fenceMap = s.fenceMap := rfl
@[simp] theorem State.setPulse_power (s : State) (k : Nat) (p : Pulse) : (s.setPulse k p).power = s.power := rfl
@[simp] theorem State.setPulse_points (s : State) (k : Nat) (p : Pulse) : (s.setPulse k p).points = s.points := rfl
@[simp] theorem State.setPulse_unlocked (s : State) (k : Nat) (p : Pulse) : (s.setPulse k p).unlocked = s.unlocked := rfl
@[simp] theorem State.setPulse_vaults (s : State) (k : Nat) (p : Pulse) : (s.setPulse k p).vaults = s.vaults := rfl
@[simp] theorem State.setPulse_skillets (s : State) (k : Nat) (p : Pulse) : (s.setPulse k p).skillets = s.skillets := rfl
@[simp] theorem State.setPulse_lp (s : State) (k : Nat) (p : Pulse) : (s.setPulse k p).lp = s.lp := rfl
@[simp] theorem State.setPulse_ladles (s : State) (k : Nat) (p : Pulse) : (s.setPulse k p).ladles = s.ladles := rfl
@[simp] theorem State.setPulse_lpWrites (s : State) (k : Nat) (p : Pulse) : (s.setPulse k p).lpWrites = s.lpWrites := rfl
@[simp] theorem State.setPulse_lpReqs (s : State) (k : Nat) (p : Pulse) : (s.setPulse k p).lpReqs = s.lpReqs := rfl
@[simp] theorem State.setPulse_bfPulses (s : State) (k : Nat) (p : Pulse) : (s.setPulse k p).bfPulses = s.bfPulses := rfl
@[simp] theorem State.setPulse_events (s : State) (k : Nat) (p : Pulse) : (s.setPulse k p).events = s.events := rfl
@[simp] theorem State.setPulse_evLost (s : State) (k : Nat) (p : Pulse) : (s.setPulse k p).evLost = s.evLost := rfl
@[simp] theorem State.setPulse_alarmMap (s : State) (k : Nat) (p : Pulse) : (s.setPulse k p).alarmMap = s.alarmMap := rfl
@[simp] theorem State.setPulse_hltWarned (s : State) (k : Nat) (p : Pulse) : (s.setPulse k p).hltWarned = s.hltWarned := rfl
@[simp] theorem State.setPulse_hltAlerted (s : State) (k : Nat) (p : Pulse) : (s.setPulse k p).hltAlerted = s.hltAlerted := rfl
@[simp] theorem State.setPulse_host (s : State) (k : Nat) (p : Pulse) : (s.setPulse k p).host = s.host := rfl
@[simp] theorem State.setPulse_regions (s : State) (k : Nat) (p : Pulse) : (s.setPulse k p).regions = s.regions := rfl
@[simp] theorem State.setPulse_nports (s : State) (k : Nat) (p : Pulse) : (s.setPulse k p).nports = s.nports := rfl
@[simp] theorem State.setPulse_fleet (s : State) (k : Nat) (p : Pulse) : (s.setPulse k p).fleet = s.fleet := rfl
@[simp] theorem State.setPulse_srv (s : State) (k : Nat) (p : Pulse) : (s.setPulse k p).srv = s.srv := rfl
@[simp] theorem State.setPulse_wgt (s : State) (k : Nat) (p : Pulse) : (s.setPulse k p).wgt = s.wgt := rfl
@[simp] theorem State.setPulse_boot (s : State) (k : Nat) (p : Pulse) : (s.setPulse k p).boot = s.boot := rfl
@[simp] theorem State.setPulse_flash (s : State) (k : Nat) (p : Pulse) : (s.setPulse k p).flash = s.flash := rfl
@[simp] theorem State.setPulse_module (s : State) (k : Nat) (p : Pulse) : (s.setPulse k p).module = s.module := rfl
@[simp] theorem State.setPulse_acc (s : State) (k : Nat) (p : Pulse) : (s.setPulse k p).acc = s.acc := rfl
@[simp] theorem State.setPulse_evForward (s : State) (k : Nat) (p : Pulse) : (s.setPulse k p).evForward = s.evForward := rfl
@[simp] theorem State.setPulse_outbox (s : State) (k : Nat) (p : Pulse) : (s.setPulse k p).outbox = s.outbox := rfl

/-! ## setReq -/

@[simp] theorem State.setReq_variant (s : State) (h : Nat) (q : Req) : (s.setReq h q).variant = s.variant := rfl
@[simp] theorem State.setReq_pending (s : State) (h : Nat) (q : Req) : (s.setReq h q).pending = s.pending := rfl
@[simp] theorem State.setReq_beat (s : State) (h : Nat) (q : Req) : (s.setReq h q).beat = s.beat := rfl
@[simp] theorem State.setReq_lagging (s : State) (h : Nat) (q : Req) : (s.setReq h q).lagging = s.lagging := rfl
@[simp] theorem State.setReq_freeCtr (s : State) (h : Nat) (q : Req) : (s.setReq h q).freeCtr = s.freeCtr := rfl
@[simp] theorem State.setReq_regs (s : State) (h : Nat) (q : Req) : (s.setReq h q).regs = s.regs := rfl
@[simp] theorem State.setReq_tileMem (s : State) (h : Nat) (q : Req) : (s.setReq h q).tileMem = s.tileMem := rfl
@[simp] theorem State.setReq_devMem (s : State) (h : Nat) (q : Req) : (s.setReq h q).devMem = s.devMem := rfl
@[simp] theorem State.setReq_hostMem (s : State) (h : Nat) (q : Req) : (s.setReq h q).hostMem = s.hostMem := rfl
@[simp] theorem State.setReq_wordErr (s : State) (h : Nat) (q : Req) : (s.setReq h q).wordErr = s.wordErr := rfl
@[simp] theorem State.setReq_cwErr (s : State) (h : Nat) (q : Req) : (s.setReq h q).cwErr = s.cwErr := rfl
@[simp] theorem State.setReq_tiles (s : State) (h : Nat) (q : Req) : (s.setReq h q).tiles = s.tiles := rfl
@[simp] theorem State.setReq_routers (s : State) (h : Nat) (q : Req) : (s.setReq h q).routers = s.routers := rfl
@[simp] theorem State.setReq_clusters (s : State) (h : Nat) (q : Req) : (s.setReq h q).clusters = s.clusters := rfl
@[simp] theorem State.setReq_segs (s : State) (h : Nat) (q : Req) : (s.setReq h q).segs = s.segs := rfl
@[simp] theorem State.setReq_replays (s : State) (h : Nat) (q : Req) : (s.setReq h q).replays = s.replays := rfl
@[simp] theorem State.setReq_ports (s : State) (h : Nat) (q : Req) : (s.setReq h q).ports = s.ports := rfl
@[simp] theorem State.setReq_intakeQ (s : State) (h : Nat) (q : Req) : (s.setReq h q).intakeQ = s.intakeQ := rfl
@[simp] theorem State.setReq_termPart (s : State) (h : Nat) (q : Req) : (s.setReq h q).termPart = s.termPart := rfl
@[simp] theorem State.setReq_fenceMap (s : State) (h : Nat) (q : Req) : (s.setReq h q).fenceMap = s.fenceMap := rfl
@[simp] theorem State.setReq_power (s : State) (h : Nat) (q : Req) : (s.setReq h q).power = s.power := rfl
@[simp] theorem State.setReq_points (s : State) (h : Nat) (q : Req) : (s.setReq h q).points = s.points := rfl
@[simp] theorem State.setReq_unlocked (s : State) (h : Nat) (q : Req) : (s.setReq h q).unlocked = s.unlocked := rfl
@[simp] theorem State.setReq_vaults (s : State) (h : Nat) (q : Req) : (s.setReq h q).vaults = s.vaults := rfl
@[simp] theorem State.setReq_skillets (s : State) (h : Nat) (q : Req) : (s.setReq h q).skillets = s.skillets := rfl
@[simp] theorem State.setReq_lp (s : State) (h : Nat) (q : Req) : (s.setReq h q).lp = s.lp := rfl
@[simp] theorem State.setReq_ladles (s : State) (h : Nat) (q : Req) : (s.setReq h q).ladles = s.ladles := rfl
@[simp] theorem State.setReq_lpWrites (s : State) (h : Nat) (q : Req) : (s.setReq h q).lpWrites = s.lpWrites := rfl
@[simp] theorem State.setReq_lpReqs (s : State) (h : Nat) (q : Req) : (s.setReq h q).lpReqs = s.lpReqs := rfl
@[simp] theorem State.setReq_bfPulses (s : State) (h : Nat) (q : Req) : (s.setReq h q).bfPulses = s.bfPulses := rfl
@[simp] theorem State.setReq_events (s : State) (h : Nat) (q : Req) : (s.setReq h q).events = s.events := rfl
@[simp] theorem State.setReq_evLost (s : State) (h : Nat) (q : Req) : (s.setReq h q).evLost = s.evLost := rfl
@[simp] theorem State.setReq_alarmMap (s : State) (h : Nat) (q : Req) : (s.setReq h q).alarmMap = s.alarmMap := rfl
@[simp] theorem State.setReq_hltWarned (s : State) (h : Nat) (q : Req) : (s.setReq h q).hltWarned = s.hltWarned := rfl
@[simp] theorem State.setReq_hltAlerted (s : State) (h : Nat) (q : Req) : (s.setReq h q).hltAlerted = s.hltAlerted := rfl
@[simp] theorem State.setReq_host (s : State) (h : Nat) (q : Req) : (s.setReq h q).host = s.host := rfl
@[simp] theorem State.setReq_tm (s : State) (h : Nat) (q : Req) : (s.setReq h q).tm = s.tm := rfl
@[simp] theorem State.setReq_regions (s : State) (h : Nat) (q : Req) : (s.setReq h q).regions = s.regions := rfl
@[simp] theorem State.setReq_nports (s : State) (h : Nat) (q : Req) : (s.setReq h q).nports = s.nports := rfl
@[simp] theorem State.setReq_fleet (s : State) (h : Nat) (q : Req) : (s.setReq h q).fleet = s.fleet := rfl
@[simp] theorem State.setReq_wgt (s : State) (h : Nat) (q : Req) : (s.setReq h q).wgt = s.wgt := rfl
@[simp] theorem State.setReq_boot (s : State) (h : Nat) (q : Req) : (s.setReq h q).boot = s.boot := rfl
@[simp] theorem State.setReq_flash (s : State) (h : Nat) (q : Req) : (s.setReq h q).flash = s.flash := rfl
@[simp] theorem State.setReq_module (s : State) (h : Nat) (q : Req) : (s.setReq h q).module = s.module := rfl
@[simp] theorem State.setReq_acc (s : State) (h : Nat) (q : Req) : (s.setReq h q).acc = s.acc := rfl
@[simp] theorem State.setReq_evForward (s : State) (h : Nat) (q : Req) : (s.setReq h q).evForward = s.evForward := rfl
@[simp] theorem State.setReq_outbox (s : State) (h : Nat) (q : Req) : (s.setReq h q).outbox = s.outbox := rfl

/-! ## setServing -/

@[simp] theorem State.setServing_variant (s : State) (m : Nat) (x : Serving) : (s.setServing m x).variant = s.variant := rfl
@[simp] theorem State.setServing_pending (s : State) (m : Nat) (x : Serving) : (s.setServing m x).pending = s.pending := rfl
@[simp] theorem State.setServing_beat (s : State) (m : Nat) (x : Serving) : (s.setServing m x).beat = s.beat := rfl
@[simp] theorem State.setServing_lagging (s : State) (m : Nat) (x : Serving) : (s.setServing m x).lagging = s.lagging := rfl
@[simp] theorem State.setServing_freeCtr (s : State) (m : Nat) (x : Serving) : (s.setServing m x).freeCtr = s.freeCtr := rfl
@[simp] theorem State.setServing_regs (s : State) (m : Nat) (x : Serving) : (s.setServing m x).regs = s.regs := rfl
@[simp] theorem State.setServing_tileMem (s : State) (m : Nat) (x : Serving) : (s.setServing m x).tileMem = s.tileMem := rfl
@[simp] theorem State.setServing_devMem (s : State) (m : Nat) (x : Serving) : (s.setServing m x).devMem = s.devMem := rfl
@[simp] theorem State.setServing_hostMem (s : State) (m : Nat) (x : Serving) : (s.setServing m x).hostMem = s.hostMem := rfl
@[simp] theorem State.setServing_wordErr (s : State) (m : Nat) (x : Serving) : (s.setServing m x).wordErr = s.wordErr := rfl
@[simp] theorem State.setServing_cwErr (s : State) (m : Nat) (x : Serving) : (s.setServing m x).cwErr = s.cwErr := rfl
@[simp] theorem State.setServing_tiles (s : State) (m : Nat) (x : Serving) : (s.setServing m x).tiles = s.tiles := rfl
@[simp] theorem State.setServing_routers (s : State) (m : Nat) (x : Serving) : (s.setServing m x).routers = s.routers := rfl
@[simp] theorem State.setServing_clusters (s : State) (m : Nat) (x : Serving) : (s.setServing m x).clusters = s.clusters := rfl
@[simp] theorem State.setServing_segs (s : State) (m : Nat) (x : Serving) : (s.setServing m x).segs = s.segs := rfl
@[simp] theorem State.setServing_replays (s : State) (m : Nat) (x : Serving) : (s.setServing m x).replays = s.replays := rfl
@[simp] theorem State.setServing_ports (s : State) (m : Nat) (x : Serving) : (s.setServing m x).ports = s.ports := rfl
@[simp] theorem State.setServing_intakeQ (s : State) (m : Nat) (x : Serving) : (s.setServing m x).intakeQ = s.intakeQ := rfl
@[simp] theorem State.setServing_termPart (s : State) (m : Nat) (x : Serving) : (s.setServing m x).termPart = s.termPart := rfl
@[simp] theorem State.setServing_fenceMap (s : State) (m : Nat) (x : Serving) : (s.setServing m x).fenceMap = s.fenceMap := rfl
@[simp] theorem State.setServing_power (s : State) (m : Nat) (x : Serving) : (s.setServing m x).power = s.power := rfl
@[simp] theorem State.setServing_points (s : State) (m : Nat) (x : Serving) : (s.setServing m x).points = s.points := rfl
@[simp] theorem State.setServing_unlocked (s : State) (m : Nat) (x : Serving) : (s.setServing m x).unlocked = s.unlocked := rfl
@[simp] theorem State.setServing_vaults (s : State) (m : Nat) (x : Serving) : (s.setServing m x).vaults = s.vaults := rfl
@[simp] theorem State.setServing_skillets (s : State) (m : Nat) (x : Serving) : (s.setServing m x).skillets = s.skillets := rfl
@[simp] theorem State.setServing_lp (s : State) (m : Nat) (x : Serving) : (s.setServing m x).lp = s.lp := rfl
@[simp] theorem State.setServing_ladles (s : State) (m : Nat) (x : Serving) : (s.setServing m x).ladles = s.ladles := rfl
@[simp] theorem State.setServing_lpWrites (s : State) (m : Nat) (x : Serving) : (s.setServing m x).lpWrites = s.lpWrites := rfl
@[simp] theorem State.setServing_lpReqs (s : State) (m : Nat) (x : Serving) : (s.setServing m x).lpReqs = s.lpReqs := rfl
@[simp] theorem State.setServing_bfPulses (s : State) (m : Nat) (x : Serving) : (s.setServing m x).bfPulses = s.bfPulses := rfl
@[simp] theorem State.setServing_events (s : State) (m : Nat) (x : Serving) : (s.setServing m x).events = s.events := rfl
@[simp] theorem State.setServing_evLost (s : State) (m : Nat) (x : Serving) : (s.setServing m x).evLost = s.evLost := rfl
@[simp] theorem State.setServing_alarmMap (s : State) (m : Nat) (x : Serving) : (s.setServing m x).alarmMap = s.alarmMap := rfl
@[simp] theorem State.setServing_hltWarned (s : State) (m : Nat) (x : Serving) : (s.setServing m x).hltWarned = s.hltWarned := rfl
@[simp] theorem State.setServing_hltAlerted (s : State) (m : Nat) (x : Serving) : (s.setServing m x).hltAlerted = s.hltAlerted := rfl
@[simp] theorem State.setServing_host (s : State) (m : Nat) (x : Serving) : (s.setServing m x).host = s.host := rfl
@[simp] theorem State.setServing_tm (s : State) (m : Nat) (x : Serving) : (s.setServing m x).tm = s.tm := rfl
@[simp] theorem State.setServing_regions (s : State) (m : Nat) (x : Serving) : (s.setServing m x).regions = s.regions := rfl
@[simp] theorem State.setServing_nports (s : State) (m : Nat) (x : Serving) : (s.setServing m x).nports = s.nports := rfl
@[simp] theorem State.setServing_fleet (s : State) (m : Nat) (x : Serving) : (s.setServing m x).fleet = s.fleet := rfl
@[simp] theorem State.setServing_wgt (s : State) (m : Nat) (x : Serving) : (s.setServing m x).wgt = s.wgt := rfl
@[simp] theorem State.setServing_boot (s : State) (m : Nat) (x : Serving) : (s.setServing m x).boot = s.boot := rfl
@[simp] theorem State.setServing_flash (s : State) (m : Nat) (x : Serving) : (s.setServing m x).flash = s.flash := rfl
@[simp] theorem State.setServing_module (s : State) (m : Nat) (x : Serving) : (s.setServing m x).module = s.module := rfl
@[simp] theorem State.setServing_acc (s : State) (m : Nat) (x : Serving) : (s.setServing m x).acc = s.acc := rfl
@[simp] theorem State.setServing_evForward (s : State) (m : Nat) (x : Serving) : (s.setServing m x).evForward = s.evForward := rfl
@[simp] theorem State.setServing_outbox (s : State) (m : Nat) (x : Serving) : (s.setServing m x).outbox = s.outbox := rfl

/-! ## Reading back -/

theorem State.router_setRouter (s : State) (t m : Nat) (x : RouterState) :
    (s.setRouter t x).router m = if t = m then x else s.router m := by
  simp only [State.router, State.setRouter, smGet_smSet]; rfl
@[simp] theorem State.router_setRouter_same (s : State) (t : Nat) (x : RouterState) : (s.setRouter t x).router t = x := by
  simp [State.router_setRouter]

theorem State.cluster_setCluster (s : State) (c d : Nat) (x : ClusterState) :
    (s.setCluster c x).cluster d = if c = d then x else s.cluster d := by
  simp only [State.cluster, State.setCluster, smGet_smSet]
@[simp] theorem State.cluster_setCluster_same (s : State) (c : Nat) (x : ClusterState) : (s.setCluster c x).cluster c = x := by
  simp [State.cluster_setCluster]

theorem State.vault_setVault (s : State) (v w : Nat) (x : VaultState) :
    (s.setVault v x).vault w = if v = w then x else s.vault w := by
  simp only [State.vault, State.setVault, smGet_smSet]
@[simp] theorem State.vault_setVault_same (s : State) (v : Nat) (x : VaultState) : (s.setVault v x).vault v = x := by
  simp [State.vault_setVault]

theorem State.skillet_setSkillet (s : State) (v w : Nat) (x : SkilletState) :
    (s.setSkillet v x).skillet w = if v = w then x else s.skillet w := by
  simp only [State.skillet, State.setSkillet, smGet_smSet]
@[simp] theorem State.skillet_setSkillet_same (s : State) (v : Nat) (x : SkilletState) : (s.setSkillet v x).skillet v = x := by
  simp [State.skillet_setSkillet]

theorem State.lpch_setLpch (s : State) (c d : Nat) (x : LpChan) :
    (s.setLpch c x).lpch d = if c = d then x else s.lpch d := by
  simp only [State.lpch, State.setLpch, smGet_smSet]
@[simp] theorem State.lpch_setLpch_same (s : State) (c : Nat) (x : LpChan) : (s.setLpch c x).lpch c = x := by
  simp [State.lpch_setLpch]

theorem State.ladle_setLadle (s : State) (l m : Nat) (x : LadleState) :
    (s.setLadle l x).ladle m = if l = m then x else s.ladle m := by
  simp only [State.ladle, State.setLadle, smGet_smSet]
@[simp] theorem State.ladle_setLadle_same (s : State) (l : Nat) (x : LadleState) : (s.setLadle l x).ladle l = x := by
  simp [State.ladle_setLadle]

theorem State.port_setPort (s : State) (p q : OwnPort) (x : PortOwn) :
    (s.setPort p x).port q = if ownKey p = ownKey q then x else s.port q := by
  simp only [State.port, State.setPort, smGet_smSet]
@[simp] theorem State.port_setPort_same (s : State) (p : OwnPort) (x : PortOwn) : (s.setPort p x).port p = x := by
  simp [State.port_setPort]

theorem State.region_setRegion (s : State) (r q : Nat) (x : Region) :
    (s.setRegion r x).region q = if r = q then x else s.region q := by
  simp only [State.region, State.setRegion, smGet_smSet]
@[simp] theorem State.region_setRegion_same (s : State) (r : Nat) (x : Region) : (s.setRegion r x).region r = x := by
  simp [State.region_setRegion]

theorem State.nport_setNport (s : State) (n m : Nat) (x : NPort) :
    (s.setNport n x).nport m = if n = m then x else s.nport m := by
  simp only [State.nport, State.setNport, smGet_smSet]
@[simp] theorem State.nport_setNport_same (s : State) (n : Nat) (x : NPort) : (s.setNport n x).nport n = x := by
  simp [State.nport_setNport]

end Sys2Proof.Machine
end

