-- ==== Sys2Proof/WellFormed.lean ====
section
/-!
DEFINITION. What makes a command well formed: for instructions what the loader lets through (R59, R61, R74), for events a unit that exists on
the larger module. A meaning is given for every command, well formed or not.
-/

namespace Sys2Proof

def WaitCount.wf : WaitCount → Bool
  | .imm n => n ≠ 0
  | .param _ => true

def Wait.wf (w : Wait) : Bool := w.cnt.wf

/-- Counts and increments of 1 or more; two waits name different tallies (R59, R61). -/
def Issue.wf (k : Issue) : Bool :=
  (match k.wait0, k.wait1 with
    | some a, some b => a.wf && b.wf && a.tally ≠ b.tally
    | some a, none => a.wf
    | none, some b => b.wf
    | none, none => true) &&
  (match k.signal with | some g => g.inc ≠ 0 | none => true)

/-- The pairs of weight and activation formats of R69. -/
def tePair (fw fa : Nat) : Bool :=
  (decide (fw ≤ 4) && decide (fa ≤ 4)) || (fw = 5 && fa = 5) || (fw = 6 && (fa = 0 || fa = 1)) || (fw = 7 && fa = 7)

/-- A flow descriptor's fields in their ranges (R72). -/
def FlowDesc.wf (d : FlowDesc) : Bool := d.dmem ≠ 3 && (d.kind ≠ 3 || decide (d.unit.toNat < 2)) && (!d.hsig || d.hinc ≠ 0)

def LoaderOrder.wf : LoaderOrder → Bool
  | .imem _ _ words => words ≠ []
  | .desc _ _ d => d.wf
  | .slot _ _ streams => decide (streams.length = 5)
  | .task _ _ _ | .clearSlot _ => true

def OwnPort.wf : OwnPort → Bool
  | .novbo n => decide (n.toNat < 18)
  | .router _ _ | .skillet _ | .ladle _ | .hostLadle _ | .lpx _ | .sieve => true

def MemReq.wf : MemReq → Bool
  | .read _ len => len ≠ 0
  | .write _ data => decide (1 ≤ data.length) && decide (data.length ≤ 256)

/-- Ladles 0 to 63 have 8 channels, HL0 and HL1 have 16 (R172). -/
def ladleWf (l k : Nat) : Bool := decide (l < 64) && decide (k < 8) || (decide (64 ≤ l) && decide (l < 66))

def LpReq.wf : LpReq → Bool
  | .mem r => r.wf
  | .ladleRead l => decide (l.toNat < 66)

/-- A command is well formed. -/
def Instr.wf : Instr → Bool
  | .sync _ k => k.wf
  | .endStream _ k _ => k.wf
  | .amov e k _ _ => decide (e ≠ .sc) && k.wf
  | .aadd e k _ _ => decide (e ≠ .sc) && k.wf
  | .apar e k _ _ => decide (e ≠ .sc) && k.wf
  | .loopStart _ k _ _ => k.wf
  | .loopEnd _ k => k.wf
  | .add k _ _ _ => k.wf
  | .sub k _ _ _ => k.wf
  | .and k _ _ _ => k.wf
  | .or k _ _ _ => k.wf
  | .xor k _ _ _ => k.wf
  | .sll k _ _ _ => k.wf
  | .srl k _ _ _ => k.wf
  | .sra k _ _ _ => k.wf
  | .slt k _ _ _ => k.wf
  | .sltu k _ _ _ => k.wf
  | .mul k _ _ _ => k.wf
  | .mulhu k _ _ _ => k.wf
  | .addi k _ _ _ => k.wf
  | .andi k _ _ _ => k.wf
  | .ori k _ _ _ => k.wf
  | .xori k _ _ _ => k.wf
  | .slli k _ _ imm => decide (imm.toNat < 32) && k.wf
  | .srli k _ _ imm => decide (imm.toNat < 32) && k.wf
  | .srai k _ _ imm => decide (imm.toNat < 32) && k.wf
  | .lui k _ _ => k.wf
  | .lw k _ _ _ => k.wf
  | .sw k _ _ _ => k.wf
  | .lwn k _ _ mem _ _ => mem ≠ 3 && k.wf
  | .swn k _ _ mem _ _ => mem ≠ 3 && k.wf
  | .beq k _ _ _ => k.wf
  | .bne k _ _ _ => k.wf
  | .blt k _ _ _ => k.wf
  | .bge k _ _ _ => k.wf
  | .bltu k _ _ _ => k.wf
  | .bgeu k _ _ _ => k.wf
  | .j k _ => k.wf
  | .pget k _ _ => k.wf
  | .pset k _ _ => k.wf
  | .pcommit k => k.wf
  | .lstart k _ _ => k.wf
  | .csend k _ => k.wf
  | .rdinfo k _ _ => k.wf
  | .tcfg k fw fa kb mr => tePair fw.toNat fa.toNat && kb ≠ 0 && decide (1 ≤ mr.toNat) && decide (mr.toNat ≤ 64) && k.wf
  | .tmma k _ _ _ _ _ => k.wf
  | .tzero k _ _ => k.wf
  | .vld k _ fmt m _ => (fmt = 7 || fmt = 8) && m.mem ≠ 3 && k.wf
  | .vst k _ fmt m _ => (fmt = 7 || fmt = 8) && m.mem ≠ 3 && k.wf
  | .vadd k _ _ _ _ => k.wf
  | .vsub k _ _ _ _ => k.wf
  | .vmul k _ _ _ _ => k.wf
  | .vfma k _ _ _ _ _ => k.wf
  | .vmax k _ _ _ _ => k.wf
  | .vmin k _ _ _ _ => k.wf
  | .vsfn k _ _ fn _ => decide (fn.toNat ≤ 5) && k.wf
  | .vreds k _ _ _ => k.wf
  | .vredm k _ _ _ => k.wf
  | .vbcst k _ _ _ => k.wf
  | .vmovi k _ _ => k.wf
  | .vqst k _ fmt m _ => decide (fmt.toNat ≤ 5) && m.mem ≠ 3 && k.wf
  | .wcopy k _ _ len _ => len ≠ 0 && k.wf
  | .wfill k _ _ len _ => len ≠ 0 && k.wf
  | .wtrn k _ _ ew _ => ew ≠ 3 && k.wf
  | .nsend k _ _ len _ src _ => decide (len.toNat ≤ 16) && src.mem ≠ 3 && k.wf
  | .ntally k _ _ inc => inc ≠ 0 && k.wf
  | .planPacketAtPort _ inp out _ _ => decide (inp ≠ out)
  | .ownershipPass p => p.wf
  | .replayOrderAtPort p _ _ => p.wf
  | .loaderOrder _ _ order => order.wf
  | .vaultRequest _ _ _ waiting => waiting.all (fun w => w.2.wf)
  | .lpTraining _ passes => passes.all (fun p => p ≠ 3)
  | .lpRequest _ req => req.wf
  | .ladleTransferStart l k order => ladleWf l.toNat k.toNat && order.all (fun d => d.length = 32)
  | .ladlePacketSend l _ => decide (l.toNat < 66)
  | .intakePacket p => p.wf
  | .ladleLastUnit l k => ladleWf l.toNat k.toNat
  | .ladleResponseComplete l k => ladleWf l.toNat k.toNat
  | .respTimeout l k => ladleWf l.toNat k.toNat
  | .respError l k _ => ladleWf l.toNat k.toNat
  | .ladleDisable l => decide (l.toNat < 66)
  | .ladleClr l k => ladleWf l.toNat k.toNat
  | .portTraining n _ => decide (n.toNat < 18)
  | .portRetry n => decide (n.toNat < 18)
  | .retrain n => decide (n.toNat < 18)
  | .novboPacketReceive n _ _ => decide (n.toNat < 18)
  | .novboAck n _ => decide (n.toNat < 18)
  | .novboNak n _ => decide (n.toNat < 18)
  | .takeover n _ => decide (n.toNat < 18)
  | .ident n _ => decide (n.toNat < 18)
  | .pool n _ => decide (n.toNat < 18)
  | .ackDue n => decide (n.toNat < 18)
  | .lcwDue n => decide (n.toNat < 18)
  | .replayTimer n => decide (n.toNat < 18)
  | .transmitSlot n _ => decide (n.toNat < 18)
  | .egressPlan n src => decide (n.toNat < 18) && decide (src.toNat < 18)
  | .ingressPlan n => decide (n.toNat < 18)
  | .portHaltClear n => decide (n.toNat < 18)
  | .lockLoss n _ => decide (n.toNat < 18)
  | .lockRegained n _ => decide (n.toNat < 18)
  | .portDown n => decide (n.toNat < 18)
  | .portEnableWrite n _ => decide (n.toNat < 18)
  | .loopWrite n _ => decide (n.toNat < 18)
  | .takeoverSend n => decide (n.toNat < 18)
  | .probationEnd n => decide (n.toNat < 18)
  | .handback n => decide (n.toNat < 18)
  | .handbackMarkerReceive n => decide (n.toNat < 18)
  | .opticsPoll n _ _ _ _ => decide (n.toNat < 18)
  | .opticsAccess n _ => decide (n.toNat < 18)
  | .syncMgmtBulkIngress n => decide (n.toNat < 18)
  | .ladderStep r _ _ => decide (r.toNat < 72)
  | .upDwellExpiry r _ => decide (r.toNat < 72)
  | .thermalStep r _ => decide (r.toNat < 72)
  | .droopTrip r => decide (r.toNat < 72)
  | .droopClear r => decide (r.toNat < 72)
  | .droopLong r => decide (r.toNat < 72)
  | .beaconReqReceive n _ => decide (n.toNat < 18)
  | .beaconRespReceive n _ => decide (n.toNat < 18)
  | .ringEnableWrite ring _ => decide (ring.toNat < 66)
  | .acceptanceRound readErr _ => decide (readErr.length ≤ 256)
  | .mctpOrder desc => decide (desc.length = 64)
  | .chipFatal cause _ => decide (1 ≤ cause.toNat) && decide (cause.toNat ≤ 6)
  | .clusterFatal _ cause => decide (1 ≤ cause.toNat) && decide (cause.toNat ≤ 3)
  | .domainResetEffect kind _ => decide (1 ≤ kind.toNat)
  | .domainHeld kind _ => decide (1 ≤ kind.toNat) && kind ≠ 7
  | .domainReleaseEffect kind _ => decide (1 ≤ kind.toNat) && kind ≠ 7
  | .domainRestoreComplete kind _ _ _ => decide (1 ≤ kind.toNat) && kind ≠ 7
  | .bringupStage _ _ lat => decide (lat.length ≤ 25)
  | .challenge _ _ nonce => decide (nonce.length = 32)
  | .prbsEnable _ _ errs => decide (errs.length ≤ 4)
  | .bar2Read sp _ len => sp ≠ .bar0 && decide (1 ≤ len.toNat) && decide (len.toNat ≤ 4096)
  | .bar2Write _ data _ => decide (1 ≤ data.length) && decide (data.length ≤ 512)
  | .registerWrite _ sp _ dwords => sp ≠ .bar2 && decide (1 ≤ dwords.length) && decide (dwords.length ≤ 16)
  | .instructionComplete _ _ _ | .waitTimeout _ _ | .replayStart _ _ _ | .replayDone _ | .tileHaltReport _ | .narrowAccess _ _ _
  | .narrowStarve _ _ | .correctionWriteback _ | .tileScrubRead _ _ | .zeroFill _ | .zeroFillComplete _ | .tileClear _
  | .taskRegisterWrite _ _ _ _ | .flitForward _ _ _ _ | .creditReturn _ _ _ | .packetDelivery _ _ | .tallyPacketArrival _
  | .paramWrite _ | .paramCommit _ | .fenceTakesEffect _ | .reinstateAtBeat _ | .drainIntervalExpiry _ | .routeTableWrite _ _ _
  | .vaultRefresh _ _ _ | .hotrefChange _ _ | .vaultScrubRead _ | .score _ | .attend _ | .lpDriftCheck _ _ | .lpRefresh _ _
  | .lpPowerDown _ _ | .lpScrubRead _ | .prepare | .startAck | .startNack | .commit | .abort | .syncAction | .noAck
  | .abortedNoCommit | .jobRun | .epochSwitch | .fenceRank | .unfenceRank | .swapLayersAction | .jobEnd | .refLoss
  | .refLossFatal | .beaconReq | .beaconTimeout | .ppsEdge _ | .ppsLossInterval | .ptmDialog _ _ | .sourceChange _ | .timeRestep
  | .snap | .beatBoundary _ _ | .timePulse _ | .timePulseEnable _ _ | .heldStartGrant | .kettleCapCheck _ _ _ _
  | .submissionDoorbell _ _ | .completionDoorbell _ | .eventDoorbell _ | .completionWrite | .eventWrite | .msixMessage _
  | .forwardedEventReceive | .nop _ | .copy _ | .segLoad _ _ | .segUnload _ | .replay _ _ | .jobSetup _ _ | .startJob _
  | .action _ | .jobClear _ | .fenceTile _ | .reinstateTile _ | .resetDomainReset _ | .resetDomainRelease _ | .resetDomainChip _
  | .powerCap _ | .reqSubmit _ _ | .reqCancel _ | .reqPause _ | .reqResume _ | .reqTruncate _ | .saveContext _
  | .restoreContext _ | .srvConfig _ | .srvConfigRestart _ | .modelLoad _ _ | .modelLoadRepair _ _ | .modelUnload _
  | .swapLayers _ _ | .modelKeyEnrol _ _ | .modelKeyRevoke _ | .stepBoundary _ _ | .pageDemotionComplete _ _
  | .contextTransferComplete _ _ | .sieveSlice | .sieveDraw | .shardCheck _ _ | .bulkReq | .bulkData | .bulkNoshard
  | .peerLimitExpiry _ | .digestScrub | .swapLayerCopy _ | .por | .perst | .hotrst | .flr | .chipResetWrite _ _ | .wdog
  | .wdogRestart | .therm | .thermRestart _ | .fatalRestart | .secCommit _ _ | .pldmFirmwareUpdate _ _ | .pldmPlatformMonitoring
  | .getVersion _ | .getCapabilities _ _ | .negotiateAlgorithms _ _ _ | .getDigests _ | .getCertificate _ _ _ _
  | .getMeasurements _ _ _ | .scoreDecay | .marginStart _ | .marginComplete _ _ | .lbgStart _ _ | .lbgComplete | .memtestStart _
  | .memtestComplete _ | .inputShutdown _ | .loRead _ _ _ _ _ | .genSync _ | .unlock _ _ _ | .rankTableAccess _ _
  | .oversizeAccess _ _ _ | .slowWriteEffect | .refclkRestored | .perstNRising | .pcieLinkUp | .flashWriteComplete _
  | .refreshMultiplierChange _ _ _ | .dynamicAddressAssignment _ _ => true

end Sys2Proof
end

