-- ==== Sys2Proof/Tests/Slice0.lean ====
section
/-!
SUPPORT. Small tests: ill-formed commands are refused by the checks; one or two steps of each kind on small states, with results from the manual's
rules; and, for the hypotheses of each statement, a state and operands that meet them.
-/

namespace Sys2Proof.Tests

open Sys2Proof Sys2Proof.Machine

set_option maxRecDepth 100000
set_option Elab.async false

/-- A module at full ready. -/
def up : State := { State.reset with regs := [(genReg 4, 0xF0000000#32)], boot := { BootState.reset with stages := 8 } }

/-- A tile that runs segment 1. -/
def runTile : TileState := { TileState.reset with st := .running, seg := 1 }

/-- Tile 0 as given, all else at full ready. -/
def onTile (x : TileState) : State := { up with tiles := [(0, x)] }

def running : State := onTile runTile
def at0 : Issue := { tile := 0 }

/-! ## A segment image of one tile with empty streams -/

/-- Bytes o to n of a list of fields in rising order: offset, bytes, value; zeros between them. -/
def fieldBytes (n : Nat) : Nat → List (Nat × Nat × Nat) → List Byte
  | o, [] => List.replicate (n - o) 0
  | o, p :: r => List.replicate (p.1 - o) 0 ++ (leBytes p.2.1 p.2.2 ++ fieldBytes n (p.1 + p.2.1) r)

/-- The header before the digest; then its rest, the table of sections 1, 2, 6, 7 and 8, one tile record and one gate. -/
def imageHead : List Byte :=
  fieldBytes 0x28 0 [(0, 4, 0x47533950), (4, 2, 1), (8, 4, 0x50390001), (0x10, 2, 2), (0x14, 2, 1), (0x18, 2, 1), (0x1A, 2, 5), (0x20, 8, 0x1C8)]
def imageRest : List Byte :=
  fieldBytes 0x180 0 [(0xB8, 2, 1), (0xBC, 4, 1), (0xC0, 8, 0x180), (0xC8, 2, 2), (0xD0, 8, 0x180), (0xD8, 2, 6), (0xDC, 4, 1), (0xE0, 8, 0x1C0), (0xE8, 2, 7)
    , (0xF0, 8, 0x1C0), (0xF8, 2, 8), (0x100, 8, 0x1C0)]
def imageDigest : List Byte := shake256 32 (imageHead ++ List.replicate 32 0 ++ imageRest)
def imageBytes : List Byte := imageHead ++ (imageDigest ++ imageRest)
def image : Image := readImage imageBytes

/-- The image of one tile lies in host memory at 0. -/
def imaged : State := { up with hostMem := memWrite [] 0 imageBytes }

theorem image_digest : image.digestOk = true := by
  have h : imageHead.length = 0x28 := by decide +kernel
  have d : imageDigest.length = 32 := length_shake256 _ _ (by decide)
  have a : imageBytes.take 0x28 = imageHead := by rw [imageBytes, ← h, List.take_left]
  have b : imageBytes.drop 0x28 = imageDigest ++ imageRest := by rw [imageBytes, ← h, List.drop_left]
  have c : imageBytes.drop 0x48 = imageRest := by
    rw [show (0x48 : Nat) = 0x28 + 32 from rfl, ← List.drop_drop, b, ← d, List.drop_left]
  show decide (shake256 32 (imageBytes.take 0x28 ++ List.replicate 32 0 ++ imageBytes.drop 0x48) = (imageBytes.drop 0x28).take 32) = true
  rw [a, c, b, ← d, List.take_left, d]
  exact decide_eq_true rfl

theorem image_tiles : image.tiles = [{ tile := 0, program := 0, words := [[], [], [], [], []], rsvd := 0 }] := by decide +kernel

theorem image_parts : imaged.partsMissing image = false := by
  have u : image.f 0x1C 4 = 0 := by decide +kernel
  have h (n : Nat) : fieldOf 0 (3 + n) 1 ≠ 1 := by simp [fieldOf]
  simp [State.partsMissing, State.routesUnlisted, image_tiles, TileRec.descs, fromTo, u, h]

theorem image_descs : image.tiles.any (fun r => decide (r.rsvd ≠ 0) || r.descBad) = false := by
  simp [image_tiles, TileRec.descBad, TileRec.descs, fromTo]

theorem image_format : imaged.imageFormatBad image = false := by
  unfold State.imageFormatBad
  simp only [image_parts, image_descs]
  decide +kernel

theorem image_absent : imaged.imageAbsent image = false := by
  have h : image.tiles.any (fun r => !imaged.tileOk r.tile || r.descs.1.any imaged.descAbsent) = false := by
    simp [image_tiles, TileRec.descs, fromTo]
    decide +kernel
  unfold State.imageAbsent
  simp only [h]
  decide +kernel

theorem image_status : imaged.imageStatus image 0x1C8 = 0 := by
  unfold State.imageStatus
  rw [if_neg (by decide +kernel), if_neg (by simp [image_digest]), if_neg (by decide +kernel), if_neg (by decide +kernel), if_neg (by simp [image_format]),
    if_neg (by simp [image_absent]), if_neg (by decide +kernel), if_neg (by decide +kernel)]

/-! ## Hypotheses of the statements on engines -/

theorem met_ScalarForms : running.canIssue .sc at0 = true := by decide +kernel

/-- An open loop with iterations left, one with none, PARAM 0 at 65,536 and PARAM 1 at 0. -/
def loopTile (left : Nat) : TileState :=
  { runTile with engines := runTile.engines.set 0 { EngineState.reset with loops := [⟨0, left⟩] }, active := runTile.active.set 0 65536 }

theorem met_ControlFlow :
    running.canIssue .sc at0 = true ∧ ((0 : Nat) ≤ 65535 ∧ 0 = (0 : BitVec 16).toNat) ∧ (65535 ≤ 65535 ∧ 65535 = (65535 : BitVec 16).toNat ∧ 65535 ≠ 0) ∧
    ((onTile (loopTile 0)).canIssue .sc at0 = true ∧ 0 = (((onTile (loopTile 0)).taken at0).active[1]).toNat ∧
      (((onTile (loopTile 0)).taken at0).eng .sc).loops = [⟨0, 0⟩]) ∧
    ((onTile (loopTile 7)).canIssue .sc at0 = true ∧ (((onTile (loopTile 7)).taken at0).eng .sc).loops = [⟨0, 7⟩]) := by decide +kernel

/-- g1 holds an address. -/
def baseTile (a : Word) : TileState := { runTile with g := runTile.g.set 1 a }

theorem met_ScalarMemory :
    ((onTile (baseTile 16380)).canIssue .sc at0 = true ∧ (((onTile (baseTile 16380)).taken at0).gpr 1 + (0#24).signExtend 32).toNat = 16380 ∧
      (onTile (baseTile 16380)).goodWords 0 3 16380 4 = true ∧ (onTile (baseTile 16380)).noRace at0 .sc 3 16380 4 = true) ∧
    ((onTile (baseTile 0)).canIssue .sc at0 = true ∧ (((onTile (baseTile 0)).taken at0).gpr 1 + (0#24).signExtend 32).toNat = 0) := by decide +kernel

theorem met_IssueHalts :
    ((onTile (baseTile 16380)).canIssue .sc at0 = true ∧ (((onTile (baseTile 16380)).taken at0).gpr 1 + (2#24).signExtend 32).toNat = 16382) ∧
    ((onTile (baseTile 16384)).canIssue .sc at0 = true ∧ (((onTile (baseTile 16384)).taken at0).gpr 1 + (0#24).signExtend 32).toNat = 16384) ∧
    (2 : BitVec 16) ≠ (running.taken at0).seg ∧ 32 ≤ (32#24).toNat ∧
    ((onTile (loopTile 0)).canIssue .sc at0 = true ∧ 65535 < (((onTile (loopTile 0)).taken at0).active[0]).toNat) := by decide +kernel

/-- The tensor engine with an instruction outstanding. -/
def busyTile : TileState := { runTile with engines := runTile.engines.set 1 { EngineState.reset with inflight := [⟨0, none, [], [], false, false⟩] } }

theorem met_CommonOpcodes :
    (running.canIssue .ve at0 = true ∧ Engine.ve ≠ .sc) ∧ (running.canIssue .te at0 = true ∧ ((running.tile 0).eng .te).inflight = []) ∧
    ((onTile busyTile).canIssue .te at0 = true ∧ (((onTile busyTile).tile 0).eng .te).inflight ≠ []) := by decide +kernel


/-- WM at its start. -/
def ref0 (mem : BitVec 2) : MRef := ⟨mem, 0, 0⟩

theorem met_VectorMemory :
    running.canIssue .ve at0 = true ∧ (1 : BitVec 2) ≠ 3 ∧ running.fits 0 1 (((running.taken at0).eng .ve).mref (ref0 1)) 256 = true ∧
    running.goodWords 0 1 (running.phys 0 1 0) 256 = true ∧ running.noRace at0 .ve 1 (running.phys 0 1 0) 256 = true ∧ running.fits 0 1 (65536 - 256) 256 = true ∧
    running.fits 0 1 (((running.taken at0).eng .ve).mref (ref0 1)) (recBytes 5) = true := by decide +kernel

theorem met_VectorLanes : running.canIssue .ve at0 = true ∧ (5 : BitVec 4).toNat < 6 ∧ 6 ≤ (6 : BitVec 4).toNat := by decide +kernel

/-- Address register 1 of the Whisk past the first 8,192 bytes. -/
def whiskTile : TileState := { runTile with engines := runTile.engines.set 3 { EngineState.reset with addr := EngineState.reset.addr.set 1 8192 } }

theorem met_WhiskMoves :
    (onTile whiskTile).canIssue .whisk at0 = true ∧ (onTile whiskTile).fits 0 0 ((((onTile whiskTile).taken at0).eng .whisk).mref ⟨0, 1, 0⟩) 8160 = true ∧
    (onTile whiskTile).fits 0 0 ((((onTile whiskTile).taken at0).eng .whisk).mref ⟨0, 0, 0⟩) 8160 = true ∧
    (onTile whiskTile).goodWords 0 0 0 8160 = true ∧ (onTile whiskTile).noRace at0 .whisk 0 0 8160 = true ∧ rangesMeet 0 8192 8160 0 0 8160 = false ∧ rangesMeet 0 8192 4096 0 0 4096 = false := by decide +kernel

/-- A segment with budgets for cluster 0, and a configured tensor engine under a Kettle with room. -/
def seg1 : Segment :=
  { id := 1, slot := 0, task := 0, slack := 0, units := 0, gates := [], tiles := [0], programs := [], sides := [], own := [], budgets := [(0, [⟨0, 64, 1, true⟩])]
    ingress := [], job := 0, counter := 0 }
def teTile : TileState := { runTile with te := some ⟨1, 1, 1, 1⟩ }
def teState : State := { onTile teTile with segs := [seg1], power := { PowerState.reset with level := 10000000 } }

theorem met_TensorEngine :
    (running.canIssue .te at0 = true ∧ (running.taken at0).te = none ∧ kettleHold (teUnit 0) teState = none ∧ budgetCond teState 0 0 = []) ∧
    (teState.canIssue .te at0 = true ∧ (teState.taken at0).te = some ⟨1, 1, 1, 1⟩ ∧ teState.fits 0 2 0 128 = true) ∧
    mmaConds teState 0 0 ⟨1, 1, 1, 1⟩ 0 0 0 = [] ∧ ((teState.joinWindow 0 0).mmaRun at0 ⟨1, 1, 1, 1⟩ false 0 0 0).2.stop = none ∧
    ((4 : BitVec 4).toNat ≤ 4 ∧ (64 : BitVec 7).toNat ≤ 64) := by decide +kernel

def desc1 : FlowDesc :=
  { flow := 5, kind := 0, dmem := 1, dest := 7, spanEnd := 0, unit := 0, vault := 0, hsig := false, htally := 0, hinc := 0, dbase := 0 }
def sendTile : TileState := { runTile with slots := runTile.slots.set 0 (some ⟨1, [], [(3, desc1)]⟩) }
def sendState : State := { onTile sendTile with segs := [seg1] }

theorem met_Injection :
    sendState.canIssue .ne at0 = true ∧ 16 + 1 ≤ sendState.injCredit 0 0 ∧ flowDesc (sendState.taken at0) 3 = some desc1 ∧
    nsendConds (sendState.setTile 0 (sendState.taken at0)) 0 (gateNo at0) desc1 16 0 1 0 = [] ∧ sendState.goodWords 0 1 0 512 = true ∧ sendState.noRace at0 .ne 1 0 512 = true ∧
    1 ≤ sendState.injCredit 0 1 ∧ sendState.fenceMap.contains 7 = false := by decide +kernel

/-- A control packet image of class CTRL with four data units at 0. -/
def ctrlState : State := { running with tileMem := memWrite [] (tmAddr 0 3 0) (leBytes 32 (2 + 4 * 2 ^ 6)) }

theorem met_Injection_CSEND :
    ctrlState.canIssue .sc at0 = true ∧ hClass (bytesFlit (memRead ctrlState.tileMem (tmAddr 0 3 0) 32)) = 2 ∧
    hLen (bytesFlit (memRead ctrlState.tileMem (tmAddr 0 3 0) 32)) = 4 ∧ 4 + 1 ≤ ctrlState.injCredit 0 2 ∧ ctrlState.goodWords 0 3 0 160 = true ∧ ctrlState.noRace at0 .sc 3 0 160 = true := by decide +kernel

theorem met_NarrowLoadStore :
    running.canIssue .sc at0 = true ∧ (2 : BitVec 2) ≠ 3 ∧ 32764 + 4 ≤ (running.taskWin 0 (running.taken at0).task.toNat 2).2 ∧
    scalarGranted running 0 2 true = true ∧ (running.taken at0).swn = none ∧
    running.goodWords 0 2 32764 4 = true ∧ running.noRace at0 .sc 2 32764 4 = true ∧ running.goodWords 0 2 32736 32 = true ∧
    running.noRace at0 .sc 2 32736 32 = true ∧ (((onTile { runTile with swn := some ⟨2, 32736, [1]⟩ }).taken at0).swn).isSome = true := by decide +kernel

/-! ## Hypotheses of the statements on tiles -/

theorem met_Tallies_addition :
    (((running.tile 0).tally 3).toNat + 65535 ≤ 65535) ∧ (65535 < ((running.tile 0).tally 3).toNat + 65536 ∧ (running.tile 0).st = .running) ∧
    (up.tile 0).st ≠ .running := by decide +kernel

theorem met_Tallies_completion :
    (((onTile busyTile).tile 0).eng .te).inflight[0]? = some ⟨0, none, [], [], false, false⟩ ∧ ((onTile busyTile).tile 0).st ≠ .isolated ∧
    (onTile busyTile).unlocked.contains (clusterOf 0) = false := by decide +kernel

/-- The scalar core held since beat 0 by tally 2, which needs 1, and by 99 credits of output 20, with a limit of 5 beats. -/
def heldHead (need : Nat) : Head := ⟨0, .tally 2 1, [(2, need)], [(20, 99)]⟩
def heldTile (need : Nat) : TileState := { runTile with engines := runTile.engines.set 0 { EngineState.reset with head := some (heldHead need) } }
def heldState (need : Nat) (now : Beat) : State := { onTile (heldTile need) with regs := [(genReg 4, 0xF0000000#32), (tilReg 0 8, 5#32)], beat := now }

theorem met_Tallies_watchdog :
    (((heldState 1 5).tile 0).st = .running ∧ (((heldState 1 5).tile 0).eng .sc).head = some (heldHead 1)) ∧
    ((heldState 1 4).beatAt (clusterOf 0) < 0 + (heldState 1 4).fld (tilReg 0 8) 0 20) ∧
    ((heldState 1 5).fld (tilReg 0 8) 0 20 ≠ 0 ∧ 0 + (heldState 1 5).fld (tilReg 0 8) 0 20 ≤ (heldState 1 5).beatAt (clusterOf 0) ∧
      (heldHead 1).waits.find? (fun w => decide ((((heldState 1 5).tile 0).tally w.1).toNat < w.2)) = some (2, 1)) ∧
    ((∀ w ∈ (heldHead 0).waits, w.2 ≤ (((heldState 0 5).tile 0).tally w.1).toNat) ∧
      (heldHead 0).credits.find? (fun c => decide ((heldState 0 5).creditsHeld 0 c.1 < c.2)) = some (20, 99)) := by decide +kernel

def run1 : ReplayRun :=
  { seg := 1, slot := 0, first := 9, n := 2, base := 0, period := 10, cmd := none, stopped := false, tiles := [0], next := [], live := [] }
/-- Segment 1 resident in slot 0 with five streams, its replay 9 ordered. -/
def loadedTile (st : TileSt) : TileState :=
  { TileState.reset with st := st, slots := TileState.reset.slots.set 0 (some ⟨1, [(0, 4), (0, 4), (0, 4), (0, 4), (0, 4)], []⟩) }
def orderedState (st : TileSt) : State := { onTile (loadedTile st) with segs := [seg1], replays := [run1] }

theorem met_Replays :
    ((orderedState .idle).replays.find? (fun q => q.slot = (0 : BitVec 3) ∧ q.tiles.contains 0 ∧ (9 : BitVec 64).toNat = q.first + smGet q.next 0 0) =
      some run1 ∧ run1.stopped = false ∧ smGet run1.next 0 0 < run1.n ∧ (orderedState .idle).orderedAll run1 0 = true) ∧
    (((orderedState .idle).tile 0).st = .idle ∧ ((orderedState .idle).tile 0).slots[0] = some ⟨1, [(0, 4), (0, 4), (0, 4), (0, 4), (0, 4)], []⟩ ∧
      (orderedState .idle).peerDown 0 1 = none) ∧
    (((orderedState .running).tile 0).st = .running ∧ ((orderedState .running).tile 0).pendStart = none) ∧
    ((orderedState .halted).tile 0).st = .halted ∧ ((orderedState .isolated).tile 0).st = .isolated := by decide +kernel

/-- A tile whose five engines have ended. -/
def endedTile : TileState := { runTile with engines := Vector.replicate 5 { EngineState.reset with ended := true } }

theorem met_Replays_end :
    ((onTile endedTile).tile 0).st = .running ∧ (∀ e, (((onTile endedTile).tile 0).eng e).ended = true ∧ (((onTile endedTile).tile 0).eng e).inflight = []) ∧
    ((onTile endedTile).tile 0).pendStart = none := by
  refine ⟨by decide +kernel, ?_, by decide +kernel⟩
  intro e
  cases e <;> decide +kernel

theorem met_Replays_not_ended : (((onTile runTile).tile 0).eng .sc).ended = false := by decide +kernel

def haltedTile (engine : Nat) : TileState := { runTile with st := .halted, halt := some ⟨engine, 3, 0, 0, 0, 0⟩ }

theorem met_Halts :
    (((onTile (haltedTile 0)).tile 0).halt = some ⟨0, 3, 0, 0, 0, 0⟩ ∧ ((onTile (haltedTile 0)).tile 0).haltReported = false) ∧ 5 ≤ 5 ∧
    (((onTile (haltedTile 5)).tile 0).halt = some ⟨5, 3, 0, 0, 0, 0⟩ ∧ ((onTile (haltedTile 5)).tile 0).haltReported = false) ∧
    ((onTile (haltedTile 0)).tile 0).st = .halted ∧ ((orderedState .isolated).tile 0).st = .isolated := by decide +kernel

def narrowTile (r : NarrowReq) : TileState := { TileState.reset with narrow := [r] }
def wantWord : NarrowReq := { src := 1, mem := 0, off := 0, since := 0, urgent := false, granted := false, writeback := false, data := none, last := none, flow := 0 }
def fixWord : NarrowReq := { wantWord with src := 2, writeback := true }
def putWord : NarrowReq := { wantWord with src := 0, data := some (1, false) }
def fixState : State := { onTile (narrowTile fixWord) with wordErr := [(tmAddr 0 0 0 / 32, false)], beat := 4 }

theorem met_TileUpkeep :
    ((onTile (narrowTile wantWord)).tile 0).narrow = [wantWord] ∧ (fixState.tile 0).narrow = [fixWord] ∧ (fixState.tile 0).st ≠ .isolated ∧ fixWord.granted = false ∧ up.writable 1 (clusterOf 0) = true ∧
    smGet fixState.wordErr (tmAddr 0 0 0 / 32) true = false ∧ fixState.fld (tilReg 0 0x208) 0 4 ≠ 0 ∧
    0 + fixState.fld (tilReg 0 0x208) 0 4 ≤ fixState.beatAt (clusterOf 0) ∧
    ((onTile (narrowTile putWord)).tile 0).narrow = [putWord] ∧ (up.tile 0).zbusy = false ∧
    ((up.tile 0).st ≠ .isolated ∧ up.tileOk 0 = true ∧ up.fld (tilReg 0 0x208) 31 1 = 1 ∧ 0 < up.fld (tilReg 0 0x208) 16 8 ∧
      narrowFree (up.tile 0) (scrubWord 0).1 2 = true ∧ up.goodWords 0 (scrubWord 0).1 (scrubWord 0).2 32 = true) ∧
    (up.tile 0).st ≠ .running ∧ ((onTile { TileState.reset with zbusy := true }).tile 0).zbusy = true ∧
    (running.tile 0).st = .running ∧ ((orderedState .halted).tile 0).st = .halted := by decide +kernel

theorem met_TileUpkeep_last : up.goodWords 0 (scrubWord 7935).1 (scrubWord 7935).2 32 = true := by decide +kernel

theorem met_TaskRegistersLocked :
    (up.tileOk 0 = true ∧ up.writable 1 (clusterOf 0) = true ∧ running.writable 1 (clusterOf 0) = true) ∧ (4 : BitVec 5).toNat ≤ 4 ∧ (up.tile 0).zbusy = false ∧
    (up.tile 0).st = .idle ∧ ((orderedState .halted).tile 0).st = .halted ∧ (running.tile 0).st = .running ∧ ((orderedState .isolated).tile 0).st = .isolated := by
  decide +kernel

/-! ## Hypotheses of the statements on routers and ports -/

def planHdr : FlitWord := mkHdr { cls := 0, flow := 5, dest := 1 }
def tallyHdr : FlitWord := mkHdr { cls := 1, dest := 1 }
/-- One flit at the local input of router 0, whose east port is owned by flow 5 (or `flow`) of segment 1. -/
def ownSeg (flow : BitVec 16) : Segment := { seg1 with own := [(.router 0 .east, [⟨flow, 0, 0⟩, ⟨6, 0, 0⟩])] }
def rec1 : ReplayRec := { seg := 1, slot := 0, count := 9, base := 0 }
def owned (st : OwnSt) (endLeft : Bool) : PortOwn := { PortOwn.reset with st := st, cur := some rec1, endLeft := endLeft }
def meshState (cls : Nat) (h : FlitWord) (flow : BitVec 16) : State :=
  { running with routers := [(0, { RouterState.reset true with q := [(4 * rportCode .loc + cls, [⟨h, true, false, 0⟩])] })], segs := [ownSeg flow]
                 ports := [(ownKey (.router 0 .east), owned (.owned 0) false)] }

theorem met_Flits_forwarded :
    (meshState 0 planHdr 5).planHead 0 .loc .east = some ⟨planHdr, true, false, 0⟩ ∧ (meshState 0 planHdr 5).outVerdict 0 .east planHdr = .forward ∧
    (meshState 0 planHdr 5).linkClear 0 1 .east .loc 0 = true ∧
    (meshState 1 tallyHdr 5).unroutable 0 = none ∧ (meshState 1 tallyHdr 5).served 0 .east = some (.loc, 1) ∧
    (meshState 1 tallyHdr 5).linkClear 0 1 .east .loc 1 = true ∧ ((meshState 1 tallyHdr 5).skillet 0).sending = [] ∧
    (meshState 1 tallyHdr 5).served 0 .south = none := by decide +kernel

theorem met_Flits_refused :
    ((meshState 0 planHdr 7).tile 0).st = .running ∧ (meshState 0 planHdr 7).planHead 0 .loc .east = some ⟨planHdr, true, false, 0⟩ ∧
    (meshState 0 planHdr 7).outVerdict 0 .east planHdr = .conflict ∧ smFind ((meshState 0 planHdr 7).router 0).cur (4 * rportCode .loc) = none ∧
    (meshState 0 (mkHdr { cls := 0, flow := 6, dest := 1 }) 5).outVerdict 0 .east (mkHdr { cls := 0, flow := 6, dest := 1 }) = .wait ∧
    (meshState 0 (mkHdr { cls := 0, flow := 5, dest := 1, epoch := 2 }) 5).unroutable 0 = some (.loc, 0, 7, 5) := by decide +kernel

def creditState (used : Nat) : State := { running with routers := [(0, { RouterState.reset true with used := [(4 * rportCode .east + 1, used)] })] }
def shortTile : TileState := { runTile with injCredit := #v[33, 4, 10] }

theorem met_Flits_credits :
    (creditState 1).heldAtEdge 0 .east 1 < smGet ((creditState 1).router 0).used (4 * rportCode .east + mclassCode .tally) 0 ∧
    smGet ((creditState 0).router 0).used (4 * rportCode .east + mclassCode .tally) 0 = 0 ∧ ((creditState 0).tile 0).st = .running ∧
    (onTile shortTile).injCredit 0 0 < allotment 0 := by decide +kernel

def epochState (e : BitVec 2) : State := { up with clusters := [(0, { ClusterState.reset with epoch := e })], tm := { up.tm with beats := 5000 } }

theorem met_Flits_tables :
    up.reaches = true ∧ up.bankDrained 0 ((up.router 0).bank 1) = true ∧ up.bankDrained 0 ((up.router 0).bank 0) = false ∧ (17 : BitVec 8).toNat < 18 ∧
    (((up.router 0).bank 0).entries.setIfInBounds 34 (entryWord 34 5)).setIfInBounds 35 (entryWord 35 0) ≠ ((up.router 0).bank 0).entries ∧
    ((epochState 1).tileOk 0 = true ∧ (((epochState 1).router 0).bank 0).valid = true ∧
      (((epochState 1).router 0).bank 0).tag ≠ ((epochState 1).cluster 0).epoch ∧ (epochState 1).drainElapsed 0 0 = true) ∧
    ((up.router 0).bank 0).tag = (up.cluster 0).epoch := by decide +kernel

def ownState (st : OwnSt) (endLeft : Bool) : State :=
  { orderedState .idle with segs := [ownSeg 5], ports := [(ownKey (.router 0 .east), owned st endLeft)] }

theorem met_Ownership :
    (((ownState (.owned 0) true).port (.router 0 .east)).st = .owned 0 ∧ ((ownState (.owned 0) true).port (.router 0 .east)).endLeft = true ∧
      ((ownState (.owned 0) true).curList (.router 0 .east))[1]? = some ⟨6, 0, 0⟩ ∧ ((ownState (.owned 0) true).port (.router 0 .east)).cur = some rec1 ∧
      (ownState (.owned 0) true).gateOpenAt (portCluster (.router 0 .east)) ((ownState (.owned 0) true).portGate (.router 0 .east) rec1 0) = true) ∧
    ((ownState (.idle 0) false).port (.router 0 .east)).st = .idle 0 ∧
    ((ownState (.owned 0) true).findReplay 1 9 = some (run1, 0) ∧ (run1.liveOf 0).ordered.contains (ownKey (.router 0 .east)) = false ∧
      smGet run1.next (4096 + ownKey (.router 0 .east)) 0 = 0 ∧ ((ownState (.owned 0) true).port (.router 0 .east)).st ≠ .done) ∧
    (((ownState .done false).port (.router 0 .east)).st = .done ∧ ((ownState .done false).port (.router 0 .east)).later = [] ∧
      (ownState .done false).listFor (.router 0 .east) { rec1 with base := run1.baseOf 0 } ≠ []) := by decide +kernel

theorem met_Ownership_gate :
    let s := { ownState (.owned 0) true with tm := { (ownState (.owned 0) true).tm with pre := true } }
    s.gateOpenAt (portCluster (.router 0 .east)) (s.portGate (.router 0 .east) rec1 0) = false := by decide +kernel

/-- A tile with one packet through its Colander. -/
def rxState (st : TileSt) (f : HdrF) (data : List (FlitWord × Bool)) : State := onTile { runTile with st := st, rx := [⟨mkHdr f, data, 0, 0, 0⟩] }

theorem met_Packets :
    (((rxState .running { cls := 0, len := 2, dmem := 2, daddr := 32704 } [(1, false), (2, false)]).tile 0).rx =
        [⟨mkHdr { cls := 0, len := 2, dmem := 2, daddr := 32704 }, [(1, false), (2, false)], 0, 0, 0⟩] ∧
      hClass (mkHdr { cls := 0, len := 2, dmem := 2, daddr := 32704 }) = 0 ∧ hDmem (mkHdr { cls := 0, len := 2, dmem := 2, daddr := 32704 }) < 3 ∧
      32704 + 64 ≤ (up.taskWin 0 0 2).2 ∧ narrowFree (up.tile 0) 2 0 = true ∧ (up.tile 0).zbusy = false ∧ (up.tile 0).st ≠ .isolated ∧ (up.tile 0).narrow = []) ∧
    narrowFree { runTile with narrow := [fixWord] } 0 0 = true ∧ narrowFree { runTile with narrow := [{ fixWord with urgent := true }] } 0 0 = false ∧
    (hDmem (mkHdr { cls := 0, dmem := 3 }) = 3 ∧ hClass (mkHdr { cls := 0, dmem := 3 }) = 0 ∧ ((rxState .halted { cls := 0, dmem := 3 } []).tile 0).st ≠ .running) ∧
    (hClass (mkHdr { cls := 1, htally := 3, hinc := 255 }) = 1 ∧ isCtrl 1 ⟨mkHdr { cls := 2, srck := 2, inl := 1 }, [], 0, 0, 0⟩ = true ∧
      isCtrl 2 ⟨mkHdr { cls := 2, srck := 2, inl := 2 }, [], 0, 0, 0⟩ = true) := by decide +kernel

/-- A delivered packet for the loader. -/
def orderPacket : Packet := ⟨mkHdr { cls := 2, srck := 7, inl := 0x10 }, [], 0, 0, 0⟩

theorem met_LoaderOrders :
    (up.tileOk 0 = true ∧ (up.tile 0).zbusy = false ∧ (up.router 0).col = .opened ∧ (0 : BitVec 5).toNat ≤ 4) ∧
    (hClass orderPacket.hdr = 2 ∧ ctrlAccepted orderPacket.hdr = true ∧ 0x10 ≤ hInline orderPacket.hdr % 256) ∧
    (up.tile 0).st = .idle ∧ ((orderedState .halted).tile 0).st = .halted ∧ ((orderedState .idle).tile 0).slots[0] = some ⟨1, [(0, 4), (0, 4), (0, 4), (0, 4), (0, 4)], []⟩ ∧
    8 * (2047 : BitVec 11).toNat + 8 ≤ memCap (4 + engCode .sc) ∧ 8 * (511 : BitVec 11).toNat + 8 ≤ memCap (4 + engCode .ne) ∧ (running.tile 0).st = .running ∧
    ((orderedState .isolated).tile 0).st = .isolated := by decide +kernel

def fence1 (beat : Nat) : FenceOrder := { tile := 0, beat := beat, seq := 3 }
def fenceState (beat : Nat) : State := { up with host := { up.host with fences := [fence1 beat] }, beat := 7 }
def colState (c : ColSt) (zeroed : Bool) (st : TileSt) (now : Beat) : State :=
  { onTile { TileState.reset with st := st } with routers := [(0, { RouterState.reset true with col := c, zeroed := zeroed })], beat := now
                                                  host := { up.host with reinstates := [(0, 4)] } }

theorem met_Fencing :
    ((fenceState 7).host.fences.find? (fun f => f.tile = 0 ∧ f.beat ≤ (fenceState 7).beat.toNat) = some (fence1 7) ∧
      smFind (fenceState 7).host.reinstates 0 = none ∧ ((fenceState 7).router 0).col = .opened) ∧
    (∀ f ∈ (fenceState 8).host.fences, f.tile = 0 → (fenceState 8).beat.toNat < f.beat) ∧
    (((colState (.pendingTo 9) true .idle 9).router 0).col = .pendingTo 9 ∧ smFind (colState (.pendingTo 9) true .idle 9).host.reinstates 0 = some 4 ∧
      (9 : Beat).toNat ≤ (colState (.pendingTo 9) true .idle 9).beat.toNat ∧ ((colState (.pendingTo 9) true .idle 9).router 0).zeroed = true) ∧
    (¬∃ f ∈ (colState (.pendingTo 9) true .idle 9).host.fences, f.tile = 0 ∧ f.beat ≤ 9) ∧
    (∃ f ∈ (fenceState 7).host.fences, f.tile = 0 ∧ f.beat ≤ (fenceState 7).beat.toNat) ∧
    (colState (.pendingTo 9) true .idle 8).beat.toNat < (9 : Beat).toNat ∧ ((colState (.pendingTo 9) false .idle 9).router 0).zeroed = false ∧
    ((colState (.pendingTo 9) true .halted 9).tile 0).st ≠ .idle := by decide +kernel

/-! ## Hypotheses of the statements on memories and Ladles -/

def trained : VaultState := { VaultState.reset with trained := true }

theorem met_Vaults :
    let s : State := { up with vaults := [(0, trained)] }
    (s.vaultServes 0 = true ∧ s.vaultAt 0 = some 0 ∧ s.bankOf 0 = (0, 0) ∧ (s.vault 0).refreshing.contains 0 = false ∧ s.goodCws 0 255 = true) ∧
    (0 < s.nClusters ∧ (s.vault 0).trained = true ∧ (s.vault 0).selfref = false) ∧
    (s.fld (vltReg 0 8) 31 1 = 1 ∧ s.goodCws 0 128 = true ∧ s.scrubsIn (s.vault 0).scrubSpan (s.vault 0).scrubDone < s.fld (vltReg 0 8) 0 16 ∧
      s.bankHeld 0 128 = false ∧ smGet (s.vault 0).refNext 0 0 = 0) := by decide +kernel

theorem met_Vaults_refreshing :
    let s : State := { up with vaults := [(0, { trained with refreshing := [0] })] }
    s.vaultServes 0 = true ∧ (s.vault 0).refreshing.contains 0 = true ∧ s.bankHeld 0 128 = true := by decide +kernel

theorem met_Vaults_asleep :
    let s : State := { up with vaults := [(0, { trained with selfref := true, scrubSpan := 0, scrubDone := 65535 })] }
    (s.vault 0).trained = true ∧ (s.vault 0).selfref = true ∧ s.fld (vltReg 0 8) 0 16 ≤ s.scrubsIn (s.vault 0).scrubSpan (s.vault 0).scrubDone ∧
    s.vaultAt (memReqAddr (.read 0 32)) = some 0 := by decide +kernel

/-- A SCORE item of one row and one page, or one with an unknown operation or a field out of range, in the intake of Skillet 0. -/
def itemPacket (op count : Nat) : Packet :=
  { hdr := mkHdr { cls := 0, len := 5, last := true, flow := 5 }, seg := 1
    data := [(BitVec.ofNat 256 (op + 2 ^ 16 + 2 ^ 24 + count * 2 ^ 80), false), (BitVec.ofNat 256 (2 ^ 8), false), (0, false), (0, false), (0, false)] }
def itemState (op count : Nat) : State :=
  { up with vaults := [(0, trained)], segs := [seg1], intakeQ := [(ownKey (.skillet 0), [itemPacket op count])], power := { PowerState.reset with level := 10000000 }
            routers := [(0, { RouterState.reset true with q := [(4 * rportCode .cluster, List.replicate 34 ⟨0, false, false, 0⟩)] })] }

theorem met_Skillets_taken :
    ((itemState 1 1).nextItem 0).map (fun p => (p.2, (sklCmd p.1.bytes).op, (itemState 1 1).itemFault 0 p.1)) = some (1, 1, 0) ∧
    ((itemState 2 1).nextItem 0).map (fun p => (p.2, (sklCmd p.1.bytes).op, (itemState 2 1).itemFault 0 p.1)) = some (1, 2, 0) ∧
    (itemState 1 1).full = true ∧ (itemState 1 1).unlocked.contains 0 = false ∧ ((itemState 1 1).skillet 0).busy = false ∧ (itemState 1 1).vaultServes 0 = true ∧
    (itemState 1 1).mayStart (sklUnit 0) = true ∧ ((itemState 1 1).nextItem 0).map (fun p => (itemState 1 1).itemHeld 0 (sklCmd p.1.bytes)) = some false ∧ 34 ≤ (((itemState 1 1).router 0).queue .cluster 0).length := by decide +kernel

theorem met_Skillets_refused :
    ((itemState 3 1).nextItem 0).map (fun p => ((sklCmd p.1.bytes).op, (itemState 3 1).itemFault 0 p.1)) = some (3, 1) ∧
    ((itemState 1 0).nextItem 0).map (fun p => ((sklCmd p.1.bytes).op, (itemState 1 0).itemFault 0 p.1)) = some (1, 2) := by decide +kernel

def lpUp : LpChan := { LpChan.reset with st := .up }
def lpState : State := { up with lp := [(0, lpUp)], power := { PowerState.reset with level := 10000000 } }

theorem met_Lpddr :
    (lpState.full = true ∧ lpState.domain 4 0 = .run ∧ lpState.fld (lpxReg 4) 24 2 ≤ 1 ∧ (1 : Nat) < 3 ∧ ((1 : BitVec 2) ∈ [(1 : BitVec 2)] ∧ (1 : BitVec 2).toNat = 1)) ∧
    (lpState.lpch 0).st = .up ∧ (lpState.lpch 1).st ≠ .up ∧ 8 < (9 : BitVec 8).toNat ∧ (lpState.lpch 0).hot = false ∧
    (lpState.mayStart (lpUnit 0) = true ∧ lpState.isLpx lpxBase = true ∧ lpChan lpxBase = 0 ∧ lpState.goodCws lpxBase 255 = true) ∧
    lpState.scrubsIn 0 0 < lpState.fld (lpxReg 4) 0 16 ∧ lpState.fld (lpxReg 4) 0 16 ≤ lpState.scrubsIn 0 65535 ∧
    (lpState.fld (lpxReg 4) 31 1 = 1 ∧ lpState.goodCws (lpAddr 0 (lpState.lpch 0).scrubPos) 64 = true) := by decide +kernel

theorem met_Lpddr_rates : (∀ q, lpState.fld (lpxReg 4) 24 2 ≤ q → q < lpState.fld (lpxReg 4) 24 2 → ∀ p ∈ [(0 : BitVec 2)], p.toNat ≠ q) ∧
    (∀ p ∈ [(3 : BitVec 2)], p.toNat < lpState.fld (lpxReg 4) 24 2 ∨ 3 ≤ p.toNat) := by
  constructor
  · intro q h1 h2
    omega
  · decide +kernel

theorem met_LadleStarts :
    running.canIssue .sc at0 = true ∧ (running.lchan 0 0).st ≠ .fault ∧ (running.lchan 0 0).slots.length < 4 ∧ running.fld (ldlReg 0 0) 31 1 = 0 ∧
    running.ladleServes 0 = true ∧ up.ladleServes 64 = true ∧ (((running.taken at0).gpr 1).toNat % 32 = 0 ∧ ((running.taken at0).gpr 1).toNat + 32 ≤ 16384 ∧ running.goodWords 0 3 0 32 = true ∧ running.noRace at0 .sc 3 0 32 = true) := by decide +kernel

/-- A descriptor of one unit from the vault to tile 0's WM, one from the intake to host memory or to tile 0, and one of length 0. -/
def copyDesc : LDesc :=
  { src := 0, dst := 0, len := 1, lenHi := 0, skind := 0, dkind := 1, sfix := false, dfix := false, prio := 0, evkind := 0, modeHi := 0, flow := 5, evtile := 0,
    evtally := 0, evinc := 0, rsvd := 0 }
def begun (d : LDesc) : Transfer := ⟨d, 0, 0, 0, 0, 0, none⟩
def channel (st : LChSt) (d : LDesc) (active : Bool) : LChan :=
  { LChan.reset with st := st, slots := [(d, none)], tr := if active then some (begun d) else none }
def ladleState (l : Nat) (k : Nat) (c : LChan) : State :=
  { up with vaults := [(0, trained)], ladles := [(l, { LadleState.reset with ch := [(k, c)], intake := [(5, [(1, false), (2, false)])] })] }

theorem met_LadleStarts_transfer :
    ((ladleState 0 0 (channel .idle copyDesc false)).ladleOk 0 0 = true ∧ ((ladleState 0 0 (channel .idle copyDesc false)).lchan 0 0).st = .idle ∧
      ((ladleState 0 0 (channel .idle copyDesc false)).lchan 0 0).slots = [(copyDesc, none)] ∧
      (ladleState 0 0 (channel .idle copyDesc false)).descFault 0 0 copyDesc = 0) ∧
    (ladleState 0 0 (channel .idle { copyDesc with len := 0 } false)).descFault 0 0 { copyDesc with len := 0 } = 1 ∧
    ((ladleState 0 0 (channel .idle copyDesc false)).ladleServes 0 = true ∧ (up.lchan 0 0).st ≠ .fault ∧ up.fld (ldlReg 0 0) 31 1 = 0 ∧ (up.lchan 0 0).slots.length < 4) := by decide +kernel

/-- Transfers of one unit from the intake, to host memory and to tile 0: nothing staged, the unit staged, its second flit still to leave. -/
def hostDesc : LDesc := { copyDesc with skind := 3, dkind := 2 }
def tileDesc : LDesc := { copyDesc with skind := 3, dkind := 1 }
def staged (d : LDesc) (stage : List (FlitWord × Bool)) : LChan := { channel .active d true with stage := stage }
def sendingState (left : List (FlitWord × Bool)) : State :=
  { up with ladles := [(0, { LadleState.reset with ch := [(0, channel .active tileDesc true)], sending := some ⟨0, 0, .cluster, 0, left, 1, true⟩ })] }

theorem met_LadleData :
    let unit : List (FlitWord × Bool) := [(1, false), (2, false)]
    let host := ladleState 64 0 (staged hostDesc unit)
    let tile := ladleState 0 0 (staged tileDesc unit)
    let fresh := ladleState 0 0 (channel .active tileDesc true)
    (tile.ladleOk 0 0 = true ∧ nextUnits (begun tileDesc) = 1 ∧ (tile.lchan 0 0).st = .active ∧ (tile.lchan 0 0).tr = some (begun tileDesc) ∧
      ∀ j < 16, j ≠ 0 → (tile.lchan 0 j).st ≠ .active) ∧
    ((fresh.ladle 0).sending = none ∧ (fresh.lchan 0 0).half = none ∧ (fresh.lchan 0 0).stage = [] ∧
      smGet (fresh.ladle 0).intake (flowKey (begun tileDesc)) [] = unit) ∧
    (tile.ladleServes 0 = true ∧ host.ladleServes 64 = true ∧ (tile.vault 0).selfref = false ∧ (host.lchan 64 0).gone = 0 ∧
      (({ host with ladles := [(64, { LadleState.reset with ch := [(0, { staged hostDesc unit with gone := 1 })] })] } : State).lchan 64 0).gone = 2 * 0 + 1 ∧
      smGet (fresh.ladle 0).lost 5 0 = 0) ∧
    ((host.lchan 64 0).stage = unit ∧ hostDesc.dfix = false ∧ host.domain 6 0 = .run ∧ host.ladleOk 64 0 = true) ∧
    (let e := dataEntry 0 tileDesc
     (tile.lchan 0 0).stage = unit ∧ 0 < tile.roomAt e.1 e.2 0 ∧ tile.inputFree e.1 e.2 = true ∧ tile.inputClean e.1 e.2 0 = true) ∧
    (((sendingState [(2, false)]).ladle 0).sending = some ⟨0, 0, .cluster, 0, [(2, false)], 1, true⟩ ∧ ladlePath (begun tileDesc) = 0 ∧
      ((sendingState [(2, false)]).lchan 0 0).stage = [] ∧ 0 < (sendingState [(2, false)]).roomAt 0 .cluster 0 ∧
      (sendingState [(2, false)]).inputClean 0 .cluster 0 = true) ∧
    ((sendingState []).wantsFlow 0 5 = true ∧ fresh.wantsFlow 0 6 = false ∧ (fresh.cluster 0).isolated = false) := by decide +kernel

theorem met_LadleData_intake :
    smGet (itemState 1 1).intakeQ (ownKey (.skillet 0)) [] = [itemPacket 1 1] ∧
    smGet ({ up with intakeQ := [(ownKey (.ladle 0), [itemPacket 1 1])] } : State).intakeQ (ownKey (.ladle 0)) [] = [itemPacket 1 1] := by decide +kernel

/-- A read of one unit that Ladle 0 asked of LPDDR6 channel 0, up or not. -/
def ask1 : LpAsk := ⟨0, 0, 0, lpxBase, 1, true⟩
def askState (c : LpChan) : State :=
  { lpState with lp := [(0, c)], ladles := [(0, { LadleState.reset with ch := [(0, channel .active { copyDesc with src := lpxBase } true)], asks := [ask1] })], lpReqs := [(0, 0)] }

theorem met_Lpddr_ask :
    let e := lpEntry (lpHalf ask1.a) (unitCode 0) 5
    (askState lpUp).lpAskAt 0 0 = some ask1 ∧ (askState lpUp).lpAskAt 1 0 = none ∧ ((askState LpChan.reset).lpch 0).st ≠ .up ∧
    (askState LpChan.reset).lpAskAt 0 0 = some ask1 ∧ (askState lpUp).mayStart (lpUnit 0) = true ∧
    ((askState lpUp).lchan 0 0).tr = some (begun { copyDesc with src := lpxBase }) ∧ 2 * ask1.n + 1 ≤ (askState lpUp).roomAt e.1 e.2 0 ∧
    (askState lpUp).inputFree e.1 e.2 = true ∧ (askState LpChan.reset).lpParked 0 = false ∧ ((askState { lpUp with st := .selfref }).lpParked 0 = true ∧ (askState { lpUp with st := .selfref }).lpAskAt 0 0 = some ask1) ∧
    (askState lpUp).inputClean e.1 e.2 0 = true ∧ (askState lpUp).goodCws ask1.a 64 = true := by decide +kernel

def endedTransfer (done : Nat) : Transfer := ⟨{ copyDesc with evkind := 3, evtile := 9 }, 1, done, 0, 0, 0, none⟩
def endingState (l k : Nat) (st : LChSt) (done : Nat) (now : Beat) : State :=
  { ladleState l k { LChan.reset with st := st, slots := [(copyDesc, none)], tr := some (endedTransfer done) } with beat := now }

theorem met_LadleEnds :
    (((endingState 0 0 .active 1 0).lchan 0 0).tr = some (endedTransfer 1) ∧ ((endingState 0 0 .active 1 0).lchan 0 0).st = .active ∧
      (endedTransfer 1).d.len ≤ (endedTransfer 1).done ∧ ladlePriv 0 0 = false ∧ ladlePriv 0 7 = true ∧
      (endingState 0 0 .active 1 0).pulseRoom 0 (endedTransfer 1).d = true) ∧
    (endedTransfer 0).done < (endedTransfer 0).d.len ∧ ((endingState 0 7 .waitResp 1 0).lchan 0 7).st = .waitResp ∧
    (endingState 0 7 .waitResp 1 0).answered (endedTransfer 1) = true ∧
    (endingState 0 7 .waitResp 1 0).answered { endedTransfer 1 with unanswered := 1 } = false ∧
    (0 + max 1 ((endingState 0 7 .waitResp 1 60000).fld (ldlReg 0 4) 0 16) ≤ (endingState 0 7 .waitResp 1 60000).beat.toNat) ∧
    ((endingState 0 7 .waitResp 1 0).beat.toNat < 0 + max 1 ((endingState 0 7 .waitResp 1 0).fld (ldlReg 0 4) 0 16)) ∧ up.ladleOk 65 15 = true ∧
    up.ladleOk 63 0 = true ∧ up.ladleWritable 63 = true ∧ up.ladleWritable 65 = true := by decide +kernel

/-! ## Hypotheses of the statements on power, clocks and time -/

def powered (p : PowerState) : State := { running with power := p }

theorem met_Kettle :
    let s : State := { onTile { runTile with engines := runTile.engines.set 1 { EngineState.reset with head := some ⟨0, .kettle, [], []⟩ } } with
      power := { PowerState.reset with level := 10000000, held := [0] } }
    s.nextHeld = some 0 ∧ (∀ v ∈ up.power.held, up.liveStart v = false ∨ up.startFits v = false) ∧
    (∀ v ∈ (powered { PowerState.reset with held := [0] }).power.held, (powered { PowerState.reset with held := [0] }).startFits v = false) := by decide +kernel

/-- 2,000 W against the cap of 2,000 W is not above it; 2,001 W is; 1,900 W and cool is clear; stage and stack at their thresholds are hot. -/
theorem met_Kettle_caps :
    up.fld (pwrReg 4) 0 16 = 2000 ∧ ¬ up.fld (pwrReg 4) 0 16 < (2000 : BitVec 16).toNat ∧ up.fld (pwrReg 4) 0 16 < (2001 : BitVec 16).toNat ∧
    (1900 + up.fld (pwrReg 4) 16 16 < up.fld (pwrReg 4) 0 16 ∧ 20 + 5 < up.fld (pwrReg 8) 24 8 ∧ 20 + 5 < up.fld (pwrReg 8) 16 8) ∧
    up.fld (pwrReg 8) 24 8 ≤ (110 : BitVec 8).toNat ∧ up.power.k = 4 ∧ (powered { PowerState.reset with k := 3 }).power.k = 3 ∧
    (powered { PowerState.reset with k := 0 }).power.k = 0 := by decide +kernel

def regionState (x : Region) (p : Nat) : State := { powered { PowerState.reset with level := 10000000 } with regions := [(0, x)], points := [(0, p)] }

/-- A quiet region at a point, steps as given; 20 °C is neither hot nor above the ceiling's limits, 255 °C is hot. -/
theorem met_ClockLadder :
    let down := regionState { Region.reset with steps := [false] } 2
    let up1 := regionState { Region.reset with steps := [true] } 2
    let up2 := regionState { Region.reset with steps := [true, false] } 2
    let full : State := { up1 with power := { PowerState.reset with level := 0, active := [0] } }
    (0 < up.nClusters ∧ (down.region 0).steps = [false] ∧ (down.ceiling 0 < 2 ∨ 2 ≤ down.ceiling 0)) ∧
    ((up1.region 0).steps = [true] ∧ 2 < up1.ceiling 0 ∧ up1.demand + up1.stepWeight 0 ≤ up1.power.level ∧ ¬ up1.tthr ≤ (20 : BitVec 8).toNat) ∧
    ((full.region 0).steps = [true] ∧ 2 < full.ceiling 0 ∧ ¬ full.demand + full.stepWeight 0 ≤ full.power.level) ∧
    ({ up2 with power := full.power }.region 0).steps = [true, false] ∧
    (2 < (regionState Region.reset 2).ceiling 0 ∧ ((regionState Region.reset 2).region 0).steps = [] ∧ (20 : BitVec 8).toNat + 5 < up.tthr) ∧
    ((regionState Region.reset 4).ceiling 0 ≤ 4 ∧ ((regionState Region.reset 4).region 0).steps = []) ∧
    (let s : State := { regionState { Region.reset with hot := true, thermFrom := 0 } 2 with tm := { TimeState.reset with run := 100 * usU } }
     (s.region 0).hot = true ∧ s.tthr ≤ (255 : BitVec 8).toNat ∧ s.passed (s.region 0).thermFrom (100 * usU) = true) := by decide +kernel

/-- A droop of 1 µs, one that has just begun, and the rails. -/
theorem met_ClockLadder_droop :
    let s : State := { regionState { Region.reset with stretch := true, droopFrom := some 0 } 2 with tm := { TimeState.reset with run := usU } }
    let new := regionState { Region.reset with stretch := true, droopFrom := some 0 } 2
    ((s.region 0).droopFrom = some 0 ∧ (s.region 0).stretch = true ∧ s.passed 0 usU = true ∧ 0 < afterSteps 2 (s.region 0).steps) ∧
    (∀ t, (new.region 0).droopFrom = some t → (new.region 0).stretch = false ∨ new.passed t usU = false) ∧ up.module.rails = .on := by
  refine ⟨by decide +kernel, ?_, by decide +kernel⟩
  intro t h
  have e : (0 : Nat) = t := by simpa [regionState, State.region, smGet] using h
  subst e
  exact .inr (by decide +kernel)

def timed (x : TimeState) (regs : SMap Word) : State := { up with tm := x, regs := (genReg 4, 0xF0000000#32) :: regs }

theorem met_BeatsAndPulses :
    (up.tm.sat = false ∧ up.beatDue 1 = false ∧ (timed { TimeState.reset with isLocal := false } []).tm.isLocal = false) ∧
    (let s := timed { TimeState.reset with now := usU } []; s.tm.sat = false ∧ s.beatDue (s.beat.toNat + 1) = true ∧
      s.lagging = [] ∧ (∀ w ∈ s.power.held ++ s.power.granted, s.liveStart w = true) ∧
      (∀ w ∈ s.power.held, w < 4160 ∨ w ∈ s.power.noted) ∧ ∀ r ∈ s.power.heldSteps, (s.region r).steps.head? = some true ∧ s.point r < s.ceiling r) ∧
    ({ up with lagging := [3] } : State).lagging ≠ [] ∧
    (let s := timed { TimeState.reset with pre := true } []; s.tm.sat = false ∧ s.beatDue 0 = true) ∧
    (let s := timed { TimeState.reset with pulses := TimeState.reset.pulses.set 0 ⟨true, 0, none⟩ } [(tpReg 0 0x14, 0x80000000#32)]
     (s.pulse 0).on = true ∧ s.pulseAt 0 (s.pulse 0).j < s.tm.now + s.slowStep ∧ s.fld (tpReg 0 0x14) 31 1 = 1) ∧
    (up.pulse 0).on = false ∧ (up.pulse 0).till = none ∧ up.passed 0 0 = true ∧ up.awake = true ∧ up.reaches = true := by decide +kernel

def source (src : Nat) : SMap Word := [(vtmReg 4, word32 (withField (up.reg (vtmReg 4)).toNat 30 2 src))]

def req7 : BeaconReq := ⟨7, 3, 0, some 0⟩

theorem met_TimeKeeping_sources :
    (timed TimeState.reset (source 1)).fld (vtmReg 4) 30 2 = 1 ∧ (timed TimeState.reset (source 2)).fld (vtmReg 4) 30 2 = 2 ∧
    (timed TimeState.reset (source 0)).fld (vtmReg 4) 30 2 = 0 ∧
    ((timed TimeState.reset (source 1)).tm.lossRun + 1 < (timed TimeState.reset (source 1)).fld (vtmReg 4) 8 8) ∧
    ((timed { TimeState.reset with st := .locked, lossRun := 254 } (source 1)).fld (vtmReg 4) 8 8 ≤ 254 + 1) ∧
    (timed TimeState.reset (source 1)).passed 0 (2 * secU) = false ∧ (timed { TimeState.reset with run := 2 * secU } (source 1)).passed 0 (2 * secU) = true ∧
    (let s : State := { timed { TimeState.reset with run := 256 * 1000 * usU } (source 2) with host := { up.host with pcie := { up.host.pcie with ptm := true } } }
     s.passed 0 (s.fld (vtmReg 4) 0 8 * (1000 * usU)) = true ∧ s.host.pcie.ptm = true) ∧ (timed TimeState.reset (source 1)).reaches = true ∧ up.reaches = true := by decide +kernel

theorem met_TimeKeeping_usable :
    let s : State := { timed { TimeState.reset with st := .acquire, lossRun := 254, active := 3, reqs := [req7], now := 126 * usU, run := 126 * usU }
      [(vtmReg 4, word32 (withField (withField (up.reg (vtmReg 4)).toNat 30 2 0) 19 5 4))] with nports := [(4, { NPort.reset with st := .up })] }
    s.fld (vtmReg 4) 30 2 = 0 ∧ s.fld (vtmReg 4) 19 5 = 4 ∧ s.tm.active ≠ 4 ∧ (smGet s.nports 4 NPort.reset).st = .up ∧ s.tm.reqs = [req7] ∧
    s.reqLost req7 = true := by decide +kernel

theorem met_TimeKeeping_early :
    let s := timed { TimeState.reset with reqs := [req7] } []
    s.tm.reqs ≠ [] ∧ (∀ w ∈ s.tm.reqs, s.reqLost w = false) ∧ s.tm.stepped = false ∧
    (let q := timed { TimeState.reset with run := 250 * usU } (source 0); q.tm.reqs = [] ∧ q.passed 0 (250 * usU) = true) := by decide +kernel

theorem met_TimeKeeping_beacons :
    let req : NPkt := timePacket (timePayload 1 0 0 5 0 0 0)
    let resp (flags : Nat) : NPkt := timePacket (timePayload 2 flags 30 5 0 0 0)
    let q5 : BeaconReq := ⟨5, 0, 0, some 0⟩
    let s (p : NPkt) : State := { timed { TimeState.reset with active := 0, reqs := [q5] } (source 0) with nports := [(0, { NPort.reset with times := [p] })] }
    (pktOp req = 1 ∧ ((s req).nport 0).times = [req]) ∧
    (pktOp (resp 2) = 2 ∧ (s (resp 2)).tm.reqs.find? (fun w => w.id = pktField (resp 2) 32 32) = some q5 ∧ pktField (resp 2) 8 3 = 2 ∧ pktField (resp 3) 8 3 = 3 ∧
      pktField (resp 2) 16 8 < 31 ∧ (s (resp 2)).stamp 255 ≤ 0 + 125 * usU ∧ (s (resp 2)).tm.st = .free) ∧
    (∀ w ∈ [q5], w.id ≠ pktField (timePacket (timePayload 2 2 30 6 0 0 0)) 32 32) ∧
    (let q := timed { TimeState.reset with active := 17, run := 125 * usU, reqFrom := some 0 } (source 0)
     q.tm.active < q.nPorts ∧ q.tm.reqFrom = some 0 ∧ q.passed 0 (125 * usU) = true) := by decide +kernel

/-! ## Hypotheses of the statements on the Novbo ports and the fleet -/

def portState (x : NPort) : State := { up with nports := [(0, x)] }
def upPort : NPort := { NPort.reset with st := .up, lanes := 0xF }
def plain (cls seq : Nat) : NPkt := { drank := 0, job := 0, flow := 5, path := 0, cls := cls, seq := seq, data := [] }

theorem met_NovboIntake_link :
    (0 < (portState upPort).nPorts ∧ ((portState upPort).nport 0).st = .up ∧ ((portState upPort).nport 0).deaf = false) ∧
    lcwGood 0 = false ∧ (readPacket [0x200FB#64] [] = none ∧ fieldOf (0x200FB#64).toNat 17 3 ≠ 2) ∧
    (0 : BitVec 64).toNat % 256 ≠ 0xFB ∧ (0 : BitVec 64).toNat % 256 ≠ 0x9C ∧ (0 : BitVec 64) ≠ 0x0707070707070707 ∧ readPacket (plain 0 0).words [] = some (plain 0 0) ∧ readPacket (plain 2 0).words [] = some (plain 2 0) ∧
    readPacket (plain 4 4000).words [] = some (plain 4 4000) ∧ readPacket (plain 1 3).words [] = some (plain 1 3) := by decide +kernel

/-- The distances at which a packet is the awaited one, a later one, the last that counts as later, and a duplicate. -/
theorem met_NovboIntake_turns :
    (let s := portState { upPort with exp := 4095 }; ((4095 : Nat) + 4096 - (s.nport 0).exp) % 4096 = 0 ∧ ((0 : Nat) + 4096 - (s.nport 0).exp) % 4096 = 1 ∧
      ((3070 : Nat) + 4096 - (s.nport 0).exp) % 4096 = 3071 ∧ ((3071 : Nat) + 4096 - (s.nport 0).exp) % 4096 = 3072 ∧ (s.nport 0).nakFor ≠ some (s.nport 0).exp) ∧
    ((portState { upPort with nakFor := some 0 }).nport 0).nakFor = some ((portState { upPort with nakFor := some 0 }).nport 0).exp ∧
    ((portState { upPort with deaf := true }).nport 0).deaf = true := by decide +kernel

theorem met_NovboIntake_delivered :
    (let s := { portState { upPort with pool := [plain 1 0] } with fleet := { FleetState.reset with job := .setup } }
     (s.nport 0).pool.find? (fun p => p.cls ≠ 0 && !isMarker p) = some (plain 1 0) ∧ s.fld (mgtReg 0xA024) 0 1 = 0 ∧ s.fleet.job ≠ .fenced ∧
       s.fleet.job ≠ .none ∧ (plain 1 0).drank = s.ownRank ∧ (plain 1 0).job = s.jobId) ∧
    (let p : NPkt := { plain 3 0 with flow := 0, data := [(0, false)] }
     let s := portState { upPort with pool := [p] }; (s.nport 0).pool.find? (fun p => p.cls ≠ 0 && !isMarker p) = some p ∧ p.drank = s.ownRank) ∧
    ((portState { upPort with pool := [plain 4 0] }).nport 0).pool.find? (fun p => p.cls ≠ 0 && !isMarker p) = some (plain 4 0) ∧
    ({ plain 1 0 with job := 9 } : NPkt).job ≠ up.jobId ∧
    (let s := portState { upPort with pool := [markerPkt] }; (s.nport 0).pool.find? isMarker = some markerPkt ∧ s.buddy 0 = some 1 ∧
      (s.nport 0).pool.takeWhile (fun q => !isMarker q) = []) := by decide +kernel

theorem met_NovboLink :
    (let s := portState { upPort with buf := [plain 0 0, plain 0 1], txNext := 2 }
     (s.nport 0).buf = [plain 0 0, plain 0 1] ∧ listens (s.nport 0) = true ∧ carries (s.nport 0) = true ∧ (s.nport 0).replaying = [] ∧ (s.nport 0).expiries < 3 ∧
       s.passed (s.nport 0).timerFrom (16 * usU) = false ∧ ({ s with tm := { s.tm with run := 16 * usU } } : State).passed (s.nport 0).timerFrom (16 * usU) = true) ∧
    (readLcw (lcwWord (lcwBody 1 1 0 9)) = some 1 ∧ (fieldOf (lcwWord (lcwBody 1 1 0 9)).toNat 12 12 + 4096 - 0) % 4096 = 1) ∧
    (readLcw (lcwWord (lcwBody 1 4095 0 9)) = some 1 ∧ (fieldOf (lcwWord (lcwBody 1 4095 0 9)).toNat 12 12 + 4096 - 0) % 4096 = 4095 ∧
      2048 ≤ (fieldOf (lcwWord (lcwBody 1 4095 0 9)).toNat 12 12 + 4096 - 2) % 4096) ∧
    (readLcw (lcwWord (lcwBody 2 0 0 9)) = some 2 ∧ [plain 0 0, plain 0 1].drop 1 = [plain 0 1] ∧ (plain 0 1).seq = (0 + 1) % 4096) ∧
    ((portState { upPort with expiries := 3 }).nport 0).expiries = 3 := by decide +kernel

theorem met_NovboLink_words :
    (64 ≤ ((portState { upPort with unacked := 64 }).nport 0).unacked ∧ (portState upPort).passed (upPort).ackFrom (2 * usU) = false) ∧ (portState upPort).prbsOn 0 = false ∧
    readLcw (lcwWord (0x9C + 4 * 2 ^ 8 + 3 * 2 ^ 24)) = some 4 ∧ readLcw (lcwWord (0x9C + 5 * 2 ^ 8)) = some 5 ∧
    (let s : State := { portState upPort with regs := [(genReg 4, 0xF0000000#32), (nbpReg 1 0x18, 0x80000001#32)] }
     s.buddy 0 = some 1 ∧ s.fld (nbpReg 1 0x18) 31 1 = 1 ∧ s.fld (nbpReg 1 0x18) 0 24 ≠ 3) := by decide +kernel

theorem met_NovboOutput_slots :
    (((portState { upPort with replaying := [plain 0 0] }).nport 0).replaying = [plain 0 0] ∧ carries upPort = true) ∧
    planReady { upPort with plan := some (plain 0 0, ⟨planHdr, [], 0, 0, 0⟩, 0) } = some (plain 0 0) ∧ resendHead upPort = none ∧
    (resendHead { upPort with resend := [plain 0 0] } = some (plain 0 0) ∧ maySend { upPort with resend := [plain 0 0] } (plain 0 0) = true ∧
      maySend { upPort with resend := [plain 0 0], sent := [(0, 60000)] } (plain 0 0) = false) ∧
    (planReady ((portState upPort).nport 0) = none ∧ 32 ≤ ((portState { upPort with planSince := 32 }).nport 0).planSince) ∧
    ((portState { upPort with ctl := [plain 3 0] }).ctlReady 0 = some (plain 3 0) ∧ (plain 3 0).cls ≠ 2 ∧ isLbg (plain 3 0) = false) ∧
    (let p := timePacket (timePayload 1 0 0 5 0 0 0)
     (portState { upPort with ctl := [p] }).ctlReady 0 = some p ∧ p.cls = 2 ∧ pktOp p ≠ 2 ∧ pktOp p = 1 ∧ pktField p 32 32 = 5) := by decide +kernel

/-- Segment 1 with flow 5 owning egress of port 0 toward rank 1, or entering by port 0 to tile 7, and a route to rank 1. -/
def novboSeg : Segment :=
  { seg1 with own := [(.novbo 0, [⟨5, 0, 1⟩])], ingress := [(0, [{ flow := 5, dest := 7, spanEnd := 0, kind := 0, unit := 0, dmem := 1, htally := 0, hinc := 0 }])] }
def egressState (flow : Nat) (st : OwnSt) : State :=
  { portState upPort with
    segs := [novboSeg], ports := [(ownKey (.novbo 0), owned st false)], intakeQ := [(ownKey (.novbo 0), [⟨mkHdr { cls := 0, flow := flow }, [], 0, 0, 0⟩])]
    fleet := { FleetState.reset with ranks := [(1, 0x80000000#32)] } }

theorem met_NovboOutput_egress :
    (((egressState 5 (.owned 0)).nport 0).plan = none ∧ ((egressState 5 (.owned 0)).nport 0).resend = [] ∧
      ((egressState 5 (.owned 0)).nport 0).failBuf = [] ∧ (egressState 5 (.owned 0)).fleet.job ≠ .fenced ∧
      ((egressState 5 (.owned 0)).nport 0).st = .up ∧ ((egressState 5 (.owned 0)).nport 0).adopting = false ∧
      (egressState 5 (.owned 0)).portVerdict (.novbo 0) 5 = .forward ∧ (egressState 5 (.owned 0)).ownerEntry (.novbo 0) = some (1, 0) ∧
      (egressState 5 (.owned 0)).rankRoute 1 = some 0x80000000 ∧ routeFenced 0x80000000 = false ∧ routePort 0x80000000 = 0 ∧
      pathHops (routePath 0x80000000) = 0) ∧
    (egressState 9 (.owned 0)).portVerdict (.novbo 0) 9 = .conflict ∧
    ({ egressState 5 (.owned 0) with tm := { TimeState.reset with pre := true } } : State).portVerdict (.novbo 0) 5 = .wait := by decide +kernel

def ingressState (p : NPkt) : State := { egressState 5 (.owned 0) with nports := [(0, { upPort with pool := [p] })] }

theorem met_NovboOutput_ingress :
    let s := ingressState (plain 0 0)
    let other := ingressState { plain 0 0 with flow := 9 }
    ((s.nport 0).pool.find? (fun p => p.cls = 0) = some (plain 0 0) ∧ (s.nport 0).haltIngress = false ∧ s.fld (mgtReg 0xA024) 0 1 = 0) ∧
    (s.ingressEntry 0 5).map (fun e => (decide ((plain 0 0).data.length + 1 ≤ s.roomAt (ingressSite 0 e).1 (ingressSite 0 e).2 0),
      s.inputFree (ingressSite 0 e).1 (ingressSite 0 e).2 && s.inputClean (ingressSite 0 e).1 (ingressSite 0 e).2 0)) = some (true, true) ∧ (plain 0 0).job = s.jobId ∧ (plain 0 0).drank = s.ownRank ∧
    (other.ingressEntry 0 9 = none ∧ other.buddy 0 = some 1 ∧ (other.nport 1).waitMarker = false) ∧ ({ plain 0 0 with job := 3 } : NPkt).job ≠ up.jobId := by
  decide +kernel

theorem met_NovboPorts :
    let later : State := { portState { NPort.reset with st := .down } with tm := { TimeState.reset with run := 100000 * usU } }
    ((portState { NPort.reset with st := .train }).nport 0).st = .train ∧
    ((later.nport 0).st = .down ∧ later.domain 3 0 = .run ∧ later.passed (later.nport 0).downFrom (100000 * usU) = true ∧
      (portState { NPort.reset with st := .down }).passed 0 (100000 * usU) = false) ∧
    (let s := portState { upPort with st := .lockloss, lanes := 7 }
     (s.nport 0).lanes ≠ 0xF ∧ (s.nport 0).st = .lockloss ∧ s.passed (s.nport 0).lockFrom (s.fld (nbpReg 0 4) 0 10 * usU) = false ∧
       later.passed 0 (later.fld (nbpReg 0 4) 0 10 * usU) = true) ∧
    (((portState { upPort with st := .probation }).nport 0).st = .probation ∧ ((portState { upPort with st := .probation }).nport 0).prob = 0) ∧
    ((portState { upPort with haltEgress := true }).nport 0).haltEgress = true ∧ (17 : BitVec 5).toNat < up.nPorts ∧ up.writable 3 0 = true ∧
    up.reaches = true ∧ up.awake = true := by decide +kernel

theorem met_NovboPorts_failover :
    let s : State := { up with nports := [(0, { upPort with adopting := true }), (1, { NPort.reset with st := .down, failBuf := [plain 0 0, plain 0 1] })] }
    let h : State := { up with nports := [(0, { upPort with st := .handback, switched := some 5 }), (1, { upPort with adopting := true })]
                               replays := [{ run1 with base := 5, live := [⟨0, 0, [], []⟩] }] }
    (s.buddy 0 = some 1 ∧ (s.nport 0).adopting = true ∧ carries (s.nport 1) = false ∧ (s.nport 0).exch.got = false ∧ listens (s.nport 0) = true ∧
      (s.nport 0).failBuf = [] ∧ readLcw (takeoverWord NPort.reset false) = some 3 ∧
      (fieldOf (takeoverWord { NPort.reset with failExp := 1 } false).toNat 12 12 + 4096 - 0) % 4096 < 2) ∧
    ((s.nport 0).exch.stopped = false ∧ (s.nport 0).exch.sentAt = none ∧ up.passed 0 (2 * usU) = false ∧
      ({ up with tm := { up.tm with run := 2 * usU } } : State).passed 0 (2 * usU) = true) ∧
    ((h.nport 0).switched = some 5 ∧ (h.nport 0).st = .handback ∧ h.replaySince 5 = true ∧ h.buddy 0 = some 1 ∧ (h.nport 1).adopting = true ∧
      (h.port (.novbo 0)).st = .done ∧ (h.nport 1).resend = [] ∧ (h.nport 1).plan = none) := by decide +kernel

/-- A buddy that adopts nothing. -/
theorem met_NovboPorts_not_adopted :
    let s : State := { portState { upPort with st := .handback, switched := some 5 } with replays := [{ run1 with base := 5, live := [⟨0, 0, [], []⟩] }] }
    s.buddy 0 = some 1 ∧ (s.nport 1).adopting = false ∧ s.replaySince 5 = true := by decide +kernel

theorem met_NovboPorts_no_buddy :
    let s : State := { portState { upPort with st := .handback, switched := some 5 } with
                       replays := [{ run1 with base := 5, live := [⟨0, 0, [], []⟩] }], regs := [(genReg 4, 0xF0000000#32), (nbpReg 0 4, 0x01F00000#32)] }
    s.buddy 0 = none ∧ s.replaySince 5 = true := by decide +kernel

/-- An access to the optics of port 0 goes on, and one of port 1 of the same group waits behind it. -/
def opticsState : State := { up with regs := [(genReg 4, 0xF0000000#32), (nbpReg 0 0x70, 0x80000000#32), (nbpReg 1 0x70, 0x80000000#32)] }

theorem met_NovboPorts_optics :
    opticsState.fld (nbpReg 0 0x70) 31 1 = 1 ∧ opticsState.opticsWaits 0 = false ∧ opticsState.opticsWaits 1 = true ∧
    opticsState.fld (nbpReg 2 0x70) 31 1 = 0 := by decide +kernel

def setup (root : Bool) (children : List Nat) : SetupRec := { root := root, parent := 8, sparent := 9, children := children, schildren := [], segs := [] }
def msg (op srank : Nat) : SyncMsg := { job := 0, op := op, reason := 0, srank := srank, beat := 0, tag := 0, orank := 0, arg := 0 }
def jobState (st : JobSt) (r : SetupRec) (m : List SyncMsg) : State :=
  { up with fleet := { FleetState.reset with job := st, setup := some r, syncIn := m.map (fun q => (q, 0)) } }
def early (s : State) : State := { s with regs := [(genReg 4, 0xF0000000#32), (mgtReg 0xA008, 1000#32)] }

theorem met_JobStart :
    ((jobState .setup (setup true []) [msg 1 8]).fleet.syncIn.find? (fun q => q.1.op = 1) = some (msg 1 8, 0) ∧
      (jobState .setup (setup true []) []).prepareCheck (setup true []) (msg 1 8) = 0 ∧
      (jobState .setup (setup false []) []).prepareCheck (setup false []) (msg 1 8) ≠ 0) ∧
    ((jobState .preparing (setup true [2, 3]) [msg 2 2]).fleet.syncIn.find? (fun q => q.1.op = 2) = some (msg 2 2, 0) ∧ (2 : Nat) ∈ (setup true [2, 3]).children ∧
      (2 : Nat) ∉ (jobState .preparing (setup true [2, 3]) []).fleet.acks ∧ (∃ c ∈ (setup true [2, 3]).children, c ∉ [2]) ∧ (∀ c ∈ (setup true [2]).children, c ∈ [2])) ∧
    (0 + 199 ≤ (early (jobState .preparing (setup true [2]) [])).tStart ∧ ¬ 0 + 199 ≤ (jobState .preparing (setup true [2]) []).tStart) ∧
    ((jobState .preparing (setup true [2]) []).syncCame 2 2 0 = false ∧ (jobState .preparing (setup true [2]) [msg 2 2]).syncCame 2 2 0 = true) ∧
    ((jobState .prepared (setup false [2]) []).syncCame 4 8 0 = false ∧ (jobState .prepared (setup false [2]) []).syncCame 4 9 0 = false ∧
      (jobState .prepared (setup false [2]) [msg 4 8]).syncCame 4 8 0 = true) ∧
    ((msg 4 8).srank = (setup false []).parent ∧ (msg 4 9).srank = (setup false []).sparent) ∧
    ((jobState .preparing (setup true [2]) []).tStart ≤ (jobState .preparing (setup true [2]) []).beat.toNat + 99 ∧ up.tm.pre = false) ∧
    (early up).beat.toNat + 99 < (early up).tStart := by decide +kernel

def dueState (kind : Nat) : State :=
  { jobState .running (setup true []) [] with fleet := { FleetState.reset with job := .running, actions := [⟨kind, 0, 0, none⟩] } }

theorem met_JobActions :
    ((jobState .committed { setup true [] with segs := [1] } []).gateOpen (jobState .committed { setup true [] with segs := [1] } []).tStart = true ∧
      ({ jobState .committed { setup true [] with segs := [1] } [] with segs := [seg1] } : State).findSeg (BitVec.ofNat 16 1) = some seg1) ∧
    (early up).gateOpen (early up).tStart = false ∧
    ((dueState 1).dueAction = some ⟨1, 0, 0, none⟩ ∧ (dueState 2).dueAction = some ⟨2, 0, 0, none⟩ ∧ (dueState 3).dueAction = some ⟨3, 0, 0, none⟩ ∧
      (dueState 4).dueAction = some ⟨4, 0, 0, none⟩ ∧ (dueState 5).dueAction = some ⟨5, 0, 0, none⟩) ∧
    (matchesRank 0x80000000 0 = true ∧ up.fld (hifReg 0) 31 1 = 0 ∧ up.beat.toNat + 2 ≤ 2 ∧ up.fleet.setup = none ∧
      up.fleet.forwarded.contains { { msg 6 3 with beat := 2, orank := 1 } with srank := 0 } = false) := by decide +kernel

/-! ## Host interface -/

def put (s : State) (l : List (Nat × Nat)) : State := l.foldl (fun q r => q.setReg r.1 (BitVec.ofNat 32 r.2)) s
/-- The first submission ring, the completion ring and the event ring enabled with 64 slots. -/
def rings : State := put up [(sqReg 0 8, 0x80000006), (hifReg 0x18, 0x80000006), (hifReg 0x28, 0x80000006)]

theorem met_Doorbells :
    rings.ready = true ∧ rings.awake = true ∧ rings.fnServes 0 = true ∧ rings.ringOn (sqReg 0 8) = true ∧ rings.ringOn (sqReg 1 8) = false ∧ rings.ringSize (sqReg 0 8) = 64 ∧
    ((63 : Word).toNat < 64 ∧ 64 ≤ (64 : Word).toNat) ∧ ((hifReg 0x18 : Nat) ≠ hifReg 0x28 ∧ rings.ringOn (hifReg 0x18) = true) ∧
    ((0 + 64 - (1 + 64 - 1) % 64) % 64 ≤ 1 ∧ 0 < (1 + 64 - (0 + 64 - 0) % 64) % 64) ∧
    ((65 : BitVec 7).toNat < 66 ∧ 6 ≤ (0x80000010 : Word).toNat % 32 ∧ (0x80000010 : Word).toNat % 32 ≤ 16) := by decide +kernel

def nopDesc : List Byte := List.replicate 64 0
theorem met_Acceptance :
    (up.refusal up.host.next 0 nopDesc = 0 ∧ up.refusal up.host.next 0 (5 :: 0 :: nopDesc.drop 2) = 2 ∧ up.findCmd up.host.next = none ∧ memWf up.devMem = true ∧
      ({ up with vaults := [(0, trained)] } : State).vaultServes 0 = true) ∧
    (up.ready = true ∧ up.tm.pre = false ∧ up.host.roundBeat ≠ some up.beat.toNat) ∧ (put up [(hifReg 0, 0x80000000)]).fld (hifReg 0) 31 1 = 1 ∧
    ((put up [(mgtReg 0x14, 0x80000000)]).mctpUp = true ∧ nopDesc.length = 64 ∧ State.reset.mctpUp = false) ∧ State.reset.ready = false := by decide +kernel

/-- An ACTION of the fleet for beat 2 waits for the round while HL0 moves no data. -/
theorem met_Acceptance_action :
    let s : State := { up with regs := [(genReg 4, 0xF0000000#32), (ldlReg 64 0, 0x80000000#32)]
                               host := { up.host with orders := [(true, actionDesc 1 2 0)] } }
    (s.ready = true ∧ s.tm.pre = false ∧ s.host.roundBeat ≠ some s.beat.toNat) ∧ (s.fld (hifReg 0) 31 1 = 0 ∧ s.hostLadleUp 0 = false) ∧
    s.host.cmds.length + s.host.waiting.length < 32768 ∧ s.findCmd s.host.next = none ∧ s.host.orders = [(true, actionDesc 1 2 0)] ∧
    s.beat.toNat + 2 ≤ 2 ∧ s.fleet.actions.length < 16 := by decide +kernel

def oneDone : State := { rings with host := { rings.host with waiting := [⟨7, 1, 0, 0, 0⟩], pba := [3], pcie := { rings.host.pcie with msixEnable := true } } }
def oneEvent : State := { rings with events := [⟨0x20, 0, 5, 0, false⟩] }
theorem met_HostRings :
    (oneDone.hostLadleUp 0 = true ∧ oneDone.ringOn (hifReg 0x18) = true ∧ oneDone.host.cq.used < oneDone.ringSize (hifReg 0x18)) ∧ up.ringOn (hifReg 0x18) = false ∧
    (oneEvent.evForward = [] ∧ oneEvent.ringOn (hifReg 0x28) = true ∧ oneEvent.host.eq.used < oneEvent.ringSize (hifReg 0x28)) ∧
    ((⟨0x20, 0, 5, 0, false⟩ : Event).ownHalt = false ∧ (⟨1, 0, 5, 0, false⟩ : Event).ownHalt = true ∧
      ¬ ((List.replicate 1024 (⟨0x20, 0, 5, 0, false⟩ : Event)).filter (fun x => !x.ownHalt)).length < 1024) ∧
    (3 ∈ oneDone.host.pba ∧ ({ oneDone with host := { oneDone.host with msix := [(60, 0)] } } : State).vectorMasked 3 = false) ∧
    (0 ∉ rings.host.pba ∧ (put rings [(hifReg 0x30, 0x01000000)]).vectorDue { PRing.reset with unsent := 1 } 16 = true) := by decide +kernel

/-- One accepted command of an opcode with a payload, not begun. -/
def cmd (op : Nat) (p : List (Nat × Nat × Nat)) : Cmd :=
  { seq := 3, ring := 0, opcode := op, tag := 0, acceptBeat := 0, payload := fieldBytes 48 0 p, started := false, left := 0 }
def withCmd (s : State) (c : Cmd) : State := { s with host := { s.host with cmds := [c] } }

theorem met_PlainCommands :
    (withCmd up (cmd 0 [])).cmdReady 3 0 = some (cmd 0 []) ∧
    (let c := cmd 1 [(8, 8, 0x20000000), (16, 4, 1)]
     let s := withCmd up c
     let parts := copyParts 0 0x20000000 1 3 s.copyChannel false
     s.cmdReady 3 1 = some c ∧ s.rangeStop 0x20000000 64 = 0 ∧ s.domain 6 0 = .run ∧ parts ≠ [] ∧
       (∀ p ∈ parts, (s.lchan p.1 p.2.1).st ≠ .fault ∧ (s.lchan p.1 p.2.1).slots.length < 4 ∧ s.fld (ldlReg p.1 0) 31 1 = 0) ∧
       ∃ p ∈ parts, ({ s with ladles := [(0, { LadleState.reset with ch := [(7, { LChan.reset with slots := List.replicate 4 (copyDesc, none) })] })] } : State).channelTakes
         p.1 p.2.1 = false) ∧
    up.rangeStop (64 * vaultSize) 64 ≠ 0 ∧ ({ up with boot := { up.boot with doms := [(domKey 6 0, .held)] } } : State).domain 6 0 ≠ .run ∧
    (let c := cmd 0x23 [(0, 2, 100), (2, 2, 90)]; (withCmd up c).cmdReady 3 0x23 = some c) ∧
    (let c := cmd 0x20 [(0, 2, 5), (8, 8, 100)]; (withCmd up c).cmdReady 3 0x20 = some c) ∧ up.tileOk 5 = true ∧ up.tileOk 4095 = true ∧ up.tileOk 4096 = false ∧
    (let c := cmd 0x21 [(0, 2, 5), (8, 8, 100)]; (withCmd up c).cmdReady 3 0x21 = some c) ∧ (up.router 5).col = .opened ∧
    (withCmd up (cmd 0 [])).cmdReady 3 1 = none := by decide +kernel

theorem met_PlainCommands_fenced :
    (({ up with routers := [(5, { RouterState.reset true with col := .fenced })] } : State).router 5).col = .fenced ∧
    (({ up with routers := [(5, { RouterState.reset true with col := .pendingTo 9 })] } : State).router 5).col = .pendingTo 9 := by decide +kernel

theorem imageBytes_length : imageBytes.length = 0x1C8 := by
  have d : imageDigest.length = 32 := length_shake256 _ _ (by decide)
  have h : imageHead.length = 0x28 := by decide +kernel
  have r : imageRest.length = 0x180 := by decide +kernel
  simp [imageBytes, d, h, r]
theorem imaged_read : imaged.hostRead 0 0x1C8 = imageBytes := by
  have h : memRead (memWrite [] 0 imageBytes) 0 imageBytes.length = imageBytes := memRead_memWrite 0 imageBytes (by decide)
  rw [imageBytes_length] at h
  exact h

theorem met_SegmentCommands :
    (let c := cmd 2 [(0, 8, 0), (8, 8, 0x1C8)]; (withCmd up c).cmdReady 3 2 = some c ∧ field c.payload 0 8 = 0 ∧ field c.payload 8 8 = 0x1C8) ∧
    up.imageStatus (readImage []) 0 ≠ 0 ∧
    (let c := cmd 3 [(0, 2, 1)]; (withCmd { up with segs := [seg1] } c).cmdReady 3 3 = some c) ∧ up.findSeg 1 = none ∧
    (({ up with segs := [seg1] } : State).findSeg 1 = some seg1 ∧ seg1.slot.toNat = 0 ∧ (sendState.tile 0).st = .running ∧ (sendState.tile 0).seg = seg1.id) ∧
    (let c := cmd 4 [(0, 2, 1), (2, 2, 2)]; (withCmd { up with segs := [seg1] } c).cmdReady 3 4 = some c) ∧
    (Patch.ok (patchOf 0) seg1 = true ∧ Patch.ok (patchOf 1) seg1 = false ∧ ((orderedState .halted).tile 0).st = .halted ∧
      field (cmd 4 [(0x20, 2, 1)]).payload 0x20 2 = 1) := by decide +kernel

theorem met_SegmentCommands_load : imaged.imageStatus (readImage (imaged.hostRead 0 0x1C8)) 0x1C8 = 0 := by
  rw [imaged_read]
  exact image_status

theorem met_JobCommands :
    (let c := cmd 0x10 []; (withCmd up c).cmdReady 3 0x10 = some c) ∧ setupBad (up.hostRead 0 128) = true ∧
    setupBad (fieldBytes 128 0 [(0, 4, 0x80000000), (4, 2, 1)]) = false ∧ up.fleet.job = .none ∧
    (let c := cmd 0x11 []; (withCmd (jobState .setup (setup true []) []) c).cmdReady 3 0x11 = some c) ∧
    (let c := cmd 0x12 [(0, 1, 1), (8, 8, 2)]; (withCmd up c).cmdReady 3 0x12 = some c ∧ ¬ field c.payload 8 8 < up.beat.toNat + 2) ∧
    (let c := cmd 0x12 [(0, 1, 6), (8, 8, 1)]; (withCmd up c).cmdReady 3 0x12 = some c ∧ field c.payload 8 8 < up.beat.toNat + 2) ∧
    (let c := cmd 0x13 []; (withCmd (jobState .running (setup true []) []) c).cmdReady 3 0x13 = some c) := by decide +kernel

/-! ## Serving and weights -/

def withReq (s : State) (st : ReqSt) : State :=
  { s with srv := { s.srv with reqs := [(0, { Req.free with st := st, n := 5, reasons := if st = .paused then [0] else [] })] } }
/-- Request 0 in a state, one command of an opcode waiting. -/
def reqCmd (st : ReqSt) (op : Nat) (p : List (Nat × Nat × Nat)) : State := withCmd (withReq up st) (cmd op p)
def stepIn (s : State) : State := { s with srv := { s.srv with models := [(0, { Serving.reset with step := some ⟨7, 1, 0, 0, [⟨0, 0, 4, 1, 9, 1⟩], []⟩ })] } }
def goodRecord : List Byte :=
  fieldBytes 1216 0 [(4, 4, 1), (0x18, 1, 4), (0x1C, 2, 2), (0x30, 4, 1), (0x3C, 4, 0x3F800000), (0x4C, 4, 0x3F800000)]
def slotSt (x : ModelSlot) (s : State) : State := { s with wgt := { s.wgt with slots := [(0, x)] } }
def readySlot : ModelSlot := { ModelSlot.reset with st := .ready }

theorem met_RequestCommands_submit :
    let s := slotSt readySlot (withCmd { up with hostMem := memWrite [] 0 goodRecord } (cmd 0x30 [(0, 2, 0)]))
    let c := cmd 0x30 [(0, 2, 0)]
    let c1 : Cmd := { c with payload := c.payload ++ goodRecord }
    (s.findCmd 3 = some c ∧ c.opcode = 0x30 ∧ c.started = false ∧ c.record = []) ∧ s.hostRead 0 1216 = goodRecord ∧ recBad goodRecord = false ∧
      recBad (List.replicate 1216 0) = true ∧ recModel c1.record = 0 ∧ s.resident 0 = true ∧
      (reqCmd .free 0x30 []).resident 0 = false ∧ (s.setCmd c1).blocked c1 = false ∧
      recContinue c1.record = false ∧ c1.handle = 0 ∧ (s.req 0).st = .free ∧ (s.slotOf 0).st = .ready := by decide +kernel

theorem met_RequestCommands :
    ((reqCmd .active 0x31 []).findCmd 3 = some (cmd 0x31 []) ∧ ((reqCmd .active 0x31 []).req 0).st = .active ∧ (reqCmd .active 0x31 []).resident 0 = false ∧
      (reqCmd .active 0x31 []).commandModel (cmd 0x31 []) = some 0 ∧ (slotSt readySlot (reqCmd .active 0x31 [])).resident 0 = true ∧
      (reqCmd .active 0x31 []).blocked (cmd 0x31 []) = false) ∧
    (((reqCmd .held 0x31 []).req 0).st = .held ∧ ((reqCmd .free 0x31 []).req 0).st = .free ∧ (cmd 0x31 []).left ≠ 1) ∧
    ((reqCmd .active 0x32 []).findCmd 3 = some (cmd 0x32 []) ∧ (reqCmd .active 0x32 []).blocked (cmd 0x32 []) = false ∧
      (reqCmd .cold 0x32 []).blocked (cmd 0x32 []) = false ∧ ((reqCmd .cold 0x32 []).req 0).st = .cold) ∧
    ((reqCmd .paused 0x33 []).findCmd 3 = some (cmd 0x33 []) ∧ field (cmd 0x33 []).payload 2 1 = 0 ∧ ((reqCmd .paused 0x33 []).req 0).reasons = [0] ∧
      (reqCmd .paused 0x33 []).blocked (cmd 0x33 []) = false) ∧
    (let c := cmd 0x34 [(4, 4, 5)]; (reqCmd .held 0x34 [(4, 4, 5)]).findCmd 3 = some c ∧ 1 ≤ field c.payload 4 4 ∧ field c.payload 4 4 ≤ ((reqCmd .held 0x34 []).req 0).n ∧
      (reqCmd .held 0x34 [(4, 4, 5)]).blocked c = false ∧ field (cmd 0x34 []).payload 4 4 = 0 ∧ 5 < field (cmd 0x34 [(4, 4, 6)]).payload 4 4) := by decide +kernel

/-- A model without a manifest has token blocks only in its page groups. -/
theorem groupBytes_none {s : State} {m : Nat} (h : (s.slotOf m).man = none) : s.groupBytes m = 256 := by
  simp [State.groupBytes, State.poolsOf, State.layersOf, h]
theorem groupBytes_empty {s : State} {m : Nat} {y : Manifest} (h : (s.slotOf m).man = some y) (ht : y.tiers = []) : s.groupBytes m = 256 := by
  simp [State.groupBytes, State.poolsOf, State.layersOf, h, ht]

theorem met_Contexts_save :
    let s := reqCmd .held 0x35 [(0x10, 8, 16896)]
    (s.findCmd 3 = some (cmd 0x35 [(0x10, 8, 16896)]) ∧ (s.req 0).st = .held ∧ s.commandModel (cmd 0x35 [(0x10, 8, 16896)]) = some 0 ∧ s.resident 0 = false ∧ s.blocked (cmd 0x35 [(0x10, 8, 16896)]) = false) ∧
      16640 + ((s.req 0).n / 64 + 1) * s.groupBytes 0 ≤ 16896 ∧ 16895 < 16640 + ((s.req 0).n / 64 + 1) * s.groupBytes 0 := by
  have h : (reqCmd .held 0x35 [(0x10, 8, 16896)]).groupBytes 0 = 256 := groupBytes_none (by decide +kernel)
  simp only [h]
  decide +kernel

/-- A context image of one page group of a model without layers. -/
def contextHead : List Byte := fieldBytes 0xE0 0 [(0, 4, 0x43583950), (4, 2, 1), (0x28, 4, 5), (0x30, 4, 1), (0x34, 4, 256)]
def contextRest : List Byte := List.replicate 0x4100 0
def contextDigest : List Byte := shake256 32 (contextHead ++ List.replicate 32 0 ++ contextRest)
def contextImage : List Byte := contextHead ++ (contextDigest ++ contextRest)
def bareMan : Manifest := { keyslot := 0, family := 7, version := 1, tiers := [], shards := [], mver := List.replicate 32 0 }
def restoreOn (m : Memory) : State :=
  { slotSt { readySlot with man := some bareMan } (withCmd up (cmd 0x36 [(0x10, 8, 0x4200)])) with
    hostMem := m, srv := { ServeState.reset with models := [(0, { Serving.reset with conf := true, frames := 1 })] } }
theorem restoreOn_read (m : Memory) (a n : Nat) : (restoreOn m).hostRead a n = memRead m a n := rfl
theorem restoreOn_nat (m : Memory) (a n : Nat) : (restoreOn m).hostNat a n = leNat (memRead m a n) := rfl
def restoreState : State := restoreOn (memWrite [] 0 contextImage)

theorem contextDigest_length : contextDigest.length = 32 := length_shake256 _ _ (by decide)
theorem contextHead_length : contextHead.length = 0xE0 := by decide +kernel
theorem contextImage_length : contextImage.length = 0x4200 := by
  simp [contextImage, contextDigest_length, contextHead_length, contextRest]
theorem restore_image : restoreState.hostRead 0 0x4200 = contextImage := by
  have h : memRead (memWrite [] 0 contextImage) 0 contextImage.length = contextImage := memRead_memWrite 0 contextImage (by decide)
  rw [contextImage_length] at h
  rw [restoreState, restoreOn_read, h]
theorem restore_field (o n : Nat) (h : o + n ≤ 0xE0) : restoreState.hostNat o n = leNat ((contextHead.drop o).take n) := by
  have e : memRead (memWrite [] 0 contextImage) o n = (contextHead.drop o).take n := by
    apply List.ext_getElem
    · simp [memRead, contextHead_length]; omega
    · intro i h1 h2
      have hi : i < n := by simpa [memRead] using h1
      have hl : o + i < contextImage.length := by rw [contextImage_length]; omega
      have hc : o + i < contextHead.length := by rw [contextHead_length]; omega
      simp only [memRead, List.getElem_map, getElem_fromTo, List.getElem_take, List.getElem_drop]
      have w := memGet_memWrite_in (m := []) (a := 0) (i := o + i) (bs := contextImage) (by decide) hl
      rw [Nat.zero_add] at w
      rw [w]
      simp [contextImage, List.getElem_append_left hc]
  rw [restoreState, restoreOn_nat, e]

theorem met_Contexts_restore :
    restoreState.blocked (cmd 0x36 [(0x10, 8, 0x4200)]) = false ∧ (restoreState.req 0).st = .free ∧
    (0x4100 ≤ 0x4200 ∧ restoreState.hostNat 0 4 = 0x43583950 ∧ restoreState.hostNat 4 2 = 1 ∧
      restoreState.hostNat 0x30 4 = restoreState.hostNat 0x28 4 / 64 + 1 ∧ 0x4200 = 0x4100 + restoreState.hostNat 0x30 4 * restoreState.hostNat 0x34 4) ∧
    shake256 32 (contextImage.take 0xE0 ++ List.replicate 32 0 ++ contextImage.drop 0x100) = (contextImage.drop 0xE0).take 32 ∧
    restoreState.modelOfVersion ((contextImage.drop 8).take 32) = some 0 ∧ restoreState.hostNat 0x34 4 = restoreState.groupBytes 0 ∧
    ((restoreState.setReq 0 { restoreState.req 0 with model := 0, groups := [] }).giveGroups 0 0 1).2 = 1 := by
  have hg : restoreState.groupBytes 0 = 256 := groupBytes_empty (y := bareMan) rfl rfl
  have ht : contextImage.take 0xE0 = contextHead := by rw [contextImage, ← contextHead_length, List.take_left]
  have hd : contextImage.drop 0xE0 = contextDigest ++ contextRest := by rw [contextImage, ← contextHead_length, List.drop_left]
  have hr : contextImage.drop 0x100 = contextRest := by
    rw [show (0x100 : Nat) = 0xE0 + 32 from rfl, ← List.drop_drop, hd, ← contextDigest_length, List.drop_left]
  have hv : (contextImage.drop 8).take 32 = List.replicate 32 0 := by
    rw [contextImage, List.drop_append_of_le_length (by rw [contextHead_length]; omega), List.take_append_of_le_length (by
      rw [List.length_drop, contextHead_length]; omega)]
    decide +kernel
  refine ⟨by decide +kernel, by decide +kernel, ?_, ?_, ?_, ?_, ?_⟩
  · simp only [restore_field 0 4 (by omega), restore_field 4 2 (by omega), restore_field 0x30 4 (by omega), restore_field 0x28 4 (by omega),
      restore_field 0x34 4 (by omega)]
    decide +kernel
  · rw [ht, hr, hd, ← contextDigest_length, List.take_left, contextDigest_length]
    rfl
  · rw [hv]; decide +kernel
  · rw [hg, restore_field 0x34 4 (by omega)]; decide +kernel
  · decide +kernel

theorem met_Contexts_rest :
    let x : Xfer := ⟨3, 0, true, 0, [], 0⟩
    (({ up with srv := { up.srv with xfers := [x] } } : State).srv.xfers.find? (fun y => y.seq = 3) = some x ∧ up.hostLadleStatus = 0) ∧
    (let s := slotSt readySlot (withCmd up (cmd 0x37 [(2, 2, 1), (0xC, 2, 1)]))
     s.cmdReady 3 0x37 = some (cmd 0x37 [(2, 2, 1), (0xC, 2, 1)]) ∧ field (cmd 0x37 [(2, 2, 1), (0xC, 2, 1)]).payload 1 1 ≠ 1 ∧ (s.slotOf 0).st = .ready ∧
       s.handlesOf 0 = []) ∧
    field (cmd 0x37 [(1, 1, 1)]).payload 1 1 = 1 ∧ (slotSt readySlot (withReq up .active)).handlesOf 0 ≠ [] := by decide +kernel
theorem pools_fit (s : State) (a : Nat) (h : s.groupBytes 0 = 256) (n : s.tablesIn = 256) :
    s.poolsFit 0 10 0 1 a = decide (a + 4295232 ≤ 0x2FC00000) := by
  have e : s.areaBytes 0 10 1 = 4295232 := by
    unfold State.areaBytes
    rw [h, n]
    decide
  unfold State.poolsFit
  rw [e, Nat.zero_mul, decide_eq_true (Nat.zero_le _), Bool.and_true]
theorem met_Contexts_pools : up.poolsFit 0 10 0 1 0x10000 = true ∧ up.poolsFit 0 10 0 1 0x2FC00000 = false := by
  have h : up.groupBytes 0 = 256 := groupBytes_none (by decide +kernel)
  have n : up.tablesIn = 256 := by decide +kernel
  rw [pools_fit up _ h n, pools_fit up _ h n]
  decide

theorem met_StepBoundaries :
    (((stepIn up).serving 0).step = some ⟨7, 1, 0, 0, [⟨0, 0, 4, 1, 9, 1⟩], []⟩ ∧ (stepIn up).stepOver ⟨7, 1, 0, 0, [⟨0, 0, 4, 1, 9, 1⟩], []⟩ = false ∧
      (stepIn up).stepOver ⟨7, 1, 0, 0, [⟨0, 0, 4, 1, 9, 1⟩], [(0, some 4)]⟩ = true) ∧
    (up.host.roundBeat ≠ some up.beat.toNat ∧ ({ up with host := { up.host with roundBeat := some 0 } } : State).host.roundBeat = some up.beat.toNat) ∧
    ((reqCmd .active 0x31 []).namesModel 0 (cmd 0x31 []) = true ∧ (reqCmd .active 0x31 []).blocked (cmd 0x31 []) = false) ∧
    ((up.serving 0).step = none ∧ (up.serving 0).due = false ∧ ((up.setDue 0).serving 0).due = true ∧ ((up.setDue 0).serving 0).barrier = false) ∧
    (let q : Req := { Req.free with st := .active, n := 5, p := { Req.free.p with maxNew := 3, stops := [[8]] } }
     q.st = .active ∧ stopsAt (q.gen ++ [9]) q.p.stops = false ∧ q.gen.length + 1 < q.p.maxNew ∧ q.n < 1048575 ∧ q.p.deadline = 0) ∧
    (up.hostLadleUp 0 = true ∧ up.srv.ringOut = [] ∧ up.srv.ringVecs = [] ∧ (put up [(ldlReg 64 0, 0x80000000)]).hostLadleUp 0 = false) ∧
    (let s : State := { up with srv := { up.srv with ringOut := [(0, [1])] } }
     (s.serving 0).step = none ∧ (s.serving 0).due = false ∧ s.hostLadleUp 0 = true ∧ s.srv.ringOut = [(0, [1])] ∧ s.srv.ringVecs = []) := by decide +kernel

/-- A HOT group of a model without layers whose copy to the first group of its WARM pool runs, its vault and the channels in service. -/
def demoteGroup : PageGroup := ⟨0, 5, 0, true, some 0⟩
def demoteState : State :=
  { up with vaults := [(0, trained)], lp := (fromTo 0 32).map (fun c => (c, { LpChan.reset with st := .up })), power := { PowerState.reset with level := 10000000 }
            srv := { up.srv with models := [(0, { Serving.reset with warm := (lpxEnd - lpxBase) / 256 })]
                                 reqs := [(0, { Req.free with st := .active, groups := [(2, demoteGroup)] })] } }
theorem demote_addr : demoteState.warmAddr 0 0 = lpxBase := by
  have hg : demoteState.groupBytes 0 = 256 := groupBytes_none (by decide +kernel)
  have hn : (lpxEnd - lpxBase - (demoteState.serving 0).warm * 256) / 64 + 1 = 1 := by decide +kernel
  unfold State.warmAddr
  simp only [hg, hn, Nat.mod_one]
  rfl
theorem demote_ranges (s : State) (h : (s.slotOf 0).man = none) :
    s.groupRanges 0 demoteGroup = [((s.serving 0).area + 0x10000 + 1280, 256)] := by
  have hp : s.poolsOf 0 = 0 := by simp [State.poolsOf, State.layersOf, h]
  simp [State.groupRanges, State.blockAddr, demoteGroup, hp, fromTo]
theorem met_StepBoundaries_demotion :
    smFind (demoteState.req 0).groups 2 = some demoteGroup ∧ demoteGroup.hot = true ∧ demoteGroup.warm = some 0 ∧ demoteState.demoteReady 0 demoteGroup = true ∧
    ({ demoteState with vaults := [] } : State).demoteReady 0 demoteGroup = false ∧
    (demoteState.rangeChans (demoteState.warmAddr 0 0) (demoteState.groupBytes 0)).any demoteState.lpParked = false ∧
    demoteState.lpHeld (demoteState.rangeChans (demoteState.warmAddr 0 0) (demoteState.groupBytes 0)) = none := by
  have hg : demoteState.groupBytes 0 = 256 := groupBytes_none (by decide +kernel)
  have hr : demoteState.demoteReady 0 demoteGroup = true := by
    have h : demoteState.rangeStatus (demoteState.warmAddr 0 (demoteGroup.warm.getD 0)) (demoteState.groupBytes 0) = 0 := by
      rw [show demoteGroup.warm.getD 0 = 0 from rfl, demote_addr, hg]
      decide +kernel
    unfold State.demoteReady
    rw [h, demote_ranges _ (by decide +kernel)]
    decide +kernel
  refine ⟨by decide +kernel, rfl, rfl, hr, ?_, ?_, ?_⟩
  · unfold State.demoteReady
    rw [demote_ranges _ (by decide +kernel), Bool.and_eq_false_iff]
    exact .inl (by decide +kernel)
  · rw [demote_addr, hg]; decide +kernel
  · rw [demote_addr, hg]; decide +kernel

def sieveSeg : Segment := { seg1 with own := [(.sieve, [⟨5, 0, 1⟩])] }
/-- A row of eight logits in one packet of two flits at the Sieve. -/
def rowBytes : List Byte := fieldBytes 64 0 [(0, 2, 0), (4, 4, 7), (0xC, 4, 8), (0x10, 4, 8)]
def rowPacket : Packet := ⟨mkHdr { cls := 0, flow := 5 }, [(bytesFlit (rowBytes.take 32), false), (bytesFlit (rowBytes.drop 32), false)], 0, 0, 0⟩
def sieveState : State :=
  { stepIn up with segs := [sieveSeg], ports := [(ownKey .sieve, owned (.owned 0) false)], intakeQ := [(ownKey .sieve, [rowPacket])] }
theorem met_Sieve :
    (sieveState.full = true ∧ sieveState.domain 5 0 = .run) ∧ smGet sieveState.intakeQ (ownKey .sieve) [] = [rowPacket] ∧
    sieveState.portVerdict .sieve (hFlow rowPacket.hdr) = .forward ∧
    gatherSlice (hFlow rowPacket.hdr) (fun a b => Config.undefByte (sieveState.freeCtr + a) b) [rowPacket] 0 [] = some (1, rowBytes) ∧
    (let c := sliceOf rowBytes
     sieveState.rowExpected c.model c.handle c.step = true ∧ sieveState.rowReturned c.model c.handle = false ∧ c.rsvd = false ∧ c.vbase = 0 ∧
       c.vcount = c.vocab ∧ rowBytes.length = 32 + 4 * c.vocab ∧ c.vocab % 8 = 0 ∧ 8 ≤ c.vocab) ∧
    ((stepIn up).serving 0).step.map (fun t => t.members.find? (fun e => e.handle = 0)) = some (some ⟨0, 0, 4, 1, 9, 1⟩) := by decide +kernel

/-- A key and a signature that verify whatever they sign: the neutral point, and R the neutral point with S zero. -/
def edKey : List Byte := 1 :: List.replicate 56 0
def edSig : List Byte := edKey ++ List.replicate 57 0
theorem edMul_neutral (n k : Nat) : EdPoint.neutral.mul n k = EdPoint.neutral := by
  induction n generalizing k with
  | zero => rfl
  | succ n ih =>
    have h : EdPoint.neutral.add EdPoint.neutral = EdPoint.neutral := by decide +kernel
    unfold EdPoint.mul
    simp [ih, h]
theorem edVerify_neutral (m : List Byte) : ed448Verify edKey m edSig = true := by
  have h0 : EdPoint.base.mul 448 (leNat (edSig.drop 57)) = EdPoint.neutral := by decide +kernel
  have h1 : edSig.take 57 = edKey := by decide +kernel
  have h2 : (decide (leNat (edSig.drop 57) < edL)) = true := by decide +kernel
  have h3 : edDecode edKey = some EdPoint.neutral := by decide +kernel
  unfold ed448Verify
  rw [h1, h3]
  simp only [h0, edMul_neutral, h2]
  decide +kernel

/-- A manifest of one layer and two shards of 64 bytes in vault 0, under key slot 0. -/
def manBytes : List Byte :=
  fieldBytes 528 0 [(0, 4, 0x4D573950), (4, 2, 1), (8, 1, 7), (0x18, 4, 1), (0x1C, 2, 1), (0x1E, 2, 2), (262, 2, 2), (280, 8, 64), (290, 1, 15), (336, 8, 64)
    , (344, 8, 64), (354, 1, 15), (400, 1, 1)]
def man1 : Manifest := manifestOf manBytes
def modelState (x : ModelSlot) (c : Cmd) : State :=
  { slotSt x (withCmd up c) with wgt := { WeightState.reset with slots := [(0, x)], keys := [(0, edKey)] }, hostMem := memWrite [] 0 manBytes }
def loadCmd (op rep : Nat) : Cmd := cmd op [(2, 1, rep), (0x10, 4, 528), (0x18, 8, 0x1000)]

theorem model_read (x : ModelSlot) (c : Cmd) : (modelState x c).hostRead 0 (min 528 278912) = manBytes := by
  show memRead (memWrite [] 0 manBytes) 0 528 = manBytes
  decide +kernel
theorem model_status (x : ModelSlot) (c : Cmd) : (modelState x c).manifestStatus manBytes 528 = 0 := by
  have hk : smFind (modelState x c).wgt.keys (field manBytes 6 1) = some edKey := by
    show smFind [(0, edKey)] (field manBytes 6 1) = some edKey
    decide +kernel
  have hs : (manBytes.drop (signedPart manBytes).length).take 114 = edSig := by decide +kernel
  unfold State.manifestStatus
  rw [if_neg (by decide +kernel), hk, hs]
  simp [edVerify_neutral]

theorem met_ModelCommands_load :
    let s := modelState ModelSlot.reset (loadCmd 0x40 0)
    (s.cmdReady 3 0x40 = some (loadCmd 0x40 0) ∧ field (loadCmd 0x40 0).payload 2 1 = 0 ∧ field (loadCmd 0x40 0).payload 0x10 4 = 528) ∧
      (s.slotOf 0).st = .empty ∧ s.loadAbsent man1 0 0x1000 (fetchBytes man1 (fromTo 0 man1.shards.length)) 0 0 = false ∧ s.loadOverlap 0 man1 0 0 = false ∧
      s.loadOverlap 0 man1 (lpxBase + 1) (lpxEnd) = true ∧ up.manifestStatus [] 0 ≠ 0 := by decide +kernel

theorem met_ModelCommands_repair :
    let x : ModelSlot := { ModelSlot.reset with st := .degraded, man := some man1, quar := [1] }
    let s := modelState x (loadCmd 0x40 1)
    (s.cmdReady 3 0x40 = some (loadCmd 0x40 1) ∧ field (loadCmd 0x40 1).payload 2 1 = 1) ∧ (s.slotOf 0) = x ∧
      s.loadAbsent man1 0 0x1000 (fetchBytes man1 x.quar) 0 0 = false ∧ s.loadOverlap 0 man1 x.stageBase x.stageSize = false := by
  refine ⟨by decide +kernel, rfl, by decide +kernel, by decide +kernel⟩

def oldMan : Manifest := { man1 with mver := [] , shards := man1.shards.map (fun x => { x with digest := [1] }) }
theorem met_ModelCommands_rest :
    let x : ModelSlot := { readySlot with man := some oldMan, stageSize := 128 }
    (let s := modelState readySlot (cmd 0x41 []); s.cmdReady 3 0x41 = some (cmd 0x41 []) ∧ s.handlesOf 0 = [] ∧ (s.slotOf 0).stage = .none ∧
      (s.slotOf 0).fetch = none ∧ (s.slotOf 0).st = .ready) ∧
    (let s := modelState x (loadCmd 0x42 0); s.cmdReady 3 0x42 = some (loadCmd 0x42 0) ∧ (s.slotOf 0).st = .ready ∧ (s.slotOf 0).stage = .none ∧
      fetchBytes man1 (changedShards oldMan man1) ≤ 128 ∧ 127 < fetchBytes man1 (changedShards oldMan man1) ∧ changedShards oldMan man1 = [0, 1] ∧
      s.loadAbsent man1 0 0x1000 (fetchBytes man1 (changedShards oldMan man1)) 0 0 = false) ∧
    (let s : State := { withCmd up (cmd 0x43 [(1, 1, 1)]) with wgt := WeightState.reset }; s.cmdReady 3 0x43 = some (cmd 0x43 [(1, 1, 1)]) ∧ s.fld wgtCfg 30 1 = 0 ∧
      (put s [(wgtCfg, 0x40000000)]).fld wgtCfg 30 1 = 1 ∧ smFind s.wgt.keys 0 = none) ∧
    (let s := modelState ModelSlot.reset (cmd 0x43 [(1, 1, 2)]); s.cmdReady 3 0x43 = some (cmd 0x43 [(1, 1, 2)]) ∧ smFind s.wgt.keys 0 ≠ none ∧
      s.keyInUse 0 = false ∧ (modelState readySlot (cmd 0x43 [])).keyInUse 0 = false) := by decide +kernel
theorem met_ModelCommands_swap : swapMismatch oldMan man1 = false ∧ swapMismatch man1 man1 = true := by decide +kernel

def shard1 : Shard := { addr := 0, size := 64, layer := 0, format := 15, digest := shake256 32 (List.replicate 64 0) }
def shardMan : Manifest := { bareMan with tiers := [0], shards := [shard1] }
def fetch1 (src : Nat) : Fetch :=
  { seq := 3, src := src, peer := 9, data := 0x1000, repair := false, shards := [0], done := 0, again := false, got := [], spoilt := [], retries := 0, since := 0, asked := false }
def fetchSlot (src : Nat) : ModelSlot := { ModelSlot.reset with st := .loading, man := some shardMan, fetch := some (fetch1 src) }

theorem shake_ne (m l : List Byte) (h : l.length ≠ 32) : shake256 32 m ≠ l := fun e => h (e ▸ length_shake256 32 m (by decide))
theorem shard_digest (d : Shard) (hd : d.addr = 0 ∧ d.size = 64 ∧ d.format = 15) (s : State) (hs : s.devStatus 0 64 = 0)
    (h : ((s.awaitBanks 0 64).devCheck 0 64 false).2 = []) (hm : ((s.awaitBanks 0 64).devCheck 0 64 false).1.dvRead 0 64 = List.replicate 64 0) :
    (s.checkShard d 0).2 = if shake256 32 (List.replicate 64 0) ≠ d.digest then 1 else 0 := by
  obtain ⟨h1, h2, h3⟩ := hd
  simp [State.checkShard, h2, h3, hs, h, hm]

def vaultUp : State := { up with vaults := [(0, trained)] }
theorem met_ShardsChecked :
    let s := slotSt (fetchSlot 0) vaultUp
    let put := s.putShard (fetch1 0) 0 (0x1000 + offsetAmong shardMan [0] 0) 64
    ((s.slotOf 0).fetch = some (fetch1 0) ∧ (s.slotOf 0).fill = none ∧ (s.slotOf 0).man = some shardMan ∧ (fetch1 0).shards.getD (fetch1 0).done 0 = 0 ∧
      shardMan.shards[0]? = some shard1 ∧ s.fetchStop (fetch1 0) 0 0x1000 64 false = 0 ∧ s.fetchStop (fetch1 0) 0 0x1000 64 true ≠ 0 ∧
      (s.rangeChans 0 64).any s.lpParked = false ∧ s.lpHeld (s.rangeChans 0 64) = none ∧ s.rangeChans 0 64 = [] ∧
      s.rangeStatus 0 64 = 0 ∧ s.hostLadleStatus = 0 ∧ (fetch1 0).done + 1 = (fetch1 0).shards.length) ∧
    (put.checkShard shard1 0).2 = 0 ∧ (put.checkShard { shard1 with digest := [] } 0).2 = 1 := by
  refine ⟨by decide +kernel, ?_, ?_⟩
  · rw [shard_digest _ ⟨rfl, rfl, rfl⟩ _ (by decide +kernel) (by decide +kernel) (by decide +kernel)]
    rw [if_neg (by simp only [shard1, ne_eq, not_true_eq_false, not_false_eq_true])]
  · rw [shard_digest _ ⟨rfl, rfl, rfl⟩ _ (by decide +kernel) (by decide +kernel) (by decide +kernel)]
    rw [if_pos (shake_ne _ _ (by decide))]

def scrubState : State := put (slotSt { readySlot with man := some shardMan } vaultUp) [(mgtReg 0xB004, 0x80000000)]
theorem met_ShardsChecked_scrub :
    scrubState.fld (mgtReg 0xB004) 31 1 = 1 ∧ (put up [(mgtReg 0xB004, 0xF)]).fld (mgtReg 0xB004) 31 1 = 0 ∧
    ((scrubState.scrubList.find? (fun q => decide (scrubState.wgt.scrubPos ≤ q))).orElse (fun _ => scrubState.scrubList.head?)) = some 0 ∧
    (0 : Nat) / 4096 % 2 = 0 ∧ (scrubState.slotOf (0 / 8192)).man.map (fun y => y.shards.length) = some 1 ∧ scrubState.goodCws 0 64 = true ∧
    memRead scrubState.devMem 0 64 = List.replicate 64 0 ∧ 0 % 4096 ∉ (scrubState.slotOf 0).quar ∧ (scrubState.slotOf 0).st = .ready ∧
    scrubState.devStatus 0 64 = 0 ∧ scrubState.rangeChans 0 64 = [] ∧ (demoteState.rangeChans lpxBase 64).any demoteState.lpParked = false ∧
    (({ demoteState with lp := [(0, { LpChan.reset with st := .selfref })] } : State).rangeChans lpxBase 64).any
      ({ demoteState with lp := [(0, { LpChan.reset with st := .selfref })] } : State).lpParked = true := by decide +kernel

def swap1 (layers : List Nat) : Swap := { seq := 3, man := shardMan, recompute := false, fleet := false, released := false, layers := layers }
def swapSlot (layers : List Nat) : ModelSlot :=
  { ModelSlot.reset with st := .swapping, man := some { shardMan with shards := [{ shard1 with digest := [1] }] }, swap := some (swap1 layers), stageBase := 4096 }
theorem swap_changed (l : List Nat) : (swapSlot l).changed = [0] := by
  have h : ([1] : List Byte) ≠ shard1.digest := fun e => shake_ne _ _ (by decide) e.symm
  show changedShards { shardMan with shards := [{ shard1 with digest := [1] }] } shardMan = [0]
  unfold changedShards
  rw [show (fromTo 0 shardMan.shards.length) = [0] from rfl]
  rw [List.filter_cons_of_pos (by show decide ([1] ≠ shard1.digest) = true; exact decide_eq_true h)]
  rfl
theorem met_ShardsChecked_swap :
    (swap1 [0]).layers = 0 :: [] ∧ (swap1 []).layers = [] ∧ ((swapSlot [0, 1]).changed.filter (fun k => ((swap1 [0, 1]).man.shards[k]?).any (fun y => y.layer = 0))) = [0] ∧
    (slotSt (swapSlot [0, 1]) up).goodCws 4096 64 = true ∧ (swapSlot [0, 1]).stageAddr 0 = 4096 := by
  have h : (swapSlot [0, 1]).stageAddr 0 = 4096 := by
    show (swapSlot [0, 1]).stageBase + offsetAmong shardMan (swapSlot [0, 1]).changed 0 = 4096
    rw [swap_changed]; decide +kernel
  rw [swap_changed, h]
  decide +kernel

/-- A packet of the BULK class from rank 9 for shard 0. -/
def bulk (op off : Nat) : NPkt := { plain 4 0 with data := [(bulkHead op 0 9 off, false)] }
def bulkState (op : Nat) : State := { slotSt (fetchSlot 1) up with fleet := { FleetState.reset with bulkIn := [bulk op 0] } }
theorem met_PeerShards :
    (bulkOp (bulk 1 0) = 1 ∧ (bulkState 1).fleet.bulkIn = [bulk 1 0] ∧ (bulkState 1).fld wgtCfg 31 1 = 0 ∧ bulkOp (bulk 0 0) = 0 ∧ 3 < bulkOp (bulk 4 0)) ∧
    (bulkOp (bulk 2 0) = 2 ∧ (bulkState 2).fetchFrom (pktField (bulk 2 0) 32 20) (pktField (bulk 2 0) 16 16) = some (0, false) ∧
      32 * pktField (bulk 2 0) 64 25 = (fetch1 1).got.length ∧ ((bulkState 2).slotOf 0).fetch = some (fetch1 1)) ∧
    (bulkOp (bulk 3 0) = 3 ∧ ((bulkState 3).slotOf 0).fill = none ∧
      (bulkState 3).fetchFrom (pktField (bulk 3 0) 32 20) (pktField (bulk 3 0) 16 16) = some (0, false)) ∧
    (shard1.size = 64 ∧ (bulkState 2).fld wgtCfg 0 16 = 100 ∧ (fetch1 1).got = [] ∧
      (bulkState 2).passed (fetch1 1).since ((bulkState 2).fld wgtCfg 0 16 * peerMs) = false ∧
      (let s : State := { bulkState 3 with tm := { (bulkState 3).tm with run := 100 * peerMs } }
       s.passed (fetch1 1).since (s.fld wgtCfg 0 16 * peerMs) = true ∧ bulkOp (bulk 3 0) ≠ 2) ∧
      (fetch1 1).retries < 3 ∧ 3 ≤ ({ fetch1 1 with retries := 3 } : Fetch).retries) := by decide +kernel

/-! ## Resets, bring-up, identity -/

def opened (s : State) : State := { s with acc := { s.acc with unlocked := [0] } }
theorem met_ChipResets :
    (up.module.rails = .on ∧ up.awake = true ∧ up.reaches = true ∧ up.fnServes 0 = true ∧ up.tm.refLost = false) ∧ ((opened up).isUnlocked 0 0 = true ∧ (opened up).reaches = true ∧ up.isUnlocked 0 0 = false ∧
      (0x80000000 : Word).getLsbD 31 = true) ∧
    (4 ≤ up.boot.stages ∧ up.fld (rstReg 0xC) 31 1 = 1 ∧ up.passed up.boot.wdogFrom (up.fld (rstReg 0xC) 0 16 * wdogMs) = false ∧
      (let s : State := { up with tm := { up.tm with run := 2000 * wdogMs } }; s.passed s.boot.wdogFrom (s.fld (rstReg 0xC) 0 16 * wdogMs) = true)) ∧
    (let s : State := { up with module := { up.module with rails := .therm }, tm := { up.tm with run := 10 * secU } }
     s.module.rails = .therm ∧ 10 * secU ≤ s.tm.run ∧ up.tm.run < 10 * secU) ∧
    (let s : State := { up with module := { up.module with rails := .fatal }, tm := { up.tm with run := secU } }
     s.module.rails = .fatal ∧ secU ≤ s.tm.run ∧ up.tm.run < secU) ∧
    (let s : State := { up with tm := { up.tm with refLost := true, run := 9 * usU } }
     s.tm.refLost = true ∧ s.passed s.tm.refFrom (9 * usU) = true ∧ up.passed up.tm.refFrom (9 * usU) = false) ∧
    ((89 : BitVec 8).toNat < 90 ∧ 90 ≤ (90 : BitVec 8).toNat ∧ 1 ≤ (1 : BitVec 8).toNat ∧ (6 : BitVec 8).toNat ≤ 6 ∧ (419 : BitVec 16).toNat < 420 ∧
      420 ≤ (420 : BitVec 16).toNat ∧ (580 : BitVec 16).toNat ≤ 580 ∧ 580 < (581 : BitVec 16).toNat) ∧
    (({ up with tm := { up.tm with refLost := true } } : State).tm.refLost = true ∧ up.tm.refLost = false ∧
      ({ up with module := { up.module with perstLow := true } } : State).awake = false) := by decide +kernel

def domCmd (kind act : Nat) : Cmd := cmd 0x22 [(0, 1, kind), (2, 1, act), (8, 8, 100)]
def domState (kind : Nat) (release : Bool) (doms : SMap DomSt) : State :=
  { up with boot := { up.boot with domOrders := [⟨3, kind, 0, release, 0⟩], doms := doms, resetting := [(256, 3)] } }
def farCmd (act : Nat) : Cmd := cmd 0x22 [(0, 1, 1), (1, 1, 64), (2, 1, act)]
theorem met_DomainOrders :
    ((withCmd up (farCmd 1)).cmdReady 3 0x22 = some (farCmd 1) ∧ (farCmd 1).kind = 1 ∧ field (farCmd 1).payload 2 1 = 1 ∧
      (withCmd up (farCmd 1)).domainPresent (farCmd 1).kind (farCmd 1).index = false ∧
      (withCmd up (farCmd 2)).cmdReady 3 0x22 = some (farCmd 2) ∧ field (farCmd 2).payload 2 1 = 2 ∧
      (withCmd up (farCmd 2)).domainPresent (farCmd 2).kind (farCmd 2).index = false) ∧
    ((domState 1 false [(256, .held)]).dueOrder 1 0 = some ⟨3, 1, 0, false, 0⟩ ∧ (domState 1 false [(256, .held)]).domain 1 0 ≠ .run ∧
      (domState 2 false [(256, .held)]).dueOrder 2 0 = some ⟨3, 2, 0, false, 0⟩ ∧ (domState 2 false [(256, .held)]).domain 2 0 = .run ∧
      (domState 2 false [(256, .held)]).domain 1 0 ≠ .run) ∧
    ((domState 1 true []).dueOrder 1 0 = some ⟨3, 1, 0, true, 0⟩ ∧ (domState 1 true []).domain 1 0 ≠ .held) := by decide +kernel

theorem met_DomainResets :
    ((withCmd up (domCmd 1 1)).cmdReady 3 0x22 = some (domCmd 1 1) ∧ (domCmd 1 1).kind = 1 ∧ field (domCmd 1 2).payload 2 1 = 2 ∧
      (withCmd up (domCmd 1 1)).domainPresent 1 0 = true ∧ (withCmd up (domCmd 1 1)).domainPresent 1 64 = false ∧ (domCmd 7 1).kind = 7) ∧
    ((domState 1 false []).dueOrder 1 0 = some ⟨3, 1, 0, false, 0⟩ ∧ (domState 1 false []).domain 1 0 = .run ∧ (domState 2 false [(256, .held)]).domain 1 0 ≠ .run ∧
      (domState 7 false []).dueOrder 7 0 = some ⟨3, 7, 0, false, 0⟩ ∧ (domState 1 false []).dueOrder 1 1 = none) ∧
    ((domState 1 true [(256, .held)]).dueOrder 1 0 = some ⟨3, 1, 0, true, 0⟩ ∧ (domState 1 true [(256, .held)]).domain 1 0 = .held ∧
      (domState 1 true []).domain 1 0 ≠ .held) ∧
    ((domState 1 false [(256, .reset)]).domain 1 0 = .reset ∧ smFind (domState 1 false []).boot.resetting (domKey 1 0) = some 3 ∧
      (domState 1 false [(256, .restore)]).domain 1 0 = .restore ∧ (domState 1 false [(256, .restore)]).restored 1 0 = true ∧
      (let s := domState 3 false [(768, .restore)]; (put { s with nports := [(0, { NPort.reset with st := .train })] } [(nbpReg 0 0, 1)]).restored 3 0 = false)) := by decide +kernel

theorem met_ClusterFatal :
    (63 : BitVec 6).toNat < up.nClusters ∧ (up.fld (mgtReg 0xC000) 31 1 = 1 ∧ (put up [(mgtReg 0xC000, 0)]).fld (mgtReg 0xC000) 31 1 ≠ 1) ∧
    up.domain 1 63 = .run ∧ (up.cluster 63).isolated = false := by decide +kernel

def bringing (k : Nat) : State :=
  { State.reset with boot := { BootState.reset with stages := k }, flash := { fw := [(0, [1]), (1, [2])], secVer := ⟨[], 5⟩, repair := ⟨[], 5⟩, ident := ⟨[], 4⟩ } }
theorem met_BringUp :
    ((bringing 0).awake = true ∧ (bringing 0).tm.refLost = false ∧ (bringing 0).fld (genReg 4) 24 4 = 0 ∧ (bringing 7).fld (genReg 4) 24 4 = 0) ∧
    memWf (bringing 4).devMem = true ∧
    ((bringing 5).full = true ∧ ((bringing 5).lpch 31).st = .untrained) ∧
    (let s : State := { bringing 5 with lp := (fromTo 0 32).map (fun c => (c, { LpChan.reset with st := .up })) }
     (fromTo 0 32).all (fun c => (s.lpch c).st ≠ .untrained) = true) ∧
    ((bringing 7).nport 0).st = .off ∧ (put (bringing 7) [(nbpReg 0 0, 1)]).fld (nbpReg 0 0) 0 1 = 1 := by decide +kernel

/-- The firmware of a slot runs where the vendor's signature verifies, which the vendor's key alone decides: whichever slots it accepts, one clause of BringUp holds. -/
theorem met_BringUp_slots :
    (∀ b < 2, fwSigned ((bringing 1).fwSlot b) = true → (bringing 1).fwValid b = true) ∧
    (∀ b < 2, fwSigned ((bringing 1).fwSlot b) = false → (bringing 1).fwValid b = false) := by
  have h : (bringing 1).secVer = 0 := by decide +kernel
  constructor <;> intro b _ hb <;> simp [State.fwValid, hb, h]

theorem met_FlashAndManagement :
    (let s : State := { opened (put up [(rstReg 0x40, 0x00000300)]) with flash := (bringing 0).flash }
     s.reaches = true ∧ s.fnServes 0 = true ∧ s.isUnlocked 0 0 = true ∧ s.boot.commit = none ∧ s.secVer < s.runningSvn ∧ 0 < s.flash.secVer.left) ∧
    ({ up with boot := { up.boot with commit := some 3 } } : State).boot.commit = some 3 ∧
    ({ up with wgt := { WeightState.reset with flashWait := [(3, 0, none)] } } : State).wgt.flashWait = [(3, 0, none)] ∧
    ((put up [(mgtReg 0x14, 0x80000000)]).mctpUp = true ∧ up.module.i3c = none ∧ 0 < (bringing 0).flash.repair.left ∧ 0 < (bringing 0).flash.ident.left) := by
  decide +kernel

theorem met_Attestation :
    let s : State := put { up with module := { up.module with linkUp := true } } [(mgtReg 0x14, 0x80000000)]
    s.spdmUp false = true ∧ s.spdmUp true = true ∧ (s.spdm true).caps = false ∧
      (({ s with boot := { s.boot with spdm := [(1, ⟨some 0x13, true, true⟩)] } } : State).spdm true).algs = true ∧
      (({ s with boot := { s.boot with spdm := [(1, ⟨some 0x13, true, true⟩)] } } : State).spdm true).caps = true ∧ (6 < (7 : BitVec 8).toNat ∧ (7 : BitVec 8) ≠ 0xFF) := by
  decide +kernel

/-! ## Health, test, registers -/

theorem met_HealthScores :
    up.partPresent 17 = true ∧ up.partPresent 177 = true ∧ up.partPresent 178 = false ∧ up.reaches = true ∧
    (up.fld (mgtReg 0xC008) 0 16 ≤ (0xFFFF : BitVec 16).toNat ∧ up.fld (mgtReg 0xC008) 16 16 ≤ (0xFFFF : BitVec 16).toNat ∧ 17 ∉ up.hltWarned ∧ 17 ∉ up.hltAlerted) ∧
    (2 * (0 : BitVec 16).toNat < up.fld (mgtReg 0xC008) 0 16 ∧ 2 * (0 : BitVec 16).toNat < up.fld (mgtReg 0xC008) 16 16) ∧
    up.passed up.boot.decayFrom (up.fld (mgtReg 0xC000) 0 16 * 60 * secU) = false ∧
    (let s : State := { up with tm := { up.tm with run := up.fld (mgtReg 0xC000) 0 16 * 60 * secU } }
     s.passed s.boot.decayFrom (s.fld (mgtReg 0xC000) 0 16 * 60 * secU) = true) := by decide +kernel

def margin (kind target : Nat) (st : NSt) : State :=
  { put up [(marginCtrl, 0x80000000 + kind * 2 ^ 16 + target)] with nports := [(0, { NPort.reset with st := st })] }
theorem met_MarginAndPatterns :
    ((margin 1 0 .up).fld marginCtrl 31 1 = 1 ∧ up.fld marginCtrl 31 1 = 0 ∧ (margin 1 0 .up).fld marginCtrl 16 3 = 1) ∧
    ((margin 1 0 .up).portOk 0 = true ∧ ((margin 1 0 .up).nport 0).st = .up ∧ ((margin 1 0 .down).nport 0).st = .down ∧ (margin 1 18 .up).portOk 18 = false ∧
      (margin 1 17 .up).portOk 17 = true) ∧
    ((margin 3 63 .up).regionOk 63 = true ∧ (margin 2 127 .up).regionOk 127 = false) ∧
    (let s : State := { put up [(nbpReg 0 0, 0x04000000)] with nports := [(0, { NPort.reset with st := .loop })] }
     s.portOk 0 = true ∧ (s.nport 0).st = .loop ∧ s.fld (nbpReg 0 0) 26 3 = 1) ∧
    (put up [(prbsCtrl, 0x80000000)]).fld prbsCtrl 31 1 = 1 ∧ fieldOf (0x80000000 : Word).toNat 31 1 = 1 := by decide +kernel

def testing (pages base hi : Nat) : State := put vaultUp [(memtestCtrl, 0x80000000 + pages), (mgtReg 0xC044, base), (mgtReg 0xC048, hi)]
theorem met_LoopbackAndMemoryTest :
    (up.fld lbgCtrl 31 1 = 0 ∧ up.portOk 0 = true ∧ 0 < fieldOf (0x80000001 : Word).toNat 0 16) ∧
    (let s := put up [(lbgCtrl, 0x80000001)]; s.fld lbgCtrl 31 1 = 1 ∧ s.passed s.boot.lbgLast (10000 * usU) = false ∧
      s.fld (mgtReg 0xC03C) 0 32 + s.fld (mgtReg 0xC040) 0 32 < s.fld lbgCtrl 0 16 ∧
      (put s [(mgtReg 0xC03C, 1)]).fld (mgtReg 0xC03C) 0 32 = s.fld lbgCtrl 0 16 ∧
      ({ s with tm := { s.tm with run := 10000 * usU } } : State).passed s.boot.lbgLast (10000 * usU) = true) ∧
    (up.fld memtestCtrl 31 1 = 0 ∧ up.memtestRefused 0 4096 = false ∧ up.memtestRefused 0 0 = true ∧ up.devPresent (64 * vaultSize) = false ∧
      up.memtestRefused 0x2FBFF000 4096 = false ∧ up.memtestRefused 0x2FBFF000 8192 = true) ∧
    ((testing 1 0 0).fld memtestCtrl 31 1 = 1 ∧ (testing 1 0 0).memtestLen = 4096 ∧ (testing 1 0 0).memtestBase = 0 ∧ (testing 1 0 0).fld memtestCtrl 28 2 ≠ 3 ∧
      (testing 1 0 0).memtestRefused 0 4096 = false ∧ (testing 1 0 0).goodCws 0 4096 = true ∧ memWf (testing 1 0 0).devMem = true ∧
      8 * (511 : BitVec 33).toNat < 4096 ∧ (testing 1 0 0).reg (mgtReg 0xC050) = 0) ∧
    ((testing 1 0 0).devStatus 0 4096 = 0 ∧ ((testing 1 0 0).rangeChans 0 4096).any (testing 1 0 0).lpParked = false ∧
      (testing 1 0 0).lpHeld ((testing 1 0 0).rangeChans 0 4096) = none) ∧ (testing 1 vaultSize 0).devStatus vaultSize 4096 ≠ 0 ∧
    (let s : State := { testing 1 0 16 with lp := (fromTo 0 32).map (fun c => (c, { LpChan.reset with st := .selfref })) }
     s.memtestBase = lpxBase ∧ s.devStatus lpxBase 4096 = 0 ∧ (s.rangeChans lpxBase 4096).any s.lpParked = true) := by decide +kernel

theorem met_HostMemoryWindow :
    let s := vaultUp
    (s.awake = true ∧ s.fnServes 0 = true ∧ s.ready = true ∧ State.reset.ready = false ∧ State.reset.awake = true) ∧
    (s.pair (hifReg 8) = 0 ∧ (pieces 0 4096).all (fun p => s.bar2Reach p.1) = true ∧ (pieces 0 4096).all (fun p => !inJournal p.1) = true ∧ s.goodCws 0 4096 = true ∧
      (pieces 0 4096).all (fun p => !s.ladleUses p.1 p.2) = true) ∧
    (put s [(hifReg 0xC, 0x1000)]).bar2Reach (0x1000 * 2 ^ 32) = false ∧
    (0xC00000 ≤ (0xFFF000 : BitVec 36).toNat ∧ (0xFFF000 : BitVec 36).toNat + 4096 ≤ 0x1000000 ∧ s.bar2Reach 0x2FFFF000 = true ∧ s.goodCws 0x2FFFF000 4096 = true) ∧
    ((0 + 60) % 64 + 4 ≤ 64 ∧ s.bar2Reach 60 = true ∧ inJournal 60 = false) ∧ memWf s.devMem = true ∧
    (2 ^ 28 - 4096 + 4096 ≤ 2 ^ s.host.bar2 ∧ ¬2 ^ 28 - 4096 + 4097 ≤ 2 ^ s.host.bar2) ∧
    ((s.bar2Chans (pieces 0 4096)).any s.lpParked = false ∧ s.lpHeld (s.bar2Chans (pieces 0 4096)) = none) ∧
    ({ up with module := { up.module with linkUp := true } } : State).module.linkUp = true ∧ (28 ≤ (28 : Word).toNat ∧ (36 : Word).toNat ≤ 36) ∧
    ({ up with host := { up.host with pcie := { up.host.pcie with d3hot := true } } } : State).fnServes 0 = false := by
  decide +kernel

/-- A read of BAR2 at a parked channel. -/
theorem met_HostMemoryWindow_parked :
    let s : State := put { up with lp := [(0, { LpChan.reset with st := .selfref })] } [(hifReg 8, lpxBase % 2 ^ 32), (hifReg 0xC, lpxBase / 2 ^ 32)]
    s.pair (hifReg 8) = lpxBase ∧ s.full = true ∧ (pieces lpxBase 4).all (fun p => s.bar2Reach p.1) = true ∧ (s.bar2Chans (pieces lpxBase 4)).any s.lpParked = true := by
  decide +kernel

/-- An access of BAR2 to LP0 whose channel the Kettle holds. -/
theorem met_HostMemoryWindow_held :
    let s : State := put { lpState with power := { lpState.power with level := 0 } } [(hifReg 8, lpxBase % 2 ^ 32), (hifReg 0xC, lpxBase / 2 ^ 32)]
    s.pair (hifReg 8) = lpxBase ∧ (pieces lpxBase 4).all (fun p => s.bar2Reach p.1) = true ∧ s.lpHeld (s.bar2Chans (pieces lpxBase 4)) = some 0 ∧
      (pieces lpxBase 4).all (fun p => !inJournal p.1) = true ∧ s.awake = true ∧ s.ready = true := by decide +kernel

theorem met_RegisterReads :
    up.awake = true ∧ up.fnServes 0 = true ∧ up.fnServes 1 = true ∧ up.ready = true ∧ smFind up.acc.latches (0 * 2 ^ 27 + jrnReg 0x10) = none ∧
    smFind ({ up with acc := { up.acc with latches := [(jrnReg 0x10, 7)] } } : State).acc.latches (0 * 2 ^ 27 + jrnReg 0x10) = some 7 ∧
    up.tileOk (4095 : BitVec 12).toNat = true ∧ (State.fresh .pz9060 0).full = false ∧ up.slowWaiting 0 = false ∧
    ({ up with module := { up.module with perstLow := true } } : State).awake = false := by decide +kernel

theorem met_RegisterWrites :
    (up.reaches = true ∧ up.fnServes 1 = true ∧ (opened up).isUnlocked 0 0 = true ∧ up.isUnlocked 0 0 = false ∧ 100 ≤ up.fld (rstReg 0xC) 0 16) ∧
    ((7 : BitVec 4) ≠ 0xF ∧ 16 < (List.replicate 17 ((0 : Word), (0xF : BitVec 4))).length) ∧ State.reset.ready = false ∧
    ((up.fleet.bank 1).isDrained = true ∧ (({ up with fleet := { up.fleet with bank1 := ⟨true, 1, false⟩ } } : State).fleet.bank 1).isDrained = false) ∧
    (⟨0, pwrReg 0x20, 5, 1⟩ : SlowWrite).edges ≤ 1 ∧ 1 < (⟨0, pwrReg 0x20, 5, 2⟩ : SlowWrite).edges ∧ up.acc.slowOut = [] ∧ up.acc.risen = [] ∧ up.acc.slowQ = [] ∧
    (smGet up.acc.slowQ (slowKey 0 ⟨.pwr, 0, 4⟩) []).length < 8 := by decide +kernel

/-! ## Every command -/

theorem met_IdleStep :
    up.pending = [] ∧ up.awake = true ∧ up.tm.refLost = false ∧ up.acc.slowOut = [] ∧
    smFind ({ up with acc := { up.acc with slowQ := [(1, [(pwrReg 4, 5)])] } } : State).acc.slowQ 1 = some [(pwrReg 4, 5)] ∧
    (∀ k < 4, (up.pulse k).on = false ∧ (up.pulse k).till = none) ∧
    ({ up with module := { up.module with rails := .fatal } } : State).module.rails ≠ .on ∧
    ({ up with module := { up.module with perstLow := true } } : State).module.rails = .on := by decide +kernel

theorem met_StepKeepsMemOk :
    memWf up.tileMem = true ∧ memWf up.devMem = true ∧ memWf up.hostMem = true ∧ ∃ u, step { up with pending := [.perstNRising] } = .next u :=
  ⟨rfl, rfl, rfl, _, rfl⟩

theorem met_MemoryWrites : memWf (up.dvWrite 0x1000 [1, 0, 2]).devMem = true ∧ (0xFFF < 0x1000 ∨ 0x1000 + 3 ≤ 0xFFF) ∧ 0x1000 + 3 ≤ 0x1003 := by decide +kernel

/-! ## Ill-formed commands, one for each check -/

def badWait : Issue := { tile := 0, wait0 := some ⟨true, 3, .imm 0⟩ }
def sameWaits : Issue := { tile := 0, wait0 := some ⟨true, 3, .imm 1⟩, wait1 := some ⟨false, 3, .imm 2⟩ }
def badSignal : Issue := { tile := 0, signal := some ⟨3, 0⟩ }
def goodIssue : Issue := { tile := 0, wait0 := some ⟨true, 3, .imm 1⟩, wait1 := some ⟨false, 4, .param 2⟩, signal := some ⟨3, 255⟩ }

theorem test_wf_issue :
    Instr.wf (.add goodIssue 1 2 3) = true ∧ Instr.wf (.add badWait 1 2 3) = false ∧ Instr.wf (.add { at0 with wait1 := badWait.wait0 } 1 2 3) = false ∧
    Instr.wf (.add sameWaits 1 2 3) = false ∧ Instr.wf (.add badSignal 1 2 3) = false ∧ Instr.wf (.amov .sc at0 1 0) = false ∧ Instr.wf (.amov .te at0 1 0) = true ∧
    Instr.wf (.aadd .sc at0 1 0) = false ∧ Instr.wf (.apar .sc at0 1 0) = false := by decide +kernel

theorem test_wf_instructions :
    Instr.wf (.slli at0 1 2 32) = false ∧ Instr.wf (.slli at0 1 2 31) = true ∧ Instr.wf (.srli at0 1 2 32) = false ∧ Instr.wf (.srai at0 1 2 32) = false ∧
    Instr.wf (.lwn at0 1 2 3 0 true) = false ∧ Instr.wf (.swn at0 1 2 3 0 true) = false ∧ Instr.wf (.tcfg at0 4 5 8 16) = false ∧
    Instr.wf (.tcfg at0 6 1 8 16) = true ∧ Instr.wf (.tcfg at0 6 2 8 16) = false ∧ Instr.wf (.tcfg at0 4 4 0 16) = false ∧ Instr.wf (.tcfg at0 4 4 8 0) = false ∧
    Instr.wf (.tcfg at0 4 4 8 65) = false ∧ Instr.wf (.tcfg at0 4 4 8 64) = true ∧ Instr.wf (.vld at0 1 0 ⟨1, 0, 0⟩ none) = false ∧
    Instr.wf (.vld at0 1 7 ⟨3, 0, 0⟩ none) = false ∧ Instr.wf (.vst at0 1 6 ⟨1, 0, 0⟩ none) = false ∧ Instr.wf (.vsfn at0 1 2 6 false) = false ∧
    Instr.wf (.vqst at0 1 6 ⟨1, 0, 0⟩ none) = false ∧ Instr.wf (.vqst at0 1 5 ⟨3, 0, 0⟩ none) = false ∧ Instr.wf (.wcopy at0 ⟨0, 0, 0⟩ ⟨1, 0, 0⟩ 0 none) = false ∧
    Instr.wf (.wfill at0 ⟨0, 0, 0⟩ 0 0 none) = false ∧ Instr.wf (.wtrn at0 ⟨0, 0, 0⟩ ⟨1, 0, 0⟩ 3 none) = false ∧
    Instr.wf (.nsend at0 0 true 17 0 ⟨1, 0, 0⟩ none) = false ∧ Instr.wf (.nsend at0 0 true 16 0 ⟨3, 0, 0⟩ none) = false ∧ Instr.wf (.ntally at0 5 3 0) = false := by
  decide +kernel

theorem test_wf_tile_and_memory :
    Instr.wf (.planPacketAtPort 0 .east .east .clean .clean) = false ∧ Instr.wf (.ownershipPass (.novbo 18)) = false ∧ Instr.wf (.ownershipPass (.novbo 17)) = true ∧
    Instr.wf (.replayOrderAtPort (.novbo 18) 1 0) = false ∧ Instr.wf (.intakePacket (.novbo 18)) = false ∧ Instr.wf (.loaderOrder 0 .delivered (.imem .te 0 [])) = false ∧
    Instr.wf (.loaderOrder 0 .delivered (.slot 0 1 [])) = false ∧ Instr.wf (.loaderOrder 0 (.ermond 1 4) (.desc 0 0 { desc1 with dmem := 3 })) = false ∧
    Instr.wf (.loaderOrder 0 (.ermond 1 4) (.desc 0 0 { desc1 with kind := 3, unit := 2 })) = false ∧ Instr.wf (.loaderOrder 0 (.ermond 1 4) (.desc 0 0 { desc1 with hsig := true, hinc := 0 })) = false ∧
    Instr.wf (.vaultRequest 0 0 0 [(.ladle, .read 0 0)]) = false ∧ Instr.wf (.vaultRequest 0 0 0 [(.ladle, .write 0 [])]) = false ∧
    Instr.wf (.lpTraining 0 [3]) = false ∧ Instr.wf (.lpRequest 0 (.ladleRead 66)) = false ∧ Instr.wf (.lpRequest 0 (.mem (.read 0 0))) = false ∧
    Instr.wf (.ladleTransferStart 63 8 none) = false ∧ Instr.wf (.ladleTransferStart 64 3 (some [])) = false ∧ Instr.wf (.ladleTransferStart 64 15 none) = true ∧ Instr.wf (.ladlePacketSend 66 0) = false ∧
    Instr.wf (.ladleLastUnit 63 8) = false ∧ Instr.wf (.ladleResponseComplete 63 8) = false ∧ Instr.wf (.respTimeout 63 8) = false ∧
    Instr.wf (.respError 63 8 .unit) = false ∧ Instr.wf (.ladleDisable 66) = false ∧ Instr.wf (.ladleClr 63 8) = false := by decide +kernel

theorem test_wf_ports :
    Instr.wf (.portTraining 18 none) = false ∧ Instr.wf (.portRetry 18) = false ∧ Instr.wf (.retrain 18) = false ∧ Instr.wf (.novboPacketReceive 18 0 (.badBoundary [])) = false ∧
    Instr.wf (.novboAck 18 0) = false ∧ Instr.wf (.novboNak 18 0) = false ∧ Instr.wf (.takeover 18 0) = false ∧ Instr.wf (.ident 18 0) = false ∧ Instr.wf (.pool 18 0) = false ∧
    Instr.wf (.ackDue 18) = false ∧ Instr.wf (.lcwDue 18) = false ∧ Instr.wf (.replayTimer 18) = false ∧ Instr.wf (.transmitSlot 18 0) = false ∧
    Instr.wf (.egressPlan 17 18) = false ∧ Instr.wf (.egressPlan 18 17) = false ∧ Instr.wf (.ingressPlan 18) = false ∧ Instr.wf (.portHaltClear 18) = false ∧
    Instr.wf (.lockLoss 18 0) = false ∧ Instr.wf (.lockRegained 18 0) = false ∧ Instr.wf (.portDown 18) = false ∧ Instr.wf (.portEnableWrite 18 true) = false ∧
    Instr.wf (.loopWrite 18 0) = false ∧ Instr.wf (.takeoverSend 18) = false ∧ Instr.wf (.probationEnd 18) = false ∧ Instr.wf (.handback 18) = false ∧
    Instr.wf (.handbackMarkerReceive 18) = false ∧ Instr.wf (.opticsPoll 18 true false 0 0) = false ∧ Instr.wf (.opticsAccess 18 (.write 0)) = false ∧
    Instr.wf (.syncMgmtBulkIngress 18) = false ∧ Instr.wf (.beaconReqReceive 18 0) = false ∧ Instr.wf (.beaconRespReceive 18 0) = false := by decide +kernel

theorem test_wf_chip :
    Instr.wf (.ladderStep 72 true 0) = false ∧ Instr.wf (.upDwellExpiry 72 0) = false ∧ Instr.wf (.thermalStep 72 0) = false ∧ Instr.wf (.droopTrip 72) = false ∧
    Instr.wf (.droopClear 72) = false ∧ Instr.wf (.droopLong 72) = false ∧ Instr.wf (.ringEnableWrite 66 0) = false ∧
    Instr.wf (.acceptanceRound (List.replicate 257 0) none) = false ∧ Instr.wf (.mctpOrder []) = false ∧ Instr.wf (.chipFatal 0 0) = false ∧ Instr.wf (.chipFatal 7 0) = false ∧
    Instr.wf (.clusterFatal 0 0) = false ∧ Instr.wf (.clusterFatal 0 4) = false ∧ Instr.wf (.domainResetEffect 0 0) = false ∧ Instr.wf (.domainResetEffect 7 0) = true ∧
    Instr.wf (.domainHeld 7 0) = false ∧ Instr.wf (.domainHeld 0 0) = false ∧ Instr.wf (.domainReleaseEffect 7 0) = false ∧
    Instr.wf (.domainRestoreComplete 0 0 true []) = false ∧ Instr.wf (.bringupStage false false (List.replicate 26 0)) = false ∧ Instr.wf (.challenge true 0 []) = false ∧
    Instr.wf (.prbsEnable 0 false [0, 0, 0, 0, 0]) = false ∧ Instr.wf (.bar2Read .bar2 0 0) = false ∧ Instr.wf (.bar2Read .bar0 0 4) = false ∧ Instr.wf (.bar2Read .bar2 0 4097) = false ∧
    Instr.wf (.bar2Write 0 [] false) = false ∧ Instr.wf (.bar2Write 0 (List.replicate 513 0) false) = false ∧ Instr.wf (.registerWrite 0 .bar2 0 [(0, 0xF)]) = false ∧ Instr.wf (.registerWrite 0 .bar0 0 []) = false ∧
    Instr.wf (.registerWrite 0 .bar0 0 (List.replicate 17 (0, 0xF))) = false := by decide +kernel

/-! ## Results of the manual's worked examples, and of its tables by hand -/

/-- 02, tile numbers: tile (45, 27) is 1,773, in cluster 29; its debug window is at 0x13A_7400 (R40). -/
theorem test_tile_window : clusterOf 1773 = 29 ∧ tilReg 1773 0 = 0x13A7400 := by decide +kernel

/-- 08: device address 0x2_5A40_1280 lies in vault 12 (R144); 09: 0x12_3456_7000 is LP0, codeword 0x8D_159C (R170). -/
theorem test_addresses : up.vaultAt 0x25A401280 = some 12 ∧ lpChan 0x1234567000 = 0 ∧ lpCw 0x1234567000 = 0x8D159C ∧ lpAddr 0 0x8D159C = 0x1234567000 := by
  decide +kernel

/-- 07: the header of the column multicast of flow 0x0230 (R126). -/
theorem test_header :
    (mkHdr { cls := 0, kind := 2, epoch := 1, len := 4, last := true, hsig := true, htally := 6, hinc := 1, dmem := 1, daddr := 2048, src := 330, dest := 532
             span := 980, flow := 0x230 }).toNat = 0x000002303D421400014A00800404D918 := by decide +kernel

/-- 05: the block of E2M1 elements against two weight columns gives 6.0 and 56.0 (R87, R88). -/
theorem test_block_value :
    ((blockElems 4 0x27C3).take 4).map Elem.int = [3, -4, 12, 2] ∧
    blockAcc [] [] 0 (blockElems 4 0x27C3) (blockElems 4 0x7956) = 12 ∧ blockValue 4 4 12 0x83 0x7C = 0x40C00000 ∧
    blockAcc [] [] 1 (blockElems 4 0x27C3) (blockElems 4 0x240E) = 28 ∧ blockValue 4 4 28 0x83 0x7E = 0x42600000 ∧ f32add 0x4B800000 0x40C00000 = 0x4B800003 := by
  decide +kernel

/-- 05: quantising a block to E4M3 with M = 500.0 (R102). -/
theorem test_quantise :
    let q := quantBlock 0 ([0x43FA0000, 0x43960000, toF32 (.fin true 1521 (-19)), toF32 (.fin false 471 (-19))] ++ List.replicate 28 0)
    q.1.take 4 = [0x7E, 0x79, 0x81, 0x00] ∧ q.2.1 = 0x7F ∧ q.2.2 = 1 := by decide +kernel

/-- 05: four terms by the canonical tree (R105). -/
theorem test_tree : treeFold f32add 2 [0x4B800000, 0x3F800000, 0x3F800000, 0x40000000] = 0x4B800002 ∧
    f32add (f32add (f32add 0x4B800000 0x3F800000) 0x3F800000) 0x40000000 = 0x4B800001 := by decide +kernel

/-- 08: two partials combine (R159). -/
theorem test_combine :
    let r := combine ⟨0x40400000, 0x3FC00000, [0x40800000]⟩ ⟨0x40A00000, 0x40000000, [0xBF800000]⟩
    r.m = 0x40A00000 ∧ r.l = 0x40180000 ∧ r.o = [0] := by decide +kernel

/-- 10: an ACK word's body (R192). -/
theorem test_ack_word : (lcwWord (0x9C + 1 * 2 ^ 8 + 0xA3 * 2 ^ 12 + 0x1234 * 2 ^ 32)).toNat % 2 ^ 48 = 0x1234000A319C := by decide +kernel

/-- 15: the entry of token 4,401 at position 3,212 with LATE at beat 9,000,912 (R307). -/
theorem test_token_entry :
    let u := ((withReq up .active).ringWrite 0 4401 3212 1).sendVectors
    memNat u.hostMem 64 4 = 0x1131 ∧ memNat u.hostMem 68 4 = 0xC8C ∧ memNat u.hostMem 72 2 = 1 ∧ memNat u.hostMem 0 4 = 1 := by decide +kernel

/-- 04: ADDI sign-extends its immediate, SLT compares signed, MULHU gives the upper half, SRA copies the sign (R65). -/
theorem test_scalar :
    (∃ u, exec (.addi at0 1 0 0xFFFFFF) running = .next u ∧ (u.tile 0).gpr 1 = 0xFFFFFFFF#32) ∧
    (∃ u, exec (.lui at0 1 0x0ABCDE) running = .next u ∧ (u.tile 0).gpr 1 = 0x0ABCDE00#32) := by
  constructor <;> exact ⟨_, rfl, by decide +kernel⟩

/-- A write to g0 changes nothing that can be read (R53). -/
theorem test_g0 : ∃ u, exec (.addi at0 0 0 5) running = .next u ∧ (u.tile 0).gpr 0 = 0 := ⟨_, rfl, by decide +kernel⟩

/-- SHAKE256 of the empty message begins 46 B9 DD 2B (FIPS 202). -/
theorem test_shake : shake256 4 [] = [0x46, 0xB9, 0xDD, 0x2B] := by decide +kernel

/-- An unlock with the key 0xC1A5 opens the block for its requester alone (R374). -/
theorem test_unlock : ∃ u, exec (.unlock 0 false 0xC1A5) up = .next u ∧ u.isUnlocked 0 0 = true ∧ u.isUnlocked 1 0 = false := ⟨_, rfl, by decide +kernel⟩

/-- A step on an empty queue in reset does nothing; a queued command is taken from the front. -/
theorem test_queue : ∃ u, step { up with pending := [.perstNRising, .flr] } = .next u ∧ u.pending = [.flr] := ⟨_, rfl, by decide +kernel⟩

end Sys2Proof.Tests
end

section
/-!
SUPPORT. Statements of 17_reset_boot_and_identity. First the frame of an access to device memory: its corrections and reports reach registers, events
and health marks, and nothing else of the state (R146 to R148, R292, R363). Then what the completion of a command does (R291), and the answers to
RESET_DOMAIN that refuse (R341).
-/

namespace Sys2Proof.Machine

open Sys2Proof

/-! ## The part of the state out of reach of a memory access and its reports -/

/-- The state with everything blanked that an access to device or host memory, or an event that it raises, may write. Two states that agree here
differ at most in those fields. -/
def State.steady (s : State) : State :=
  { s with
    freeCtr := 0, regs := [], devMem := [], hostMem := [], cwErr := [], vaults := []
    events := [], evLost := false, hltWarned := [], hltAlerted := [], evForward := [] }

theorem State.boot_of_steady {s u : State} (h : u.steady = s.steady) : u.boot = s.boot := (congrArg State.boot h :)
theorem State.host_of_steady {s u : State} (h : u.steady = s.steady) : u.host = s.host := (congrArg State.host h :)
theorem State.tiles_of_steady {s u : State} (h : u.steady = s.steady) : u.tiles = s.tiles := (congrArg State.tiles h :)

@[simp] theorem State.setReg_steady (s : State) (a : Nat) (w : Word) : (s.setReg a w).steady = s.steady := rfl
@[simp] theorem State.bump_steady (s : State) (a n : Nat) : (s.bump a n).steady = s.steady := rfl
@[simp] theorem State.setBit_steady (s : State) (a i : Nat) : (s.setBit a i).steady = s.steady := rfl
@[simp] theorem State.modVault_steady (s : State) (v : Nat) (f : VaultState → VaultState) : (s.modVault v f).steady = s.steady := rfl
@[simp] theorem State.refStall_steady (s : State) (v : Nat) : (s.refStall v).steady = s.steady := rfl
@[simp] theorem State.clearCw_steady (s : State) (cw : Nat) : (s.clearCw cw).steady = s.steady := rfl
@[simp] theorem State.dvWrite_steady (s : State) (a : Nat) (bs : List Byte) : (s.dvWrite a bs).steady = s.steady := rfl
@[simp] theorem State.hostWrite_steady (s : State) (a : Nat) (bs : List Byte) : (s.hostWrite a bs).steady = s.steady := rfl
@[simp] theorem State.hostFree_steady (s : State) (a n : Nat) : (s.hostFree a n).steady = s.steady := rfl
@[simp] theorem State.drawFree_steady (s : State) (n : Nat) : ({ s with freeCtr := n } : State).steady = s.steady := rfl

/-! ### Events and health scores -/

@[simp] theorem State.queueEvent_steady (s : State) (e : Event) : (s.queueEvent e).steady = s.steady := by
  unfold State.queueEvent
  split <;> rfl

@[simp] theorem State.raise_steady (s : State) (type detail : Nat) : (s.raise type detail).steady = s.steady := by
  unfold State.raise State.raiseAt
  extract_lets e s1
  have h1 : s1.steady = s.steady := s.queueEvent_steady e
  split
  · exact h1
  · exact h1

@[simp] theorem State.setScore_steady (s : State) (k v : Nat) : (s.setScore k v).steady = s.steady := by
  unfold State.setScore
  extract_lets th warn alert d s1 s2 warned s3 alerted
  have h3 : s3.steady = s.steady := by
    unfold s3
    split
    · exact s2.raise_steady 0x402 d
    · rfl
  split
  · exact (s3.raise_steady 0x403 d).trans h3
  · exact h3

@[simp] theorem State.health_steady (s : State) (k cls : Nat) : (s.health k cls).steady = s.steady := by
  unfold State.health
  split
  · exact s.setScore_steady _ _
  · rfl

/-! ### Accesses to device memory -/

@[simp] theorem State.awaitBanks_steady (s : State) (a n : Nat) : (s.awaitBanks a n).steady = s.steady := by
  unfold State.awaitBanks
  split
  · split
    · simp
    · rfl
  · rfl

@[simp] theorem State.countGran_steady (s : State) (reg a n : Nat) : (s.countGran reg a n).steady = s.steady := by
  unfold State.countGran
  split
  · split
    · rfl
    · simp
  · rfl

theorem State.vaultCwRead_steady (s : State) (v cw : Nat) (e : CwErr) (scrub : Bool) :
    (s.vaultCwRead v cw e scrub).1.steady = s.steady := by
  cases e <;> simp [State.vaultCwRead]

theorem State.lpCwRead_steady (s : State) (cw : Nat) (e : CwErr) (scrub : Bool) : (s.lpCwRead cw e scrub).1.steady = s.steady := by
  cases e <;> simp [State.lpCwRead]

@[simp] theorem State.cwRead_steady (s : State) (cw : Nat) (scrub : Bool) : (s.cwRead cw scrub).1.steady = s.steady := by
  unfold State.cwRead
  split
  · rfl
  · split
    · exact s.vaultCwRead_steady _ _ _ _
    · exact s.lpCwRead_steady _ _ _

/-- A fold over accesses that each leave the steady part leaves it; the accesses may gather more than the state (`p` is the state they reach). -/
theorem steady_foldl {α β : Type} (p : β → State) (f : β → α → β) (hf : ∀ b x, (p (f b x)).steady = (p b).steady)
    (l : List α) (b : β) : (p (l.foldl f b)).steady = (p b).steady := by
  induction l generalizing b with
  | nil => rfl
  | cons x l ih => exact (ih (f b x)).trans (hf b x)

@[simp] theorem State.devCheck_steady (s : State) (a n : Nat) (scrub : Bool) : (s.devCheck a n scrub).1.steady = s.steady := by
  unfold State.devCheck
  split
  · rfl
  · have hread (q : State × List Nat) (w : Nat × CwErr) : (q.1.cwRead w.1 scrub).1.steady = q.1.steady := q.1.cwRead_steady w.1 scrub
    exact (steady_foldl Prod.fst _ hread _ _).trans (s.countGran_steady _ _ _)

@[simp] theorem State.devStore_steady (s : State) (a : Nat) (bs : List Byte) : (s.devStore a bs).steady = s.steady := by
  unfold State.devStore
  extract_lets n part ends s1
  have h1 : s1.steady = s.steady := steady_foldl id _ (fun q cw => q.cwRead_steady cw false) ends s
  split
  · rfl
  · simpa using h1

@[simp] theorem State.mirrorFault_steady (s : State) (seq : Nat) : (s.mirrorFault seq).steady = s.steady := by
  unfold State.mirrorFault
  split
  · simp
  · rfl

/-- Rewriting a journal entry, in the vault and in the host mirror, is an access to memory (R295, R298). -/
@[simp] theorem State.journalWrite_steady (s : State) (seq off : Nat) (bs : List Byte) : (s.journalWrite seq off bs).steady = s.steady := by
  unfold State.journalWrite
  extract_lets serves s1 h r
  have h1 : s1.steady = s.steady := by
    unfold s1
    split
    · simp
    · rfl
  have hr : r.1.steady = s.steady := by simp [r, h1]
  split
  · exact h1
  · split
    · simpa using h1
    · split
      · simpa using h1
      · split
        · simpa using hr
        · simpa using hr

/-! ## Completing a command (R287, R291) -/

theorem State.findCmd_seq {s : State} {n : Nat} {c : Cmd} (h : s.findCmd n = some c) : c.seq = n := by
  simpa using List.find?_some h

/-- A command that is ready to take effect is one that waits under its number. -/
theorem State.findCmd_of_cmdReady {s : State} {n op : Nat} {c : Cmd} (h : s.cmdReady n op = some c) : s.findCmd n = some c := by
  unfold State.cmdReady at h
  split at h
  · next d hd =>
    split at h
    · rw [hd, h]
    · cases h
  · cases h

/-- A command row whose command is ready runs its work. -/
theorem State.runCmd_of_cmdReady {s : State} {seq : Dword} {op : Nat} {c : Cmd} (f : Cmd → State) (h : s.cmdReady seq.toNat op = some c) :
    s.runCmd seq op f = .next (f c) := by
  simp [State.runCmd, h]

/-- The entry that answers a command. -/
def Cmd.completion (c : Cmd) (seq status result : Nat) : Completion :=
  { tag := c.tag, seq := seq, status := status, ring := c.ring, result := result }

/-- A command waits no more. -/
def State.unwait (s : State) (seq : Nat) : State := { s with host := { s.host with cmds := s.host.cmds.filter (fun q => q.seq ≠ seq) } }

@[simp] theorem State.unwait_boot (s : State) (seq : Nat) : (s.unwait seq).boot = s.boot := rfl
@[simp] theorem State.unwait_tiles (s : State) (seq : Nat) : (s.unwait seq).tiles = s.tiles := rfl
@[simp] theorem State.unwait_cmds (s : State) (seq : Nat) : (s.unwait seq).host.cmds = s.host.cmds.filter (fun q => q.seq ≠ seq) := rfl

/-- The state once a command has left the waiting ones and its journal entry says so; its answer is still to be given. -/
def State.withdraw (s : State) (seq status : Nat) : State :=
  if seq + 65536 < s.host.next then s.unwait seq else (s.unwait seq).journalWrite seq 0x20 (jrnDone s.beat.toNat status)

/-- A command's answer: an MCTP response to a management order, an entry for the completion ring to a host ring's, none to others (R287). -/
def State.respond (s : State) (ring : Nat) (e : Completion) : State :=
  if ring = 0xFE then s.mctpOut (.mctpResponse e)
  else if ring < 64 then { s with host := { s.host with waiting := s.host.waiting ++ [e] } }
  else s

theorem State.complete_of_not_waiting {s : State} {seq : Nat} (h : s.findCmd seq = none) (status result : Nat) :
    s.complete seq status result = s := by
  simp [State.complete, h]

theorem State.complete_of_waiting {s : State} {seq : Nat} {c : Cmd} (h : s.findCmd seq = some c) (status result : Nat) :
    s.complete seq status result = (s.withdraw seq status).respond c.ring (c.completion seq status result) := by
  unfold State.complete
  rw [h]
  rfl

theorem State.withdraw_steady (s : State) (seq status : Nat) : (s.withdraw seq status).steady = (s.unwait seq).steady := by
  unfold State.withdraw
  split
  · rfl
  · exact State.journalWrite_steady _ _ _ _

@[simp] theorem State.withdraw_boot (s : State) (seq status : Nat) : (s.withdraw seq status).boot = s.boot := by
  rw [State.boot_of_steady (s.withdraw_steady seq status), State.unwait_boot]
@[simp] theorem State.withdraw_tiles (s : State) (seq status : Nat) : (s.withdraw seq status).tiles = s.tiles := by
  rw [State.tiles_of_steady (s.withdraw_steady seq status), State.unwait_tiles]

theorem State.withdraw_findCmd (s : State) (seq status : Nat) : (s.withdraw seq status).findCmd seq = none := by
  have hh := State.host_of_steady (s.withdraw_steady seq status)
  simp [State.findCmd, hh]

@[simp] theorem State.respond_boot (s : State) (ring : Nat) (e : Completion) : (s.respond ring e).boot = s.boot := by
  unfold State.respond
  split_ifs <;> rfl
@[simp] theorem State.respond_tiles (s : State) (ring : Nat) (e : Completion) : (s.respond ring e).tiles = s.tiles := by
  unfold State.respond
  split_ifs <;> rfl
@[simp] theorem State.respond_findCmd (s : State) (ring : Nat) (e : Completion) (n : Nat) : (s.respond ring e).findCmd n = s.findCmd n := by
  unfold State.respond
  split_ifs <;> rfl

theorem State.respond_waiting {s : State} {ring : Nat} (e : Completion) (h : ring < 64) : e ∈ (s.respond ring e).host.waiting := by
  have hm : ring ≠ 0xFE := by omega
  simp [State.respond, h, hm]

theorem State.respond_outbox (s : State) (e : Completion) : Out.mctpResponse e ∈ (s.respond 0xFE e).outbox := by
  simp [State.respond, State.mctpOut]

@[simp] theorem State.complete_boot (s : State) (seq status result : Nat) : (s.complete seq status result).boot = s.boot := by
  cases h : s.findCmd seq with
  | none => rw [State.complete_of_not_waiting h]
  | some c => simp [State.complete_of_waiting h]
@[simp] theorem State.complete_tiles (s : State) (seq status result : Nat) : (s.complete seq status result).tiles = s.tiles := by
  cases h : s.findCmd seq with
  | none => rw [State.complete_of_not_waiting h]
  | some c => simp [State.complete_of_waiting h]

/-- `State.complete` completes the command, whatever answer its ring calls for. -/
theorem completed_complete (s : State) (seq status result : Nat) : Completed s (s.complete seq status result) seq status := by
  intro c hc
  rw [State.complete_of_waiting hc]
  refine ⟨?_, fun hring => ⟨c.completion seq status result, State.respond_waiting _ hring, rfl, rfl, rfl, rfl⟩, fun hmgmt => ?_⟩
  · rw [State.respond_findCmd, State.withdraw_findCmd]
  · rw [hmgmt]
    exact ⟨c.completion seq status result, State.respond_outbox _ _, rfl, rfl, rfl⟩

/-! ## RESET_DOMAIN refused (R341) -/

theorem State.postDomain_absent {s : State} {c : Cmd} (hk : c.kind ≠ 7) (ha : s.domainPresent c.kind c.index = false) (release : Bool) :
    s.postDomain c release = s.complete c.seq stUnitAbsent 0 := by
  simp [State.postDomain, hk, ha]

/-- An order of either kind for an absent domain completes with UNIT_ABSENT (`act` is the ACT byte that the command's row asks for). -/
theorem runCmd_postDomain_absent {s : State} {seq : Dword} {c : Cmd} {act : Nat} (hc : s.cmdReady seq.toNat 0x22 = some c)
    (hact : field c.payload 2 1 = act) (hk : c.kind ≠ 7) (ha : s.domainPresent c.kind c.index = false) (release : Bool) :
    s.runCmd seq 0x22 (fun d => if field d.payload 2 1 = act ∧ d.kind ≠ 7 then s.postDomain d release else s) =
      .next (s.complete seq.toNat stUnitAbsent 0) := by
  have hseq : c.seq = seq.toNat := State.findCmd_seq (State.findCmd_of_cmdReady hc)
  rw [State.runCmd_of_cmdReady _ hc, if_pos ⟨hact, hk⟩, State.postDomain_absent hk ha, hseq]

theorem exec_resetDomainReset_absent {s : State} {seq : Dword} {c : Cmd} (hc : s.cmdReady seq.toNat 0x22 = some c)
    (hact : field c.payload 2 1 = 1) (hk : c.kind ≠ 7) (ha : s.domainPresent c.kind c.index = false) :
    exec (.resetDomainReset seq) s = .next (s.complete seq.toNat stUnitAbsent 0) :=
  runCmd_postDomain_absent hc hact hk ha false

theorem exec_resetDomainRelease_absent {s : State} {seq : Dword} {c : Cmd} (hc : s.cmdReady seq.toNat 0x22 = some c)
    (hact : field c.payload 2 1 = 2) (hk : c.kind ≠ 7) (ha : s.domainPresent c.kind c.index = false) :
    exec (.resetDomainRelease seq) s = .next (s.complete seq.toNat stUnitAbsent 0) :=
  runCmd_postDomain_absent hc hact hk ha true

/-- A due reset of a domain that is not in RUN, or of a vault whose cluster is not, only takes the order and completes its command. -/
theorem exec_domainResetEffect_refused {s : State} {kind : BitVec 3} {index : BitVec 6} {o : DomOrder}
    (ho : s.dueOrder kind.toNat index.toNat = some o) (hrel : o.release = false) (hk : kind.toNat ≠ 7)
    (hst : s.domain kind.toNat index.toNat ≠ .run ∨ (kind.toNat = 2 ∧ s.domain 1 index.toNat ≠ .run)) :
    exec (.domainResetEffect kind index) s = .next ((s.dropOrder o).complete o.seq stDomainState 0) := by
  change execDomainResetEffect kind index s = _
  simp only [execDomainResetEffect, ho, hrel, Bool.false_eq_true, if_false, if_neg hk, if_pos hst]

/-- A due release of a domain that is not in HELD only takes the order and completes its command. -/
theorem exec_domainReleaseEffect_refused {s : State} {kind : BitVec 3} {index : BitVec 6} {o : DomOrder}
    (ho : s.dueOrder kind.toNat index.toNat = some o) (hrel : o.release = true) (hst : s.domain kind.toNat index.toNat ≠ .held) :
    exec (.domainReleaseEffect kind index) s = .next ((s.dropOrder o).complete o.seq stDomainState 0) := by
  change execDomainReleaseEffect kind index s = _
  simp only [execDomainReleaseEffect, ho, hrel, Bool.not_true, Bool.false_eq_true, if_false, if_pos hst]

@[simp] theorem State.dropOrder_domOrders (s : State) (o : DomOrder) : (s.dropOrder o).boot.domOrders = s.boot.domOrders.erase o := rfl
@[simp] theorem State.dropOrder_doms (s : State) (o : DomOrder) : (s.dropOrder o).boot.doms = s.boot.doms := rfl
@[simp] theorem State.dropOrder_tiles (s : State) (o : DomOrder) : (s.dropOrder o).tiles = s.tiles := rfl

/-- Completing the command of a dropped order completes it in the state before, whose waiting commands are the same. -/
theorem completed_dropOrder_complete (s : State) (o : DomOrder) (status : Nat) :
    Completed s ((s.dropOrder o).complete o.seq status 0) o.seq status :=
  completed_complete (s.dropOrder o) o.seq status 0

/-- Settles O53: an absent domain's command completes with UNIT_ABSENT, and an order that its domain's state does not allow is taken
from the queue and completes with DOMAIN_STATE. -/
theorem domainOrders : Obligations.DomainOrders := by
  unfold Obligations.DomainOrders
  intro s seq c kind index o n k i act absent wrong
  have habsent : ∀ j, exec j s = .next (s.complete n stUnitAbsent 0) → absent j := fun j hj =>
    ⟨_, hj, completed_complete s n stUnitAbsent 0, by simp, by simp⟩
  have hwrong : ∀ j, exec j s = .next ((s.dropOrder o).complete o.seq stDomainState 0) → wrong j := fun j hj =>
    ⟨_, hj, completed_dropOrder_complete s o stDomainState, by simp, by simp, by simp⟩
  refine ⟨fun hc hk ha => ⟨fun hact => ?_, fun hact => ?_⟩, fun ho hrel hk hst => ?_, fun ho hrel hst => ?_⟩
  · exact habsent _ (exec_resetDomainReset_absent hc hact hk ha)
  · exact habsent _ (exec_resetDomainRelease_absent hc hact hk ha)
  · exact hwrong _ (exec_domainResetEffect_refused ho hrel hk hst)
  · exact hwrong _ (exec_domainReleaseEffect_refused ho hrel hst)

end Sys2Proof.Machine
end
